-- ==== Sys2Proof/Word.lean ====
section
/-! DEFINITION. The word types of the AX6408 (R4): bit 0 of any field, register or word is its least
significant bit. A register is one or two 32-bit words (chapter 21), a Whorl register holds 64 bits (R70),
the memories hold bytes. -/

namespace Sys2Proof

/-- One byte of a memory or of a frame. -/
abbrev Byte := BitVec 8

/-- One 32-bit register word or instruction word. -/
abbrev Word := BitVec 32

/-- One 64-bit value: a G or P register, a data word, a statistics counter. -/
abbrev DWord := BitVec 64

end Sys2Proof
end

