-- ==== Sys2Proof/Machine/Bits.lean ====
section
/-! DEFINITION. Bit-field helpers: reading and writing the field [lo + len - 1 : lo] of a register word (R4),
little-endian bytes of a number (R4), and the saturating counters of R464. -/

namespace Sys2Proof.Machine

/-- The field of `len` bits that begins at bit `lo`, as a number. -/
def fld {n : Nat} (w : BitVec n) (lo len : Nat) : Nat := (w.toNat >>> lo) % 2 ^ len

/-- Bit `i` of a word. -/
def bit {n : Nat} (w : BitVec n) (i : Nat) : Bool := w.getLsbD i

/-- `w` with the field of `len` bits at `lo` replaced by `v` (its low `len` bits). -/
def setFld {n : Nat} (w : BitVec n) (lo len v : Nat) : BitVec n :=
  (w &&& ~~~(BitVec.ofNat n ((2 ^ len - 1) <<< lo))) ||| BitVec.ofNat n ((v % 2 ^ len) <<< lo)

/-- `w` with bit `i` set or cleared. -/
def setBit {n : Nat} (w : BitVec n) (i : Nat) (b : Bool) : BitVec n := setFld w i 1 (if b then 1 else 0)

/-- The number 1 for true and 0 for false. -/
def b2n (b : Bool) : Nat := if b then 1 else 0

/-- `n` little-endian bytes of a number (R4). -/
def leBytes : Nat → Nat → List Byte
  | 0, _ => []
  | n + 1, v => BitVec.ofNat 8 v :: leBytes n (v / 256)

/-- The number that little-endian bytes spell (R4). -/
def leNat : List Byte → Nat
  | [] => 0
  | b :: bs => b.toNat + 256 * leNat bs

/-- `n` bytes of a number in network byte order (R4). -/
def beBytes (n v : Nat) : List Byte := (leBytes n v).reverse

/-- The number that bytes in network byte order spell (R4). -/
def beNat (bs : List Byte) : Nat := leNat bs.reverse

/-- Sign-extend the low `len` bits of `v` to an integer. -/
def sextInt (len v : Nat) : Int :=
  let x := v % 2 ^ len
  if x < 2 ^ (len - 1) then (x : Int) else (x : Int) - (2 ^ len : Nat)

/-- Modulo `2 ^ len` of an integer, as a number. -/
def intMod (len : Nat) (i : Int) : Nat := (i % (2 ^ len : Nat)).toNat

/-- Ceiling of a division of natural numbers. -/
def ceilDiv (a b : Nat) : Nat := if b = 0 then 0 else (a + b - 1) / b

/-- The field value, or `alt` where it is 0: many registers say that 0 acts as another value. -/
def orIf0 (v alt : Nat) : Nat := if v = 0 then alt else v

/-- One more event in an error counter with SAT in bit 31 (R464): COUNT saturates at 0x7FFF_FFFF and sets SAT. -/
def bumpSat (w : Word) (n : Nat) : Word :=
  let c := fld w 0 31 + n
  if c ≥ 0x7FFFFFFF then BitVec.ofNat 32 (0x80000000 ||| 0x7FFFFFFF) ||| w else
    BitVec.ofNat 32 (c + (if bit w 31 then 0x80000000 else 0))

/-- One more event in a 32-bit saturating counter without a flag (R464). -/
def bump32 (w : Word) (n : Nat) : Word :=
  if w.toNat + n ≥ 0xFFFFFFFF then BitVec.allOnes 32 else w + BitVec.ofNat 32 n

/-- Take `n` elements from a list beginning at `off`, padded with `d`. -/
def sliceD {α : Type} (d : α) (l : List α) (off n : Nat) : List α :=
  let x := (l.drop off).take n
  x ++ List.replicate (n - x.length) d

/-- Replace the bytes of `l` from `off` on by `new`, where they lie inside `l`. -/
def overwrite {α : Type} (l : List α) (off : Nat) (new : List α) : List α :=
  let new' := new.take (l.length - off)
  l.take off ++ new' ++ l.drop (off + new'.length)

/-- Insert `new` before position `off`. -/
def insertAt {α : Type} (l : List α) (off : Nat) (new : List α) : List α := l.take off ++ new ++ l.drop off

/-- Remove `n` elements at `off`. -/
def cutAt {α : Type} (l : List α) (off n : Nat) : List α := l.take off ++ l.drop (off + n)

/-- The element at position `i`, or `d`. -/
def nthD {α : Type} (d : α) (l : List α) (i : Nat) : α := l.getD i d

/-- One bit of a reflected CRC with polynomial `poly`. -/
def crcBit (poly c : Nat) : Nat := if c % 2 = 1 then Nat.xor (c / 2) poly else c / 2

/-- One byte of a reflected CRC. -/
def crcByte (poly c : Nat) (b : Byte) : Nat :=
  let x := Nat.xor c b.toNat
  crcBit poly (crcBit poly (crcBit poly (crcBit poly (crcBit poly (crcBit poly (crcBit poly (crcBit poly x)))))))

/-- A reflected 32-bit CRC over bytes, with all-ones start value and inverted result. -/
def crc32With (poly : Nat) (bs : List Byte) : Nat := Nat.xor (bs.foldl (crcByte poly) 0xFFFFFFFF) 0xFFFFFFFF

/-- The frame check sequence of IEEE 802.3, as the four bytes that follow the frame. -/
def fcsOf (bs : List Byte) : List Byte := leBytes 4 (crc32With 0xEDB88320 bs)

/-- CRC32C (Castagnoli). -/
def crc32c (bs : List Byte) : Nat := crc32With 0x82F63B78 bs

/-- One's complement sum of two 16-bit values (end-around carry). -/
def ocAdd (a b : Nat) : Nat :=
  let s := a % 65536 + b % 65536
  if 65536 ≤ s then s - 65535 else s

/-- One's complement sum of bytes taken as 16-bit words in network byte order; an odd last byte is a high byte. -/
def ocSum : List Byte → Nat
  | [] => 0
  | [a] => 256 * a.toNat
  | a :: b :: rest => ocAdd (256 * a.toNat + b.toNat) (ocSum rest)

end Sys2Proof.Machine
end

