-- ==== Sys2Proof/Machine/Map.lean ====
section
/-! DEFINITION. Sparse maps in one canonical form: a list of (key, value) pairs with keys strictly rising. With a
default value, no entry equals the default, so that equal maps are equal data. Memories are such maps of bytes
(Host.Cell), register files such maps of words, and every numbered thing the device has many of is one. -/

namespace Sys2Proof.Machine

/-- A sparse map from numbers. -/
abbrev SMap (α : Type) := List (Nat × α)

/-- The value listed at a key. -/
def mfind {α : Type} : SMap α → Nat → Option α
  | [], _ => none
  | (k, v) :: m, x => if k = x then some v else mfind m x

/-- Put a value at a key, keeping keys rising. -/
def mset {α : Type} : SMap α → Nat → α → SMap α
  | [], x, v => [(x, v)]
  | (k, w) :: m, x, v =>
    if x < k then (x, v) :: (k, w) :: m
    else if x = k then (x, v) :: m
    else (k, w) :: mset m x v

/-- Remove a key. -/
def mdel {α : Type} : SMap α → Nat → SMap α
  | [], _ => []
  | (k, w) :: m, x => if k = x then mdel m x else (k, w) :: mdel m x

/-- The value at a key, with the value `d` where none is listed. -/
def mget {α : Type} (m : SMap α) (x : Nat) (d : α) : α := (mfind m x).getD d

/-- Put a value at a key; the default value `d` is not listed. -/
def mput {α : Type} [DecidableEq α] (m : SMap α) (x : Nat) (v d : α) : SMap α :=
  if v = d then mdel m x else mset m x v

/-- Change the value at a key. -/
def mupd {α : Type} [DecidableEq α] (m : SMap α) (x : Nat) (d : α) (f : α → α) : SMap α := mput m x (f (mget m x d)) d

/-- Every listed key lies at or above `lo`, keys rise strictly. -/
def keysFrom {α : Type} : Nat → SMap α → Bool
  | _, [] => true
  | lo, (k, _) :: m => decide (lo ≤ k) && keysFrom (k + 1) m

/-- The canonical form over the default `d`: keys strictly rising, no entry equal to `d`. -/
def mwf {α : Type} [DecidableEq α] (m : SMap α) (d : α) : Bool := keysFrom 0 m && m.all (fun e => decide (e.2 ≠ d))

/-- The keys listed. -/
def mkeys {α : Type} (m : SMap α) : List Nat := m.map (·.1)

/-- Apply a function to every listed value; a value that becomes `d` is dropped from the list. -/
def mmapD {α : Type} [DecidableEq α] (m : SMap α) (d : α) (f : Nat → α → α) : SMap α :=
  (m.map (fun e => (e.1, f e.1 e.2))).filter (fun e => decide (e.2 ≠ d))

/-- `n` values from key `a` on. -/
def mrange {α : Type} (m : SMap α) (d : α) : Nat → Nat → List α
  | _, 0 => []
  | a, n + 1 => mget m a d :: mrange m d (a + 1) n

/-- Put a list of values from key `a` on. -/
def mputs {α : Type} [DecidableEq α] (m : SMap α) (d : α) : Nat → List α → SMap α
  | _, [] => m
  | a, v :: vs => mputs (mput m a v d) d (a + 1) vs

/-- Remove every key in `lo ≤ k < hi`. -/
def mdelRange {α : Type} (m : SMap α) (lo hi : Nat) : SMap α := m.filter (fun e => decide (e.1 < lo ∨ hi ≤ e.1))

/-- A memory: bytes at addresses (Host.Cell), canonical over the byte that an unlisted address reads as. -/
abbrev Memory := List Host.Cell

/-- What an address that nothing has written reads as: 0x00 (DESIGN CHOICE, log entry 3). -/
def memDefault : Byte := 0

/-- The canonical form of a memory. -/
def Memory.wf (m : Memory) : Bool := mwf (α := Byte) m memDefault

/-- Read one byte. -/
def memRd (m : Memory) (a : Nat) : Byte := mget (α := Byte) m a memDefault

/-- Write one byte. -/
def memWr (m : Memory) (a : Nat) (b : Byte) : Memory := mput (α := Byte) m a b memDefault

/-- Read `n` bytes from `a` on. -/
def memRdN (m : Memory) (a n : Nat) : List Byte := mrange (α := Byte) m memDefault a n

/-- Write bytes from `a` on. -/
def memWrN (m : Memory) (a : Nat) (bs : List Byte) : Memory := mputs (α := Byte) m memDefault a bs

/-- Clear a range to the default byte. -/
def memClear (m : Memory) (lo hi : Nat) : Memory := mdelRange (α := Byte) m lo hi

end Sys2Proof.Machine
end

