-- ==== Sys2Proof/Machine/RegMap.lean ====
section
/-! DEFINITION. The register map of chapter 21 (Tables 21-1 to 21-16, R524, R532 to R541): one constructor of `Reg` per
register of the tables, its first address, how many instances it has and at what strides, its reset value, and which of
its bits each access code of R5 governs, from the field tables of the chapters. `locate` finds the register that an
address names (R524): one search through the list of all registers. -/

namespace Sys2Proof.Machine

/-- The blocks that have a COMMIT (R527). -/
inductive Blk where
  | tk | lk | sw | sc | ci | bs
  deriving DecidableEq, Repr

/-- How a write reaches the value the device uses: at the next boundary (R526), by the block's COMMIT (R527), or by a bank
swap (R177). -/
inductive RegKind where
  | plain | staged (b : Blk) | banked
  deriving DecidableEq, Repr

/-- The registers, one constructor per register name of Tables 21-7 to 21-16. Where one name has several reset values
(LK_COMB_CFG, BL_CREDIT, CI_BYPASS) it has several constructors. -/
inductive Reg where
  /-- CT_LOCK at 0x10. -/
  | ctLock
  /-- CT_ISO_CFG at 0x100. -/
  | ctIsoCfg
  /-- CT_CMD_CFG at 0x200. -/
  | ctCmdCfg
  /-- CT_CMD_MAC at 0x208. -/
  | ctCmdMac
  /-- CT_CMD_STATUS at 0x210. -/
  | ctCmdStatus
  /-- CT_CMD_LAST at 0x220. -/
  | ctCmdLast
  /-- CT_CMD_REFUSE_CNT at 0x240. -/
  | ctCmdRefuseCnt
  /-- CT_RESET at 0x300. -/
  | ctReset
  /-- CT_BOOT_STATUS at 0x308. -/
  | ctBootStatus
  /-- CT_BOOT_SKIPPED at 0x30c. -/
  | ctBootSkipped
  /-- SE_STATUS at 0x100000. -/
  | seStatus
  /-- SE_IMG_STATUS at 0x100010. -/
  | seImgStatus
  /-- SE_MIG_CMD at 0x102000. -/
  | seMigCmd
  /-- SE_MIG_ADDR at 0x102008. -/
  | seMigAddr
  /-- SE_MIG_ARG at 0x102018. -/
  | seMigArg
  /-- SE_MIG_RESULT at 0x102020. -/
  | seMigResult
  /-- TK_TICK_CNT_LO at 0x200000. -/
  | tkTickLo
  /-- TK_TICK_CNT_HI at 0x200004. -/
  | tkTickHi
  /-- TK_COMMIT at 0x200100. -/
  | tkCommit
  /-- TK_DQ_LIMIT at 0x200120. -/
  | tkDqLimit
  /-- TK_DQ_STATUS at 0x200200. -/
  | tkDqStatus
  /-- TK_ORD_HELD at 0x200300. -/
  | tkOrdHeld
  /-- TK_VERDICT_CFG at 0x200400. -/
  | tkVerdictCfg
  /-- TK_FRM_CFG at 0x200500. -/
  | tkFrmCfg
  /-- TK_FRM_BASE at 0x200504. -/
  | tkFrmBase
  /-- TK_FRM_STATUS at 0x200508. -/
  | tkFrmStatus
  /-- TK_PUNT_CFG at 0x200800. -/
  | tkPuntCfg
  /-- TK_DQ_DROP at 0x201000. -/
  | tkDqDrop
  /-- TK_WG_CFG at 0x202000. -/
  | tkWgCfg
  /-- TK_WG_STATUS at 0x202004. -/
  | tkWgStatus
  /-- TK_CAP_CTL at 0x203000. -/
  | tkCapCtl
  /-- TK_CAP_DATA at 0x203100. -/
  | tkCapData
  /-- RL_REEL_CTL at 0x300000. -/
  | rlReelCtl
  /-- RL_REEL_STATUS at 0x300004. -/
  | rlReelStatus
  /-- RL_REEL_IMG at 0x300008. -/
  | rlReelImg
  /-- RL_OVERRUN_CNT at 0x30000c. -/
  | rlOverrunCnt
  /-- RL_FAULT_INFO at 0x300010. -/
  | rlFaultInfo
  /-- RL_FAULT_WORD at 0x300014. -/
  | rlFaultWord
  /-- RL_THREAD_CFG at 0x300100. -/
  | rlThreadCfg
  /-- RL_DBG_CTL at 0x300200. -/
  | rlDbgCtl
  /-- RL_BRK at 0x300300. -/
  | rlBrk
  /-- RL_EVT_CFG at 0x300400. -/
  | rlEvtCfg
  /-- RL_EVT_BIND at 0x301000. -/
  | rlEvtBind
  /-- DR_LOCK_CFG at 0x580000. -/
  | drLockCfg
  /-- DR_LOCK_STATUS at 0x584000. -/
  | drLockStatus
  /-- DR_LOCK_EVT_CNT at 0x588000. -/
  | drLockEvtCnt
  /-- DR_CHAN_CFG0 at 0x58a000. -/
  | drChanCfg0
  /-- DR_CHAN_CFG1 at 0x58a004. -/
  | drChanCfg1
  /-- DR_CHAN_STATUS at 0x592000. -/
  | drChanStatus
  /-- DR_CHAN_VOID_CNT at 0x596000. -/
  | drChanVoidCnt
  /-- LK_CMD at 0x600000. -/
  | lkCmd
  /-- LK_CMD_RESULT at 0x600004. -/
  | lkCmdResult
  /-- LK_CMD_DATA at 0x600040. -/
  | lkCmdData
  /-- LK_COMMIT at 0x600400. -/
  | lkCommit
  /-- LK_COMB_CFG at 0x600420. -/
  | lkCombCfgA
  /-- LK_COMB_CFG at 0x600424. -/
  | lkCombCfgB
  /-- LK_COMB_CFG at 0x600430. -/
  | lkCombCfgC
  /-- LK_WALK_CFG at 0x600440. -/
  | lkWalkCfg
  /-- LK_SHADOW_BASE at 0x600450. -/
  | lkShadowBase
  /-- LK_FLOW_CFG at 0x600470. -/
  | lkFlowCfg
  /-- LK_LEARN_CFG at 0x600480. -/
  | lkLearnCfg
  /-- LK_RING_CFG at 0x600500. -/
  | lkRingCfg
  /-- LK_RING_PROD at 0x600504. -/
  | lkRingProd
  /-- LK_RING_CONS at 0x600508. -/
  | lkRingCons
  /-- LK_SUSPECT_INFO at 0x600600. -/
  | lkSuspectInfo
  /-- LK_CAM_STATUS at 0x600620. -/
  | lkCamStatus
  /-- LK_EVT_CNT at 0x600700. -/
  | lkEvtCnt
  /-- LK_BD_CFG at 0x601000. -/
  | lkBdCfg
  /-- LK_DOM_QUOTA at 0x605000. -/
  | lkDomQuota
  /-- LK_DOM_USE at 0x605004. -/
  | lkDomUse
  /-- SW_CT_EN at 0x800040. -/
  | swCtEn
  /-- SW_CT_ABORT at 0x800080. -/
  | swCtAbort
  /-- SW_CT_ABORT_SAT at 0x800100. -/
  | swCtAbortSat
  /-- SW_COMMIT at 0x800200. -/
  | swCommit
  /-- SW_HOLD_CFG at 0x800210. -/
  | swHoldCfg
  /-- SW_BOND_CFG at 0x800218. -/
  | swBondCfg
  /-- SW_IN_PART at 0x800400. -/
  | swInPart
  /-- SW_IN_USE at 0x800404. -/
  | swInUse
  /-- SW_CLASS_MAX at 0x800600. -/
  | swClassMax
  /-- SW_DEST_CTL at 0x800a00. -/
  | swDestCtl
  /-- SW_DEST_DEPTH at 0x800a80. -/
  | swDestDepth
  /-- SW_ADM_DROP at 0x800c00. -/
  | swAdmDrop
  /-- SW_IN_DROP at 0x801000. -/
  | swInDrop
  /-- SW_IN_RXDROP at 0x801400. -/
  | swInRxdrop
  /-- SW_EVT_CNT at 0x801480. -/
  | swEvtCnt
  /-- SW_MC_CMD at 0x801500. -/
  | swMcCmd
  /-- SW_MC_DATA at 0x801520. -/
  | swMcData
  /-- SW_MC_CFG at 0x801540. -/
  | swMcCfg
  /-- SW_PE_COMMIT at 0x810000. -/
  | swPeCommit
  /-- SW_PG_EXC_CNT at 0x810040. -/
  | swPgExcCnt
  /-- SW_PG_INPUT at 0x810100. -/
  | swPgInput
  /-- SW_PG_CMAP at 0x810200. -/
  | swPgCmap
  /-- SW_ED_DROP at 0x810300. -/
  | swEdDrop
  /-- NODE at 0x811000. -/
  | swPgNode
  /-- TEMPLATE at 0x820000. -/
  | swEdTpl
  /-- SW_GTKT at 0x860000. -/
  | swGtkt
  /-- SW_ATKT at 0x862000. -/
  | swAtkt
  /-- SW_VOQ_CFG at 0x880000. -/
  | swVoqCfg
  /-- SW_VOQ_STATUS at 0x8a0000. -/
  | swVoqStatus
  /-- SC_COMMIT at 0xa00000. -/
  | scCommit
  /-- SC_WRED_CURVE at 0xa00100. -/
  | scWredCurve
  /-- SC_WRED_CFG at 0xa00118. -/
  | scWredCfg
  /-- SC_ECN_MARK at 0xa00400. -/
  | scEcnMark
  /-- SC_EVT_CNT at 0xa00480. -/
  | scEvtCnt
  /-- SC_ROOT_CFG at 0xa00600. -/
  | scRootCfg
  /-- SC_SMP_CFG at 0xa00800. -/
  | scSmpCfg
  /-- SC_SMP_SCHED at 0xa00804. -/
  | scSmpSched
  /-- SC_SMP_PROD at 0xa00808. -/
  | scSmpProd
  /-- SC_SMP_CONS at 0xa0080c. -/
  | scSmpCons
  /-- SC_WAFT_CFG at 0xa00900. -/
  | scWaftCfg
  /-- SC_WAFT_Q at 0xa00980. -/
  | scWaftQ
  /-- SC_MIR_SESS at 0xa00a00. -/
  | scMirSess
  /-- SC_MIR_SEL at 0xa00a40. -/
  | scMirSel
  /-- SC_MTR_CMD at 0xa01000. -/
  | scMtrCmd
  /-- SC_MTR_DATA at 0xa01040. -/
  | scMtrData
  /-- SC_SMP_LIST at 0xa08000. -/
  | scSmpList
  /-- SC_DOM_CFG at 0xa10000. -/
  | scDomCfg
  /-- SC_DOM_RATE at 0xa10004. -/
  | scDomRate
  /-- SC_DOM_BURST at 0xa10008. -/
  | scDomBurst
  /-- SC_DOM_CFG at 0xa20000. -/
  | scVpnCfg
  /-- SC_VPN_RATE at 0xa20004. -/
  | scVpnRate
  /-- SC_VPN_BURST at 0xa20008. -/
  | scVpnBurst
  /-- SC_SQ_CFG at 0xa40000. -/
  | scSqCfg
  /-- BL_CFG at 0xc00000. -/
  | blCfg
  /-- BL_REPLAY at 0xc00004. -/
  | blReplay
  /-- BL_CPL_TIMEOUT at 0xc00008. -/
  | blCplTimeout
  /-- BL_LOST at 0xc0000c. -/
  | blLost
  /-- BL_CREDIT at 0xc00010. -/
  | blCredit0
  /-- BL_CREDIT at 0xc00014. -/
  | blCredit1
  /-- BL_CREDIT at 0xc00018. -/
  | blCredit2
  /-- BL_CREDIT at 0xc0001c. -/
  | blCredit3
  /-- BL_STATUS at 0xc00020. -/
  | blStatus
  /-- BL_TAGS at 0xc00024. -/
  | blTags
  /-- BL_REPLAY_USE at 0xc00028. -/
  | blReplayUse
  /-- BL_PEER_ID_LO at 0xc00030. -/
  | blPeerIdLo
  /-- BL_PEER_ID_HI at 0xc00034. -/
  | blPeerIdHi
  /-- BL_PMD_CFG at 0xc00040. -/
  | blPmdCfg
  /-- BL_ERR_CNT at 0xc00100. -/
  | blErrCnt
  /-- MB_IN at 0x1000008. -/
  | vpMbIn
  /-- MB_OUT at 0x1000010. -/
  | vpMbOut
  /-- DBB at 0x1000018. -/
  | vpDbb
  /-- DBB_MASK at 0x100001c. -/
  | vpDbbMask
  /-- VP_STATUS at 0x1000020. -/
  | vpStatus
  /-- VP_SIG_CFG at 0x1000040. -/
  | vpSigCfg
  /-- VP_CNT at 0x1000140. -/
  | vpCnt
  /-- VP_SQ_STATUS at 0x1000200. -/
  | vpSqStatus
  /-- VP_RQ_STATUS at 0x1000400. -/
  | vpRqStatus
  /-- VP_CQ_STATUS at 0x1000600. -/
  | vpCqStatus
  /-- VP_CTL at 0x1000800. -/
  | vpCtl
  /-- VP_CFG at 0x1000808. -/
  | vpCfg
  /-- VP_QRANGE at 0x1000810. -/
  | vpQrange
  /-- VP_MIG_CTL at 0x1000818. -/
  | vpMigCtl
  /-- VP_MIG_SAVE at 0x1000820. -/
  | vpMigSave
  /-- VP_MIG_STATUS at 0x1000828. -/
  | vpMigStatus
  /-- VP_MIG_CNT at 0x1000830. -/
  | vpMigCnt
  /-- VP_MB_CFG at 0x1000840. -/
  | vpMbCfg
  /-- VP_MB_STATUS at 0x1000848. -/
  | vpMbStatus
  /-- BB_CTL at 0x1800000. -/
  | bbCtl
  /-- BB_SIG at 0x1800004. -/
  | bbSig
  /-- BB_HOST at 0x1800008. -/
  | bbHost
  /-- BB_IOVA_LO at 0x1800010. -/
  | bbIovaLo
  /-- BB_IOVA_HI at 0x1800014. -/
  | bbIovaHi
  /-- BB_LEN at 0x1800018. -/
  | bbLen
  /-- BB_DONE at 0x180001c. -/
  | bbDone
  /-- BB_STATUS at 0x1800020. -/
  | bbStatus
  /-- BB_FAIL_LO at 0x1800028. -/
  | bbFailLo
  /-- BB_FAIL_HI at 0x180002c. -/
  | bbFailHi
  /-- BB_RETRY_CNT at 0x1800030. -/
  | bbRetryCnt
  /-- BB_WAY at 0x1800080. -/
  | bbWay
  /-- BB_QCMD at 0x1840000. -/
  | bbQcmd
  /-- BB_QOP at 0x1840004. -/
  | bbQop
  /-- BB_QDATA at 0x1840040. -/
  | bbQdata
  /-- BB_CFG at 0x1840100. -/
  | bbCfg
  /-- BB_RX_HOLD at 0x1840200. -/
  | bbRxHold
  /-- CI_COMMIT at 0x1a00000. -/
  | ciCommit
  /-- CI_CACHE_CFG at 0x1a00040. -/
  | ciCacheCfg
  /-- CI_CL_CFG at 0x1a00100. -/
  | ciClCfg
  /-- CI_SP_CFG at 0x1a00200. -/
  | ciSpCfg
  /-- CI_SP_MAXLEN at 0x1a00240. -/
  | ciSpMaxlen
  /-- CI_BYPASS at 0x1a00300. -/
  | ciBypass0
  /-- CI_BYPASS at 0x1a00304. -/
  | ciBypass
  /-- CI_SA_CMD at 0x1a00400. -/
  | ciSaCmd
  /-- CI_SA_DATA at 0x1a00440. -/
  | ciSaData
  /-- CI_REKEY_Q at 0x1a004c0. -/
  | ciRekeyQ
  /-- CI_DROP_CNT at 0x1a00800. -/
  | ciDropCnt
  /-- CI_CACHE_SHARE at 0x1a02000. -/
  | ciCacheShare
  /-- CI_CACHE_USE at 0x1a02004. -/
  | ciCacheUse
  /-- RXSC at 0x1a10000. -/
  | ciRxsc
  /-- BS_COMMIT at 0x1c00000. -/
  | bsCommit
  /-- BS_CMD at 0x1c00010. -/
  | bsCmd
  /-- BS_DATA at 0x1c00040. -/
  | bsData
  /-- BS_TCP_CFG at 0x1c00100. -/
  | bsTcpCfg
  /-- BS_IO_TIMEOUT at 0x1c00104. -/
  | bsIoTimeout
  /-- BS_STAGE at 0x1c00108. -/
  | bsStage
  /-- LK_RING_CFG at 0x1c00110. -/
  | bsAdmRxCfg
  /-- BS_ADM_RX_PROD at 0x1c00114. -/
  | bsAdmRxProd
  /-- BS_ADM_RX_CONS at 0x1c00118. -/
  | bsAdmRxCons
  /-- LK_RING_CFG at 0x1c00120. -/
  | bsAdmTxCfg
  /-- BS_ADM_TX_PROD at 0x1c00124. -/
  | bsAdmTxProd
  /-- BS_ADM_TX_CONS at 0x1c00128. -/
  | bsAdmTxCons
  /-- BS_ADM_SIG at 0x1c00130. -/
  | bsAdmSig
  /-- BS_LOCKED at 0x1c00140. -/
  | bsLocked
  /-- BS_LOCKED_STRIPE_LO at 0x1c00144. -/
  | bsLockedLo
  /-- BS_LOCKED_STRIPE_HI at 0x1c00148. -/
  | bsLockedHi
  /-- BS_EVT_CNT at 0x1c00200. -/
  | bsEvtCnt
  /-- BS_DOM_CTX at 0x1c01000. -/
  | bsDomCtx
  /-- BS_DOM_CTX_USE at 0x1c01004. -/
  | bsDomCtxUse
  /-- BS_VD_BUSY at 0x1c20000. -/
  | bsVdBusy
  /-- BS_CONN_STATUS at 0x1c40000. -/
  | bsConnStatus
  /-- MB_RCV_CFG at 0x1e00000. -/
  | mbRcvCfg
  /-- MB_DBB at 0x1e00004. -/
  | mbDbb
  /-- MB_DBB_MASK at 0x1e00008. -/
  | mbDbbMask
  /-- MB_DBB_WAKE at 0x1e0000c. -/
  | mbDbbWake
  /-- MB_DBB_SET at 0x1e01000. -/
  | mbDbbSet
  /-- PW_DOM_CTL at 0x1f00000. -/
  | pwDomCtl
  /-- PW_GUST_STATUS at 0x1f00100. -/
  | pwGustStatus
  /-- PW_SAG_CFG at 0x1f00200. -/
  | pwSagCfg
  /-- PW_SAG_STATUS at 0x1f00208. -/
  | pwSagStatus
  /-- PW_EVT_CNT at 0x1f00300. -/
  | pwEvtCnt
  /-- TM_NOW_FRAC at 0x1f80000. -/
  | tmNowFrac
  /-- TM_NOW_NS at 0x1f80004. -/
  | tmNowNs
  /-- TM_NOW_SEC_LO at 0x1f80008. -/
  | tmNowSecLo
  /-- TM_NOW_SEC_HI at 0x1f8000c. -/
  | tmNowSecHi
  /-- TM_ADJ at 0x1f80010. -/
  | tmAdj
  /-- TM_STEP_NS at 0x1f80020. -/
  | tmStepNs
  /-- TM_STEP_SEC_LO at 0x1f80024. -/
  | tmStepSecLo
  /-- TM_STEP_SEC_HI at 0x1f80028. -/
  | tmStepSecHi
  /-- TM_STEP_CTL at 0x1f8002c. -/
  | tmStepCtl
  /-- TM_PPS_CFG at 0x1f80040. -/
  | tmPpsCfg
  /-- TM_PPS_OUT_TICK_LO at 0x1f80050. -/
  | tmPpsOut
  /-- TM_PPS_IN_NS at 0x1f80070. -/
  | tmPpsIn
  /-- TM_PORT_ADJ at 0x1f80100. -/
  | tmPortAdj
  /-- TM_TXTS at 0x1f80200. -/
  | tmTxts
  /-- TM_TXTS_SIG at 0x1f80400. -/
  | tmTxtsSig
  /-- TM_SYNCE_CFG at 0x1f80410. -/
  | tmSynceCfg
  /-- TM_EVT_CNT at 0x1f80500. -/
  | tmEvtCnt
  /-- GG_CFG at 0x1fc0000. -/
  | ggCfg
  /-- GG_PORT at 0x1fc0004. -/
  | ggPort
  /-- GG_RING at 0x1fc0008. -/
  | ggRing
  /-- GG_PEER at 0x1fc0100. -/
  | ggPeer
  /-- GG_EVT_CNT at 0x1fc0200. -/
  | ggEvtCnt
  /-- GG_ROUTE at 0x1fc1000. -/
  | ggRoute
  /-- FT_CNT_CFG at 0x2000000. -/
  | ftCntCfg
  /-- FT_CNT_WRAP at 0x2000010. -/
  | ftCntWrap
  /-- FT_STAT_WRAP at 0x2000030. -/
  | ftStatWrap
  /-- FT_EVT_PEND at 0x2000100. -/
  | ftEvtPend
  /-- FT_NOTICE_CFG at 0x2000110. -/
  | ftNoticeCfg
  /-- FT_NOTICE_MASK at 0x2000114. -/
  | ftNoticeMask
  /-- FT_NOTICE_MAC at 0x2000118. -/
  | ftNoticeMac
  /-- FT_CNT_RD_IDX at 0x2000140. -/
  | ftCntRdIdx
  /-- FT_CNT_RD at 0x2000148. -/
  | ftCntRd
  /-- FT_LOG at 0x2000180. -/
  | ftLog
  /-- FT_EVT_CNT at 0x2000200. -/
  | ftEvtCnt
  /-- FT_MEM_CFG at 0x2000300. -/
  | ftMemCfg
  /-- FT_MEM_CNT at 0x2000310. -/
  | ftMemCnt
  /-- FT_HBM_SPARE at 0x2000400. -/
  | ftHbmSpare
  /-- FT_HBM_STATUS at 0x2000404. -/
  | ftHbmStatus
  /-- FT_HBM_CH_BUSY at 0x2000500. -/
  | ftHbmChBusy
  /-- FT_VP_WRAP at 0x2000600. -/
  | ftVpWrap
  /-- FT_DROP_CNT at 0x2010000. -/
  | ftDropCnt
  /-- MG_CFG at 0x2100000. -/
  | mgCfg
  /-- MG_PERIOD at 0x2100004. -/
  | mgPeriod
  /-- MG_STATUS at 0x2100010. -/
  | mgStatus
  /-- MG_AVS_STATUS at 0x2100020. -/
  | mgAvsStatus
  /-- MG_TEMP at 0x2100030. -/
  | mgTemp
  /-- MG_MON at 0x2100100. -/
  | mgMon
  /-- NP_PORT_CFG at 0x2200000. -/
  | npPortCfg
  /-- NP_PMD_CFG at 0x2200004. -/
  | npPmdCfg
  deriving DecidableEq, Repr

/-- What the register map says of one register. -/
structure RegDef where
  /-- Address of the first instance. -/
  base : Nat
  /-- Instances of the outer index, and their stride. -/
  n1 : Nat
  s1 : Nat
  /-- Instances of the inner index, and their stride. -/
  n2 : Nat
  s2 : Nat
  /-- A 64-bit register: two words (R525). -/
  wide : Bool
  reset : Nat
  /-- Bits of each access code of R5. -/
  rw : Nat
  w1c : Nat
  w1s : Nat
  rc : Nat
  rwl : Nat
  kind : RegKind
  deriving DecidableEq, Repr

/-- The register map. -/
def regDef : Reg → RegDef
  | .ctLock => ⟨0x10, 1, 0x4, 1, 0x4, false, 0x0, 0x0, 0x80000000, 0x7, 0x0, 0x0, .plain⟩
  | .ctIsoCfg => ⟨0x100, 1, 0x4, 1, 0x4, false, 0x0, 0x80000000, 0x40000000, 0x0, 0x0, 0x0, .plain⟩
  | .ctCmdCfg => ⟨0x200, 1, 0x8, 1, 0x8, true, 0x188b60000, 0xffff0003ffff0000, 0x0, 0x0, 0x0, 0x0, .plain⟩
  | .ctCmdMac => ⟨0x208, 1, 0x8, 1, 0x8, true, 0x20000000003, 0xffffffffffff, 0x0, 0x0, 0x0, 0x0, .plain⟩
  | .ctCmdStatus => ⟨0x210, 1, 0x4, 1, 0x4, false, 0x0, 0x0, 0x0, 0x0, 0x0, 0x0, .plain⟩
  | .ctCmdLast => ⟨0x220, 4, 0x4, 1, 0x4, false, 0x0, 0x0, 0x0, 0x0, 0x0, 0x0, .plain⟩
  | .ctCmdRefuseCnt => ⟨0x240, 7, 0x4, 1, 0x4, false, 0x0, 0x0, 0x80000000, 0x0, 0x0, 0x0, .plain⟩
  | .ctReset => ⟨0x300, 1, 0x4, 1, 0x4, false, 0x0, 0x0, 0x0, 0x0, 0x0, 0x0, .plain⟩
  | .ctBootStatus => ⟨0x308, 1, 0x4, 1, 0x4, false, 0xc000000, 0x0, 0x0, 0x0, 0x0, 0x0, .plain⟩
  | .ctBootSkipped => ⟨0x30c, 1, 0x4, 1, 0x4, false, 0x0, 0x0, 0x80000000, 0x0, 0x0, 0x0, .plain⟩
  | .seStatus => ⟨0x100000, 1, 0x4, 1, 0x4, false, 0x0, 0x0, 0x0, 0x0, 0x0, 0x0, .plain⟩
  | .seImgStatus => ⟨0x100010, 1, 0x4, 1, 0x4, false, 0x0, 0x0, 0x0, 0x0, 0x0, 0x0, .plain⟩
  | .seMigCmd => ⟨0x102000, 1, 0x4, 1, 0x4, false, 0x0, 0x7ff00f7, 0x0, 0x0, 0x0, 0x0, .plain⟩
  | .seMigAddr => ⟨0x102008, 2, 0x8, 1, 0x8, true, 0x0, 0xffffffffffffffff, 0x0, 0x0, 0x0, 0x0, .plain⟩
  | .seMigArg => ⟨0x102018, 1, 0x8, 1, 0x8, true, 0x0, 0xffffffffffffffff, 0x0, 0x0, 0x0, 0x0, .plain⟩
  | .seMigResult => ⟨0x102020, 1, 0x4, 1, 0x4, false, 0x0, 0x0, 0x0, 0x0, 0x0, 0x0, .plain⟩
  | .tkTickLo => ⟨0x200000, 1, 0x4, 1, 0x4, false, 0x0, 0x0, 0x0, 0x0, 0x0, 0x0, .plain⟩
  | .tkTickHi => ⟨0x200004, 1, 0x4, 1, 0x4, false, 0x0, 0x0, 0x0, 0x0, 0x0, 0x0, .plain⟩
  | .tkCommit => ⟨0x200100, 1, 0x4, 1, 0x4, false, 0x0, 0x0, 0x0, 0x0, 0x0, 0x0, .plain⟩
  | .tkDqLimit => ⟨0x200120, 8, 0x4, 1, 0x4, false, 0x40, 0x7f, 0x0, 0x0, 0x0, 0x0, (.staged .tk)⟩
  | .tkDqStatus => ⟨0x200200, 30, 0x4, 1, 0x4, false, 0x0, 0x0, 0x0, 0x0, 0x7f00, 0x0, .plain⟩
  | .tkOrdHeld => ⟨0x200300, 1, 0x4, 1, 0x4, false, 0x0, 0x0, 0x0, 0x0, 0xffffffff, 0x0, .plain⟩
  | .tkVerdictCfg => ⟨0x200400, 1, 0x4, 1, 0x4, false, 0x4104, 0x7f0f, 0x0, 0x0, 0x0, 0x0, .plain⟩
  | .tkFrmCfg => ⟨0x200500, 1, 0x4, 1, 0x4, false, 0x0, 0x80003fff, 0x40000000, 0x0, 0x0, 0x0, .plain⟩
  | .tkFrmBase => ⟨0x200504, 1, 0x4, 1, 0x4, false, 0x0, 0x3ffffc0, 0x0, 0x0, 0x0, 0x0, .plain⟩
  | .tkFrmStatus => ⟨0x200508, 1, 0x4, 1, 0x4, false, 0x0, 0x0, 0x0, 0x0, 0x3fff0000, 0x0, .plain⟩
  | .tkPuntCfg => ⟨0x200800, 256, 0x4, 1, 0x4, false, 0x0, 0x7ff, 0x0, 0x0, 0x0, 0x0, (.staged .tk)⟩
  | .tkDqDrop => ⟨0x201000, 30, 0x20, 8, 0x4, false, 0x0, 0x0, 0x0, 0x0, 0xffffffff, 0x0, .plain⟩
  | .tkWgCfg => ⟨0x202000, 256, 0x8, 1, 0x4, false, 0x400, 0x8fffffff, 0x40000000, 0x0, 0x0, 0x0, .plain⟩
  | .tkWgStatus => ⟨0x202004, 256, 0x8, 1, 0x4, false, 0x0, 0x0, 0x0, 0x0, 0xff0000, 0x0, .plain⟩
  | .tkCapCtl => ⟨0x203000, 1, 0x4, 1, 0x4, false, 0x0, 0x0, 0x0, 0x0, 0x0, 0x0, .plain⟩
  | .tkCapData => ⟨0x203100, 704, 0x4, 1, 0x4, false, 0x0, 0x0, 0x0, 0x0, 0x0, 0x0, .plain⟩
  | .rlReelCtl => ⟨0x300000, 33, 0x10000, 1, 0x4, false, 0x100100, 0xff0100, 0x0, 0x0, 0x0, 0x0, .plain⟩
  | .rlReelStatus => ⟨0x300004, 33, 0x10000, 1, 0x4, false, 0x0, 0x0, 0x300, 0x0, 0x0, 0x0, .plain⟩
  | .rlReelImg => ⟨0x300008, 33, 0x10000, 1, 0x4, false, 0x0, 0xff, 0x0, 0x0, 0x0, 0x0, .plain⟩
  | .rlOverrunCnt => ⟨0x30000c, 33, 0x10000, 1, 0x4, false, 0x0, 0x0, 0x80000000, 0x0, 0x0, 0x0, .plain⟩
  | .rlFaultInfo => ⟨0x300010, 33, 0x10000, 1, 0x4, false, 0x0, 0x0, 0x80000000, 0x0, 0x0, 0x0, .plain⟩
  | .rlFaultWord => ⟨0x300014, 33, 0x10000, 1, 0x4, false, 0x0, 0x0, 0x0, 0x0, 0x0, 0x0, .plain⟩
  | .rlThreadCfg => ⟨0x300100, 33, 0x10000, 64, 0x4, false, 0x0, 0x0, 0x0, 0x0, 0x0, 0x0, .plain⟩
  | .rlDbgCtl => ⟨0x300200, 33, 0x10000, 64, 0x4, false, 0x0, 0x8, 0x0, 0x1, 0x0, 0x0, .plain⟩
  | .rlBrk => ⟨0x300300, 33, 0x10000, 8, 0x4, false, 0x0, 0xffffffff, 0x0, 0x0, 0x0, 0x0, .plain⟩
  | .rlEvtCfg => ⟨0x300400, 33, 0x10000, 64, 0x4, false, 0x0, 0x1ff, 0x400, 0x0, 0x0, 0x0, .plain⟩
  | .rlEvtBind => ⟨0x301000, 33, 0x10000, 4096, 0x4, false, 0x0, 0xf000ffff, 0x0, 0x0, 0x0, 0x0, .plain⟩
  | .drLockCfg => ⟨0x580000, 4096, 0x4, 1, 0x4, false, 0x0, 0x1ff, 0x200, 0x0, 0x0, 0x0, .plain⟩
  | .drLockStatus => ⟨0x584000, 4096, 0x4, 1, 0x4, false, 0x0, 0x0, 0x40000000, 0x0, 0x0, 0x0, .plain⟩
  | .drLockEvtCnt => ⟨0x588000, 5, 0x4, 1, 0x4, false, 0x0, 0x0, 0x80000000, 0x0, 0x0, 0x0, .plain⟩
  | .drChanCfg0 => ⟨0x58a000, 4096, 0x8, 1, 0x4, false, 0x1, 0x83ffffcf, 0x40000000, 0x0, 0x0, 0x0, .plain⟩
  | .drChanCfg1 => ⟨0x58a004, 4096, 0x8, 1, 0x4, false, 0x40, 0xff03ffff, 0x0, 0x0, 0x0, 0x0, .plain⟩
  | .drChanStatus => ⟨0x592000, 4096, 0x4, 1, 0x4, false, 0x0, 0x0, 0x0, 0x0, 0x0, 0x0, .plain⟩
  | .drChanVoidCnt => ⟨0x596000, 1, 0x4, 1, 0x4, false, 0x0, 0x0, 0x80000000, 0x0, 0x0, 0x0, .plain⟩
  | .lkCmd => ⟨0x600000, 4, 0x100, 1, 0x4, false, 0x0, 0x3ffffe7f, 0x40000000, 0x0, 0x0, 0x0, .plain⟩
  | .lkCmdResult => ⟨0x600004, 4, 0x100, 1, 0x4, false, 0x0, 0x0, 0x0, 0x0, 0x0, 0x0, .plain⟩
  | .lkCmdData => ⟨0x600040, 4, 0x100, 16, 0x4, false, 0x0, 0xffffffff, 0x0, 0x0, 0x0, 0x0, .plain⟩
  | .lkCommit => ⟨0x600400, 1, 0x4, 1, 0x4, false, 0x0, 0x0, 0x0, 0x0, 0x0, 0x0, .plain⟩
  | .lkCombCfgA => ⟨0x600420, 1, 0x4, 1, 0x4, false, 0x800b98a3, 0xb0ffffff, 0x0, 0x0, 0x0, 0x0, .plain⟩
  | .lkCombCfgB => ⟨0x600424, 3, 0x4, 1, 0x4, false, 0xb98a3, 0xb0ffffff, 0x0, 0x0, 0x0, 0x0, .plain⟩
  | .lkCombCfgC => ⟨0x600430, 2, 0x4, 1, 0x4, false, 0x800b98a3, 0xb0ffffff, 0x0, 0x0, 0x0, 0x0, .plain⟩
  | .lkWalkCfg => ⟨0x600440, 1, 0x4, 1, 0x4, false, 0x80000010, 0x8000007f, 0x0, 0x0, 0x0, 0x0, .plain⟩
  | .lkShadowBase => ⟨0x600450, 4, 0x4, 1, 0x4, false, 0x0, 0xffffff, 0x0, 0x0, 0x0, 0x0, .plain⟩
  | .lkFlowCfg => ⟨0x600470, 1, 0x4, 1, 0x4, false, 0x0, 0x80001f03, 0x20000000, 0x0, 0x0, 0x0, .plain⟩
  | .lkLearnCfg => ⟨0x600480, 1, 0x4, 1, 0x4, false, 0x7a12, 0xffff, 0x0, 0x0, 0x0, 0x0, .plain⟩
  | .lkRingCfg => ⟨0x600500, 4, 0x10, 1, 0x4, false, 0x4, 0x83ffffdf, 0x0, 0x0, 0x0, 0x0, .plain⟩
  | .lkRingProd => ⟨0x600504, 4, 0x10, 1, 0x4, false, 0x0, 0x0, 0x0, 0x0, 0x0, 0x0, .plain⟩
  | .lkRingCons => ⟨0x600508, 4, 0x10, 1, 0x4, false, 0x0, 0xffffffff, 0x0, 0x0, 0x0, 0x0, .plain⟩
  | .lkSuspectInfo => ⟨0x600600, 1, 0x4, 1, 0x4, false, 0x0, 0x0, 0x80000000, 0x0, 0x0, 0x0, .plain⟩
  | .lkCamStatus => ⟨0x600620, 5, 0x4, 1, 0x4, false, 0x0, 0x0, 0x0, 0x0, 0x7ff0000, 0x0, .plain⟩
  | .lkEvtCnt => ⟨0x600700, 23, 0x4, 1, 0x4, false, 0x0, 0x0, 0x80000000, 0x0, 0x0, 0x0, .plain⟩
  | .lkBdCfg => ⟨0x601000, 4096, 0x4, 1, 0x4, false, 0xc0000000, 0xe30000ff, 0x0, 0x0, 0x0, 0x0, .plain⟩
  | .lkDomQuota => ⟨0x605000, 256, 0x8, 1, 0x4, false, 0x40400, 0x7ffff, 0x0, 0x0, 0x0, 0x0, (.staged .lk)⟩
  | .lkDomUse => ⟨0x605004, 256, 0x8, 1, 0x4, false, 0x0, 0x0, 0x0, 0x0, 0x0, 0x0, .plain⟩
  | .swCtEn => ⟨0x800040, 1, 0x4, 1, 0x4, false, 0x1fffffff, 0x1fffffff, 0x0, 0x0, 0x0, 0x0, .plain⟩
  | .swCtAbort => ⟨0x800080, 29, 0x4, 1, 0x4, false, 0x0, 0x0, 0x0, 0x0, 0x0, 0x0, .plain⟩
  | .swCtAbortSat => ⟨0x800100, 1, 0x4, 1, 0x4, false, 0x0, 0x0, 0x1fffffff, 0x0, 0x0, 0x0, .plain⟩
  | .swCommit => ⟨0x800200, 1, 0x4, 1, 0x4, false, 0x0, 0x0, 0x2, 0x0, 0x0, 0x0, .plain⟩
  | .swHoldCfg => ⟨0x800210, 1, 0x8, 1, 0x8, true, 0xf4240f424, 0x3ffffffffff, 0x0, 0x0, 0x0, 0x0, (.staged .sw)⟩
  | .swBondCfg => ⟨0x800218, 1, 0x4, 1, 0x4, false, 0x61b, 0xffff, 0x0, 0x0, 0x0, 0x0, (.staged .sw)⟩
  | .swInPart => ⟨0x800400, 30, 0x8, 1, 0x4, false, 0x26003333, 0x3f07ffff, 0x0, 0x0, 0x0, 0x0, (.staged .sw)⟩
  | .swInUse => ⟨0x800404, 30, 0x8, 1, 0x4, false, 0x0, 0x0, 0x0, 0x0, 0x0, 0x0, .plain⟩
  | .swClassMax => ⟨0x800600, 30, 0x20, 8, 0x4, false, 0x3333, 0x7ffff, 0x0, 0x0, 0x0, 0x0, (.staged .sw)⟩
  | .swDestCtl => ⟨0x800a00, 32, 0x4, 1, 0x4, false, 0x0, 0x1, 0x0, 0x0, 0x0, 0x0, .plain⟩
  | .swDestDepth => ⟨0x800a80, 32, 0x4, 1, 0x4, false, 0x0, 0x0, 0x0, 0x0, 0x0, 0x0, .plain⟩
  | .swAdmDrop => ⟨0x800c00, 32, 0x20, 7, 0x4, false, 0x0, 0x0, 0x80000000, 0x0, 0x0, 0x0, .plain⟩
  | .swInDrop => ⟨0x801000, 30, 0x20, 8, 0x4, false, 0x0, 0x0, 0x80000000, 0x0, 0x0, 0x0, .plain⟩
  | .swInRxdrop => ⟨0x801400, 30, 0x4, 1, 0x4, false, 0x0, 0x0, 0x80000000, 0x0, 0x0, 0x0, .plain⟩
  | .swEvtCnt => ⟨0x801480, 5, 0x4, 1, 0x4, false, 0x0, 0x0, 0x80000000, 0x0, 0x0, 0x0, .plain⟩
  | .swMcCmd => ⟨0x801500, 1, 0x4, 1, 0x4, false, 0x0, 0x3fff3, 0x40000000, 0x0, 0x0, 0x0, .plain⟩
  | .swMcData => ⟨0x801520, 8, 0x4, 1, 0x4, false, 0x0, 0xffffffff, 0x0, 0x0, 0x0, 0x0, .plain⟩
  | .swMcCfg => ⟨0x801540, 1, 0x4, 1, 0x4, false, 0x0, 0x3f3f, 0x0, 0x0, 0x0, 0x0, .plain⟩
  | .swPeCommit => ⟨0x810000, 1, 0x4, 1, 0x4, false, 0x0, 0x0, 0xc, 0x0, 0x0, 0x0, .plain⟩
  | .swPgExcCnt => ⟨0x810040, 7, 0x4, 1, 0x4, false, 0x0, 0x0, 0x80000000, 0x0, 0x0, 0x0, .plain⟩
  | .swPgInput => ⟨0x810100, 30, 0x4, 1, 0x4, false, 0x0, 0x7f07ffff, 0x0, 0x0, 0x0, 0x0, .banked⟩
  | .swPgCmap => ⟨0x810200, 4, 0x20, 8, 0x4, false, 0x0, 0xffffff, 0x0, 0x0, 0x0, 0x0, .banked⟩
  | .swEdDrop => ⟨0x810300, 29, 0x4, 1, 0x4, false, 0x0, 0x0, 0x80000000, 0x0, 0x0, 0x0, .plain⟩
  | .swPgNode => ⟨0x811000, 512, 0x40, 16, 0x4, false, 0x0, 0xffffffff, 0x0, 0x0, 0x0, 0x0, .banked⟩
  | .swEdTpl => ⟨0x820000, 1024, 0x100, 41, 0x4, false, 0x0, 0xffffffff, 0x0, 0x0, 0x0, 0x0, .banked⟩
  | .swGtkt => ⟨0x860000, 32, 0x100, 60, 0x4, false, 0x40404040, 0xffffffff, 0x0, 0x0, 0x0, 0x0, (.staged .sw)⟩
  | .swAtkt => ⟨0x862000, 30, 0x8, 2, 0x4, false, 0x40404040, 0xffffffff, 0x0, 0x0, 0x0, 0x0, (.staged .sw)⟩
  | .swVoqCfg => ⟨0x880000, 30, 0x400, 256, 0x4, false, 0x3333, 0x77ffff, 0x0, 0x0, 0x0, 0x0, (.staged .sw)⟩
  | .swVoqStatus => ⟨0x8a0000, 30, 0x400, 256, 0x4, false, 0x0, 0x0, 0x0, 0x0, 0xfff80000, 0x0, .plain⟩
  | .scCommit => ⟨0xa00000, 1, 0x4, 1, 0x4, false, 0x0, 0x0, 0x0, 0x0, 0x0, 0x0, .plain⟩
  | .scWredCurve => ⟨0xa00100, 8, 0x20, 3, 0x8, true, 0x0, 0xc0007fffffffffff, 0x0, 0x0, 0x0, 0x0, (.staged .sc)⟩
  | .scWredCfg => ⟨0xa00118, 8, 0x20, 1, 0x4, false, 0x9, 0xf, 0x0, 0x0, 0x0, 0x0, (.staged .sc)⟩
  | .scEcnMark => ⟨0xa00400, 32, 0x4, 1, 0x4, false, 0x0, 0x0, 0x80000000, 0x0, 0x0, 0x0, .plain⟩
  | .scEvtCnt => ⟨0xa00480, 9, 0x4, 1, 0x4, false, 0x0, 0x0, 0x80000000, 0x0, 0x0, 0x0, .plain⟩
  | .scRootCfg => ⟨0xa00600, 8, 0x4, 1, 0x4, false, 0x14, 0xff, 0x0, 0x0, 0x0, 0x0, (.staged .sc)⟩
  | .scSmpCfg => ⟨0xa00800, 1, 0x4, 1, 0x4, false, 0x4, 0x83ffffdf, 0x0, 0x0, 0x0, 0x0, .plain⟩
  | .scSmpSched => ⟨0xa00804, 1, 0x4, 1, 0x4, false, 0x3ff0000, 0xffff000f, 0x0, 0x0, 0x0, 0x0, .plain⟩
  | .scSmpProd => ⟨0xa00808, 1, 0x4, 1, 0x4, false, 0x0, 0x0, 0x0, 0x0, 0x0, 0x0, .plain⟩
  | .scSmpCons => ⟨0xa0080c, 1, 0x4, 1, 0x4, false, 0x0, 0xffffffff, 0x0, 0x0, 0x0, 0x0, .plain⟩
  | .scWaftCfg => ⟨0xa00900, 30, 0x4, 1, 0x4, false, 0x203ff, 0xf07fffff, 0x0, 0x0, 0x0, 0x0, .plain⟩
  | .scWaftQ => ⟨0xa00980, 1, 0x4, 1, 0x4, false, 0x0, 0x7ff, 0x0, 0x0, 0x0, 0x0, (.staged .sc)⟩
  | .scMirSess => ⟨0xa00a00, 4, 0x4, 1, 0x4, false, 0x0, 0xbfffff1f, 0x40000000, 0x0, 0x0, 0x0, .plain⟩
  | .scMirSel => ⟨0xa00a40, 30, 0x4, 1, 0x4, false, 0x0, 0xeb, 0x0, 0x0, 0x0, 0x0, .plain⟩
  | .scMtrCmd => ⟨0xa01000, 1, 0x4, 1, 0x4, false, 0x0, 0xffff03, 0x40000000, 0x0, 0x0, 0x0, .plain⟩
  | .scMtrData => ⟨0xa01040, 8, 0x4, 1, 0x4, false, 0x0, 0xffffffff, 0x0, 0x0, 0x0, 0x0, .plain⟩
  | .scSmpList => ⟨0xa08000, 1024, 0x4, 1, 0x4, false, 0x0, 0xc0007fff, 0x0, 0x0, 0x0, 0x0, .plain⟩
  | .scDomCfg => ⟨0xa10000, 8, 0x1000, 256, 0x10, false, 0x1000014, 0xffff01ff, 0x0, 0x0, 0x0, 0x0, (.staged .sc)⟩
  | .scDomRate => ⟨0xa10004, 8, 0x1000, 256, 0x10, false, 0x0, 0xffffffff, 0x0, 0x0, 0x0, 0x0, (.staged .sc)⟩
  | .scDomBurst => ⟨0xa10008, 8, 0x1000, 256, 0x10, false, 0x10000, 0xffffff, 0x0, 0x0, 0x0, 0x0, (.staged .sc)⟩
  | .scVpnCfg => ⟨0xa20000, 8, 0x1000, 256, 0x10, false, 0x1000014, 0xffff01ff, 0x0, 0x0, 0x0, 0x0, (.staged .sc)⟩
  | .scVpnRate => ⟨0xa20004, 8, 0x1000, 256, 0x10, false, 0x0, 0xffffffff, 0x0, 0x0, 0x0, 0x0, (.staged .sc)⟩
  | .scVpnBurst => ⟨0xa20008, 8, 0x1000, 256, 0x10, false, 0x10000, 0xffffff, 0x0, 0x0, 0x0, 0x0, (.staged .sc)⟩
  | .scSqCfg => ⟨0xa40000, 32768, 0x4, 1, 0x4, false, 0x1000000, 0xffff00ff, 0x0, 0x0, 0x0, 0x0, (.staged .sc)⟩
  | .blCfg => ⟨0xc00000, 8, 0x10000, 1, 0x4, false, 0x800888b5, 0x801fffff, 0x0, 0x0, 0x0, 0x0, .plain⟩
  | .blReplay => ⟨0xc00004, 8, 0x10000, 1, 0x4, false, 0x400007d, 0xf0007ff, 0x0, 0x0, 0x0, 0x0, .plain⟩
  | .blCplTimeout => ⟨0xc00008, 8, 0x10000, 1, 0x4, false, 0x1e848, 0x1fffff, 0x0, 0x0, 0x0, 0x0, .plain⟩
  | .blLost => ⟨0xc0000c, 8, 0x10000, 1, 0x4, false, 0xf424, 0x3fffff, 0x0, 0x0, 0x0, 0x0, .plain⟩
  | .blCredit0 => ⟨0xc00010, 8, 0x10000, 1, 0x4, false, 0x100, 0x80007fff, 0x0, 0x0, 0x0, 0x0, .plain⟩
  | .blCredit1 => ⟨0xc00014, 8, 0x10000, 1, 0x4, false, 0x80000000, 0x7fff, 0x0, 0x0, 0x0, 0x0, .plain⟩
  | .blCredit2 => ⟨0xc00018, 8, 0x10000, 1, 0x4, false, 0x400, 0x80007fff, 0x0, 0x0, 0x0, 0x0, .plain⟩
  | .blCredit3 => ⟨0xc0001c, 8, 0x10000, 1, 0x4, false, 0x10, 0x80007fff, 0x0, 0x0, 0x0, 0x0, .plain⟩
  | .blStatus => ⟨0xc00020, 8, 0x10000, 1, 0x4, false, 0x0, 0x0, 0x0, 0x0, 0x0, 0x0, .plain⟩
  | .blTags => ⟨0xc00024, 8, 0x10000, 1, 0x4, false, 0x0, 0x0, 0x0, 0x0, 0x3fff0000, 0x0, .plain⟩
  | .blReplayUse => ⟨0xc00028, 8, 0x10000, 1, 0x4, false, 0x0, 0x0, 0x0, 0x0, 0x0, 0x0, .plain⟩
  | .blPeerIdLo => ⟨0xc00030, 8, 0x10000, 1, 0x4, false, 0x0, 0x0, 0x0, 0x0, 0x0, 0x0, .plain⟩
  | .blPeerIdHi => ⟨0xc00034, 8, 0x10000, 1, 0x4, false, 0x0, 0x0, 0x0, 0x0, 0x0, 0x0, .plain⟩
  | .blPmdCfg => ⟨0xc00040, 8, 0x10000, 1, 0x4, false, 0x0, 0xf03, 0x0, 0x0, 0x0, 0x0, .plain⟩
  | .blErrCnt => ⟨0xc00100, 8, 0x10000, 16, 0x4, false, 0x0, 0x0, 0x80000000, 0x0, 0x0, 0x0, .plain⟩
  | .vpMbIn => ⟨0x1000008, 2048, 0x1000, 1, 0x8, true, 0x0, 0x0, 0x0, 0x0, 0x0, 0x0, .plain⟩
  | .vpMbOut => ⟨0x1000010, 2048, 0x1000, 1, 0x8, true, 0x0, 0xffffffffffffffff, 0x0, 0x0, 0x0, 0x0, .plain⟩
  | .vpDbb => ⟨0x1000018, 2048, 0x1000, 1, 0x4, false, 0x0, 0x0, 0xffffffff, 0x0, 0x0, 0x0, .plain⟩
  | .vpDbbMask => ⟨0x100001c, 2048, 0x1000, 1, 0x4, false, 0x0, 0xffffffff, 0x0, 0x0, 0x0, 0x0, .plain⟩
  | .vpStatus => ⟨0x1000020, 2048, 0x1000, 1, 0x8, true, 0x0, 0x0, 0x0, 0x0, 0x0, 0x0, .plain⟩
  | .vpSigCfg => ⟨0x1000040, 2048, 0x1000, 64, 0x4, false, 0x0, 0x1, 0x0, 0x0, 0x0, 0x0, .plain⟩
  | .vpCnt => ⟨0x1000140, 2048, 0x1000, 24, 0x8, true, 0x0, 0x0, 0x0, 0x0, 0x0, 0x0, .plain⟩
  | .vpSqStatus => ⟨0x1000200, 2048, 0x1000, 64, 0x8, true, 0x0, 0x0, 0x0, 0x0, 0x0, 0x0, .plain⟩
  | .vpRqStatus => ⟨0x1000400, 2048, 0x1000, 64, 0x8, true, 0x0, 0x0, 0x0, 0x0, 0x0, 0x0, .plain⟩
  | .vpCqStatus => ⟨0x1000600, 2048, 0x1000, 64, 0x8, true, 0x0, 0x0, 0x0, 0x0, 0x0, 0x0, .plain⟩
  | .vpCtl => ⟨0x1000800, 2048, 0x1000, 1, 0x4, false, 0x3c000000, 0xff000000, 0x0, 0x0, 0x0, 0x0, .plain⟩
  | .vpCfg => ⟨0x1000808, 2048, 0x1000, 1, 0x4, false, 0x0, 0x0, 0x0, 0x0, 0x0, 0x0, .plain⟩
  | .vpQrange => ⟨0x1000810, 2048, 0x1000, 1, 0x8, true, 0x0, 0x0, 0x0, 0x0, 0x0, 0x0, .plain⟩
  | .vpMigCtl => ⟨0x1000818, 2048, 0x1000, 1, 0x4, false, 0x3d09000, 0xfffffc00, 0x0, 0x0, 0x0, 0x0, .plain⟩
  | .vpMigSave => ⟨0x1000820, 2048, 0x1000, 1, 0x8, true, 0x0, 0xf0fffffffff, 0x0, 0x0, 0x0, 0x0, .plain⟩
  | .vpMigStatus => ⟨0x1000828, 2048, 0x1000, 1, 0x8, true, 0x0, 0x0, 0x0, 0x0, 0x0, 0x0, .plain⟩
  | .vpMigCnt => ⟨0x1000830, 2048, 0x1000, 1, 0x4, false, 0x0, 0x0, 0x0, 0x0, 0x0, 0x0, .plain⟩
  | .vpMbCfg => ⟨0x1000840, 2048, 0x1000, 1, 0x4, false, 0x0, 0x3f3fff, 0x0, 0x0, 0x0, 0x0, .plain⟩
  | .vpMbStatus => ⟨0x1000848, 2048, 0x1000, 1, 0x8, true, 0x0, 0x0, 0x28, 0x0, 0x0, 0x0, .plain⟩
  | .bbCtl => ⟨0x1800000, 1024, 0x100, 1, 0x4, false, 0x180000, 0xfffff100, 0x0, 0x0, 0x0, 0x0, .plain⟩
  | .bbSig => ⟨0x1800004, 1024, 0x100, 1, 0x4, false, 0x0, 0x1fff, 0x0, 0x0, 0x0, 0x0, .plain⟩
  | .bbHost => ⟨0x1800008, 1024, 0x100, 1, 0x4, false, 0x0, 0x700ff, 0x0, 0x0, 0x0, 0x0, .plain⟩
  | .bbIovaLo => ⟨0x1800010, 1024, 0x100, 1, 0x4, false, 0x0, 0xffffffff, 0x0, 0x0, 0x0, 0x0, .plain⟩
  | .bbIovaHi => ⟨0x1800014, 1024, 0x100, 1, 0x4, false, 0x0, 0xffffffff, 0x0, 0x0, 0x0, 0x0, .plain⟩
  | .bbLen => ⟨0x1800018, 1024, 0x100, 1, 0x4, false, 0x0, 0xffffffff, 0x0, 0x0, 0x0, 0x0, .plain⟩
  | .bbDone => ⟨0x180001c, 1024, 0x100, 1, 0x4, false, 0x0, 0x0, 0x0, 0x0, 0x0, 0x0, .plain⟩
  | .bbStatus => ⟨0x1800020, 1024, 0x100, 1, 0x4, false, 0x0, 0x0, 0x18, 0x0, 0x0, 0x0, .plain⟩
  | .bbFailLo => ⟨0x1800028, 1024, 0x100, 1, 0x4, false, 0x0, 0x0, 0x0, 0x0, 0x0, 0x0, .plain⟩
  | .bbFailHi => ⟨0x180002c, 1024, 0x100, 1, 0x4, false, 0x0, 0x0, 0x0, 0x0, 0x0, 0x0, .plain⟩
  | .bbRetryCnt => ⟨0x1800030, 1024, 0x100, 1, 0x4, false, 0x0, 0x0, 0x0, 0x0, 0x0, 0x0, .plain⟩
  | .bbWay => ⟨0x1800080, 1024, 0x100, 16, 0x8, true, 0x0, 0xffffffffffffffff, 0x0, 0x0, 0x0, 0x0, .plain⟩
  | .bbQcmd => ⟨0x1840000, 1, 0x4, 1, 0x4, false, 0x0, 0x307fff, 0x40000000, 0x0, 0x0, 0x0, .plain⟩
  | .bbQop => ⟨0x1840004, 1, 0x4, 1, 0x4, false, 0x0, 0x0, 0x0, 0x0, 0x0, 0x0, .plain⟩
  | .bbQdata => ⟨0x1840040, 8, 0x4, 1, 0x4, false, 0x0, 0xffffffff, 0x0, 0x0, 0x0, 0x0, .plain⟩
  | .bbCfg => ⟨0x1840100, 1, 0x4, 1, 0x4, false, 0x30100, 0xf0000, 0x0, 0x0, 0x0, 0x7ff, .plain⟩
  | .bbRxHold => ⟨0x1840200, 8, 0x4, 1, 0x4, false, 0x61b, 0xffff, 0x0, 0x0, 0x0, 0x0, .plain⟩
  | .ciCommit => ⟨0x1a00000, 1, 0x4, 1, 0x4, false, 0x0, 0x0, 0x2, 0x0, 0x0, 0x0, .plain⟩
  | .ciCacheCfg => ⟨0x1a00040, 1, 0x4, 1, 0x4, false, 0x100, 0xffff, 0x0, 0x0, 0x0, 0x0, .plain⟩
  | .ciClCfg => ⟨0x1a00100, 8, 0x4, 1, 0x4, false, 0x8, 0x3f, 0x0, 0x0, 0x0, 0x0, (.staged .ci)⟩
  | .ciSpCfg => ⟨0x1a00200, 16, 0x4, 1, 0x4, false, 0x20000000, 0xf00fffff, 0x0, 0x0, 0x0, 0x0, .plain⟩
  | .ciSpMaxlen => ⟨0x1a00240, 16, 0x4, 1, 0x4, false, 0x2600, 0x3fff, 0x0, 0x0, 0x0, 0x0, .plain⟩
  | .ciBypass0 => ⟨0x1a00300, 1, 0x4, 1, 0x4, false, 0x8000888e, 0x8000ffff, 0x0, 0x0, 0x0, 0x0, .plain⟩
  | .ciBypass => ⟨0x1a00304, 3, 0x4, 1, 0x4, false, 0x0, 0x8000ffff, 0x0, 0x0, 0x0, 0x0, .plain⟩
  | .ciSaCmd => ⟨0x1a00400, 1, 0x4, 1, 0x4, false, 0x0, 0x38fffff, 0x40000000, 0x0, 0x0, 0x0, .plain⟩
  | .ciSaData => ⟨0x1a00440, 32, 0x4, 1, 0x4, false, 0x0, 0xffffffff, 0x0, 0x0, 0x0, 0x0, .plain⟩
  | .ciRekeyQ => ⟨0x1a004c0, 1, 0x4, 1, 0x4, false, 0x0, 0x0, 0x0, 0x0, 0xc01fffff, 0x0, .plain⟩
  | .ciDropCnt => ⟨0x1a00800, 8, 0x40, 14, 0x4, false, 0x0, 0x0, 0x80000000, 0x0, 0x0, 0x0, .plain⟩
  | .ciCacheShare => ⟨0x1a02000, 256, 0x8, 1, 0x4, false, 0x40, 0x7fff, 0x0, 0x0, 0x0, 0x0, (.staged .ci)⟩
  | .ciCacheUse => ⟨0x1a02004, 256, 0x8, 1, 0x4, false, 0x0, 0x0, 0x0, 0x0, 0x0, 0x0, .plain⟩
  | .ciRxsc => ⟨0x1a10000, 16, 0x400, 256, 0x4, false, 0x0, 0xffffffff, 0x0, 0x0, 0x0, 0x0, .plain⟩
  | .bsCommit => ⟨0x1c00000, 1, 0x4, 1, 0x4, false, 0x0, 0x0, 0x2, 0x0, 0x0, 0x0, .plain⟩
  | .bsCmd => ⟨0x1c00010, 1, 0x4, 1, 0x4, false, 0x0, 0x7c0ffff, 0x40000000, 0x0, 0x0, 0x0, .plain⟩
  | .bsData => ⟨0x1c00040, 32, 0x4, 1, 0x4, false, 0x0, 0xffffffff, 0x0, 0x0, 0x0, 0x0, .plain⟩
  | .bsTcpCfg => ⟨0x1c00100, 1, 0x4, 1, 0x4, false, 0x83e803e8, 0xffffffff, 0x0, 0x0, 0x0, 0x0, .plain⟩
  | .bsIoTimeout => ⟨0x1c00104, 1, 0x4, 1, 0x4, false, 0x7d0, 0xffff, 0x0, 0x0, 0x0, 0x0, .plain⟩
  | .bsStage => ⟨0x1c00108, 1, 0x4, 1, 0x4, false, 0x0, 0x0, 0x0, 0x0, 0x0, 0x1f, .plain⟩
  | .bsAdmRxCfg => ⟨0x1c00110, 1, 0x4, 1, 0x4, false, 0x4, 0x83ffffdf, 0x0, 0x0, 0x0, 0x0, .plain⟩
  | .bsAdmRxProd => ⟨0x1c00114, 1, 0x4, 1, 0x4, false, 0x0, 0x0, 0x0, 0x0, 0x0, 0x0, .plain⟩
  | .bsAdmRxCons => ⟨0x1c00118, 1, 0x4, 1, 0x4, false, 0x0, 0xffffffff, 0x0, 0x0, 0x0, 0x0, .plain⟩
  | .bsAdmTxCfg => ⟨0x1c00120, 1, 0x4, 1, 0x4, false, 0x4, 0x83ffffdf, 0x0, 0x0, 0x0, 0x0, .plain⟩
  | .bsAdmTxProd => ⟨0x1c00124, 1, 0x4, 1, 0x4, false, 0x0, 0xffffffff, 0x0, 0x0, 0x0, 0x0, .plain⟩
  | .bsAdmTxCons => ⟨0x1c00128, 1, 0x4, 1, 0x4, false, 0x0, 0x0, 0x0, 0x0, 0x0, 0x0, .plain⟩
  | .bsAdmSig => ⟨0x1c00130, 1, 0x4, 1, 0x4, false, 0x0, 0x1fff, 0x0, 0x0, 0x0, 0x0, .plain⟩
  | .bsLocked => ⟨0x1c00140, 1, 0x4, 1, 0x4, false, 0x0, 0x0, 0x0, 0x0, 0x8000ffff, 0x0, .plain⟩
  | .bsLockedLo => ⟨0x1c00144, 1, 0x4, 1, 0x4, false, 0x0, 0x0, 0x0, 0x0, 0x0, 0x0, .plain⟩
  | .bsLockedHi => ⟨0x1c00148, 1, 0x4, 1, 0x4, false, 0x0, 0x0, 0x0, 0x0, 0x0, 0x0, .plain⟩
  | .bsEvtCnt => ⟨0x1c00200, 6, 0x4, 1, 0x4, false, 0x0, 0x0, 0x80000000, 0x0, 0x0, 0x0, .plain⟩
  | .bsDomCtx => ⟨0x1c01000, 256, 0x8, 1, 0x4, false, 0x80, 0xffff, 0x0, 0x0, 0x0, 0x0, (.staged .bs)⟩
  | .bsDomCtxUse => ⟨0x1c01004, 256, 0x8, 1, 0x4, false, 0x0, 0x0, 0x0, 0x0, 0x0, 0x0, .plain⟩
  | .bsVdBusy => ⟨0x1c20000, 16384, 0x4, 1, 0x4, false, 0x0, 0x0, 0x0, 0x0, 0x0, 0x0, .plain⟩
  | .bsConnStatus => ⟨0x1c40000, 65536, 0x4, 1, 0x4, false, 0x0, 0x0, 0x0, 0x0, 0x0, 0x0, .plain⟩
  | .mbRcvCfg => ⟨0x1e00000, 256, 0x10, 1, 0x4, false, 0x0, 0xbf3f0000, 0x40000000, 0x0, 0x0, 0x0, .plain⟩
  | .mbDbb => ⟨0x1e00004, 256, 0x10, 1, 0x4, false, 0x0, 0x0, 0xffffffff, 0x0, 0x0, 0x0, .plain⟩
  | .mbDbbMask => ⟨0x1e00008, 256, 0x10, 1, 0x4, false, 0xffffffff, 0xffffffff, 0x0, 0x0, 0x0, 0x0, .plain⟩
  | .mbDbbWake => ⟨0x1e0000c, 256, 0x10, 1, 0x4, false, 0x0, 0xffffffff, 0x0, 0x0, 0x0, 0x0, .plain⟩
  | .mbDbbSet => ⟨0x1e01000, 256, 0x4, 1, 0x4, false, 0x0, 0x0, 0x0, 0x0, 0x0, 0x0, .plain⟩
  | .pwDomCtl => ⟨0x1f00000, 42, 0x4, 1, 0x4, false, 0x0, 0x1, 0x10000, 0x0, 0x0, 0x0, .plain⟩
  | .pwGustStatus => ⟨0x1f00100, 1, 0x4, 1, 0x4, false, 0x0, 0x0, 0x0, 0x0, 0xffff0000, 0x0, .plain⟩
  | .pwSagCfg => ⟨0x1f00200, 1, 0x4, 1, 0x4, false, 0x1, 0x1f, 0x0, 0x0, 0x0, 0x0, .plain⟩
  | .pwSagStatus => ⟨0x1f00208, 1, 0x8, 1, 0x8, true, 0x0, 0x0, 0x0, 0x0, 0x0, 0x0, .plain⟩
  | .pwEvtCnt => ⟨0x1f00300, 7, 0x4, 1, 0x4, false, 0x0, 0x0, 0x80000000, 0x0, 0x0, 0x0, .plain⟩
  | .tmNowFrac => ⟨0x1f80000, 1, 0x4, 1, 0x4, false, 0x0, 0x0, 0x0, 0x0, 0x0, 0x0, .plain⟩
  | .tmNowNs => ⟨0x1f80004, 1, 0x4, 1, 0x4, false, 0x0, 0x0, 0x0, 0x0, 0x0, 0x0, .plain⟩
  | .tmNowSecLo => ⟨0x1f80008, 1, 0x4, 1, 0x4, false, 0x0, 0x0, 0x0, 0x0, 0x0, 0x0, .plain⟩
  | .tmNowSecHi => ⟨0x1f8000c, 1, 0x4, 1, 0x4, false, 0x0, 0x0, 0x0, 0x0, 0x0, 0x0, .plain⟩
  | .tmAdj => ⟨0x1f80010, 1, 0x4, 1, 0x4, false, 0x0, 0xffffffff, 0x0, 0x0, 0x0, 0x0, .plain⟩
  | .tmStepNs => ⟨0x1f80020, 1, 0x4, 1, 0x4, false, 0x0, 0xffffffff, 0x0, 0x0, 0x0, 0x0, .plain⟩
  | .tmStepSecLo => ⟨0x1f80024, 1, 0x4, 1, 0x4, false, 0x0, 0xffffffff, 0x0, 0x0, 0x0, 0x0, .plain⟩
  | .tmStepSecHi => ⟨0x1f80028, 1, 0x4, 1, 0x4, false, 0x0, 0xffff, 0x0, 0x0, 0x0, 0x0, .plain⟩
  | .tmStepCtl => ⟨0x1f8002c, 1, 0x4, 1, 0x4, false, 0x0, 0x2, 0x0, 0x0, 0x0, 0x0, .plain⟩
  | .tmPpsCfg => ⟨0x1f80040, 1, 0x4, 1, 0x4, false, 0x64, 0xe00000ff, 0x10000000, 0x0, 0x0, 0x0, .plain⟩
  | .tmPpsOut => ⟨0x1f80050, 4, 0x4, 1, 0x4, false, 0x0, 0x0, 0x0, 0x0, 0x0, 0x0, .plain⟩
  | .tmPpsIn => ⟨0x1f80070, 5, 0x4, 1, 0x4, false, 0x0, 0x0, 0x0, 0x0, 0x0, 0x0, .plain⟩
  | .tmPortAdj => ⟨0x1f80100, 17, 0x4, 1, 0x4, false, 0x0, 0xffffffff, 0x0, 0x0, 0x0, 0x0, .plain⟩
  | .tmTxts => ⟨0x1f80200, 17, 0x10, 4, 0x4, false, 0x0, 0x0, 0x0, 0x0, 0x0, 0x0, .plain⟩
  | .tmTxtsSig => ⟨0x1f80400, 1, 0x4, 1, 0x4, false, 0x0, 0x1fff, 0x0, 0x0, 0x0, 0x0, .plain⟩
  | .tmSynceCfg => ⟨0x1f80410, 2, 0x4, 1, 0x4, false, 0x0, 0x800f0007, 0x0, 0x0, 0x0, 0x0, .plain⟩
  | .tmEvtCnt => ⟨0x1f80500, 4, 0x4, 1, 0x4, false, 0x0, 0x0, 0x80000000, 0x0, 0x0, 0x0, .plain⟩
  | .ggCfg => ⟨0x1fc0000, 1, 0x4, 1, 0x4, false, 0x100000, 0x8fff0fff, 0x0, 0x0, 0x0, 0x0, .plain⟩
  | .ggPort => ⟨0x1fc0004, 1, 0x4, 1, 0x4, false, 0x0, 0xffff, 0x0, 0x0, 0x0, 0x0, .plain⟩
  | .ggRing => ⟨0x1fc0008, 1, 0x4, 1, 0x4, false, 0x0, 0x1f1f, 0x0, 0x0, 0x0, 0x0, .plain⟩
  | .ggPeer => ⟨0x1fc0100, 16, 0x4, 1, 0x4, false, 0x0, 0x0, 0x0, 0x0, 0x0, 0x0, .plain⟩
  | .ggEvtCnt => ⟨0x1fc0200, 5, 0x4, 1, 0x4, false, 0x0, 0x0, 0x80000000, 0x0, 0x0, 0x0, .plain⟩
  | .ggRoute => ⟨0x1fc1000, 4096, 0x4, 1, 0x4, false, 0x0, 0x8000000f, 0x0, 0x0, 0x0, 0x0, .plain⟩
  | .ftCntCfg => ⟨0x2000000, 1, 0x8, 1, 0x8, true, 0x0, 0x1ffffff00ffffff, 0x8000000000000000, 0x0, 0x0, 0x0, .plain⟩
  | .ftCntWrap => ⟨0x2000010, 8, 0x4, 1, 0x4, false, 0x0, 0x0, 0xffffffff, 0x0, 0x0, 0x0, .plain⟩
  | .ftStatWrap => ⟨0x2000030, 1, 0x4, 1, 0x4, false, 0x0, 0x0, 0x3, 0x0, 0x0, 0x0, .plain⟩
  | .ftEvtPend => ⟨0x2000100, 1, 0x4, 1, 0x4, false, 0x0, 0x0, 0x3ffffff, 0x0, 0x0, 0x0, .plain⟩
  | .ftNoticeCfg => ⟨0x2000110, 1, 0x4, 1, 0x4, false, 0x7a12, 0x8300ffff, 0x0, 0x0, 0x0, 0x0, .plain⟩
  | .ftNoticeMask => ⟨0x2000114, 1, 0x4, 1, 0x4, false, 0x0, 0x3ffffff, 0x0, 0x0, 0x0, 0x0, .plain⟩
  | .ftNoticeMac => ⟨0x2000118, 1, 0x8, 1, 0x8, true, 0x0, 0xffffffffffff, 0x0, 0x0, 0x0, 0x0, .plain⟩
  | .ftCntRdIdx => ⟨0x2000140, 1, 0x4, 1, 0x4, false, 0x0, 0xffffff, 0x0, 0x0, 0x0, 0x0, .plain⟩
  | .ftCntRd => ⟨0x2000148, 4, 0x4, 1, 0x4, false, 0x0, 0x0, 0x0, 0x0, 0x0, 0x0, .plain⟩
  | .ftLog => ⟨0x2000180, 4, 0x4, 1, 0x4, false, 0x0, 0x0, 0x0, 0x0, 0x0, 0x0, .plain⟩
  | .ftEvtCnt => ⟨0x2000200, 26, 0x4, 1, 0x4, false, 0x0, 0x0, 0x80000000, 0x0, 0x0, 0x0, .plain⟩
  | .ftMemCfg => ⟨0x2000300, 1, 0x4, 1, 0x4, false, 0x40, 0xffff, 0x0, 0x0, 0x0, 0x0, .plain⟩
  | .ftMemCnt => ⟨0x2000310, 2, 0x4, 1, 0x4, false, 0x0, 0x0, 0x80000000, 0x0, 0x0, 0x0, .plain⟩
  | .ftHbmSpare => ⟨0x2000400, 1, 0x4, 1, 0x4, false, 0x40000, 0xff0000, 0x0, 0x0, 0x0, 0x8000007f, .plain⟩
  | .ftHbmStatus => ⟨0x2000404, 1, 0x4, 1, 0x4, false, 0x0, 0x0, 0x0, 0x0, 0x0, 0x0, .plain⟩
  | .ftHbmChBusy => ⟨0x2000500, 32, 0x4, 1, 0x4, false, 0x0, 0x0, 0x0, 0x0, 0x0, 0x0, .plain⟩
  | .ftVpWrap => ⟨0x2000600, 64, 0x4, 1, 0x4, false, 0x0, 0x0, 0xffffffff, 0x0, 0x0, 0x0, .plain⟩
  | .ftDropCnt => ⟨0x2010000, 30, 0x800, 256, 0x8, true, 0x0, 0x0, 0x0, 0x0, 0x0, 0x0, .plain⟩
  | .mgCfg => ⟨0x2100000, 1, 0x4, 1, 0x4, false, 0x800c1e05, 0x80ffff0f, 0x0, 0x0, 0x0, 0x0, .plain⟩
  | .mgPeriod => ⟨0x2100004, 1, 0x4, 1, 0x4, false, 0x258, 0xffff, 0x0, 0x0, 0x0, 0x0, .plain⟩
  | .mgStatus => ⟨0x2100010, 1, 0x8, 1, 0x8, true, 0x0, 0x0, 0x0, 0x0, 0x0, 0x0, .plain⟩
  | .mgAvsStatus => ⟨0x2100020, 1, 0x4, 1, 0x4, false, 0x0, 0x0, 0xc0000000, 0x0, 0x0, 0x0, .plain⟩
  | .mgTemp => ⟨0x2100030, 1, 0x4, 1, 0x4, false, 0x0, 0x0, 0x80000000, 0x0, 0x0, 0x0, .plain⟩
  | .mgMon => ⟨0x2100100, 48, 0x4, 1, 0x4, false, 0x0, 0x0, 0x0, 0x0, 0x0, 0x0, .plain⟩
  | .npPortCfg => ⟨0x2200000, 4, 0x1000, 1, 0x4, false, 0x2, 0x103, 0x200, 0x0, 0x0, 0x0, .plain⟩
  | .npPmdCfg => ⟨0x2200004, 4, 0x1000, 1, 0x4, false, 0x10, 0xff13, 0x0, 0x0, 0x0, 0x0, .plain⟩

/-- The registers, part 0. -/
def regs0 : List Reg := [.ctLock, .ctIsoCfg, .ctCmdCfg, .ctCmdMac, .ctCmdStatus, .ctCmdLast, .ctCmdRefuseCnt, .ctReset, .ctBootStatus, .ctBootSkipped, .seStatus, .seImgStatus, .seMigCmd, .seMigAddr, .seMigArg, .seMigResult, .tkTickLo, .tkTickHi, .tkCommit, .tkDqLimit, .tkDqStatus, .tkOrdHeld, .tkVerdictCfg, .tkFrmCfg, .tkFrmBase, .tkFrmStatus, .tkPuntCfg, .tkDqDrop, .tkWgCfg, .tkWgStatus, .tkCapCtl, .tkCapData, .rlReelCtl, .rlReelStatus, .rlReelImg, .rlOverrunCnt, .rlFaultInfo, .rlFaultWord, .rlThreadCfg, .rlDbgCtl]
/-- The registers, part 1. -/
def regs1 : List Reg := [.rlBrk, .rlEvtCfg, .rlEvtBind, .drLockCfg, .drLockStatus, .drLockEvtCnt, .drChanCfg0, .drChanCfg1, .drChanStatus, .drChanVoidCnt, .lkCmd, .lkCmdResult, .lkCmdData, .lkCommit, .lkCombCfgA, .lkCombCfgB, .lkCombCfgC, .lkWalkCfg, .lkShadowBase, .lkFlowCfg, .lkLearnCfg, .lkRingCfg, .lkRingProd, .lkRingCons, .lkSuspectInfo, .lkCamStatus, .lkEvtCnt, .lkBdCfg, .lkDomQuota, .lkDomUse, .swCtEn, .swCtAbort, .swCtAbortSat, .swCommit, .swHoldCfg, .swBondCfg, .swInPart, .swInUse, .swClassMax, .swDestCtl]
/-- The registers, part 2. -/
def regs2 : List Reg := [.swDestDepth, .swAdmDrop, .swInDrop, .swInRxdrop, .swEvtCnt, .swMcCmd, .swMcData, .swMcCfg, .swPeCommit, .swPgExcCnt, .swPgInput, .swPgCmap, .swEdDrop, .swPgNode, .swEdTpl, .swGtkt, .swAtkt, .swVoqCfg, .swVoqStatus, .scCommit, .scWredCurve, .scWredCfg, .scEcnMark, .scEvtCnt, .scRootCfg, .scSmpCfg, .scSmpSched, .scSmpProd, .scSmpCons, .scWaftCfg, .scWaftQ, .scMirSess, .scMirSel, .scMtrCmd, .scMtrData, .scSmpList, .scDomCfg, .scDomRate, .scDomBurst, .scVpnCfg]
/-- The registers, part 3. -/
def regs3 : List Reg := [.scVpnRate, .scVpnBurst, .scSqCfg, .blCfg, .blReplay, .blCplTimeout, .blLost, .blCredit0, .blCredit1, .blCredit2, .blCredit3, .blStatus, .blTags, .blReplayUse, .blPeerIdLo, .blPeerIdHi, .blPmdCfg, .blErrCnt, .vpMbIn, .vpMbOut, .vpDbb, .vpDbbMask, .vpStatus, .vpSigCfg, .vpCnt, .vpSqStatus, .vpRqStatus, .vpCqStatus, .vpCtl, .vpCfg, .vpQrange, .vpMigCtl, .vpMigSave, .vpMigStatus, .vpMigCnt, .vpMbCfg, .vpMbStatus, .bbCtl, .bbSig, .bbHost]
/-- The registers, part 4. -/
def regs4 : List Reg := [.bbIovaLo, .bbIovaHi, .bbLen, .bbDone, .bbStatus, .bbFailLo, .bbFailHi, .bbRetryCnt, .bbWay, .bbQcmd, .bbQop, .bbQdata, .bbCfg, .bbRxHold, .ciCommit, .ciCacheCfg, .ciClCfg, .ciSpCfg, .ciSpMaxlen, .ciBypass0, .ciBypass, .ciSaCmd, .ciSaData, .ciRekeyQ, .ciDropCnt, .ciCacheShare, .ciCacheUse, .ciRxsc, .bsCommit, .bsCmd, .bsData, .bsTcpCfg, .bsIoTimeout, .bsStage, .bsAdmRxCfg, .bsAdmRxProd, .bsAdmRxCons, .bsAdmTxCfg, .bsAdmTxProd, .bsAdmTxCons]
/-- The registers, part 5. -/
def regs5 : List Reg := [.bsAdmSig, .bsLocked, .bsLockedLo, .bsLockedHi, .bsEvtCnt, .bsDomCtx, .bsDomCtxUse, .bsVdBusy, .bsConnStatus, .mbRcvCfg, .mbDbb, .mbDbbMask, .mbDbbWake, .mbDbbSet, .pwDomCtl, .pwGustStatus, .pwSagCfg, .pwSagStatus, .pwEvtCnt, .tmNowFrac, .tmNowNs, .tmNowSecLo, .tmNowSecHi, .tmAdj, .tmStepNs, .tmStepSecLo, .tmStepSecHi, .tmStepCtl, .tmPpsCfg, .tmPpsOut, .tmPpsIn, .tmPortAdj, .tmTxts, .tmTxtsSig, .tmSynceCfg, .tmEvtCnt, .ggCfg, .ggPort, .ggRing, .ggPeer]
/-- The registers, part 6. -/
def regs6 : List Reg := [.ggEvtCnt, .ggRoute, .ftCntCfg, .ftCntWrap, .ftStatWrap, .ftEvtPend, .ftNoticeCfg, .ftNoticeMask, .ftNoticeMac, .ftCntRdIdx, .ftCntRd, .ftLog, .ftEvtCnt, .ftMemCfg, .ftMemCnt, .ftHbmSpare, .ftHbmStatus, .ftHbmChBusy, .ftVpWrap, .ftDropCnt, .mgCfg, .mgPeriod, .mgStatus, .mgAvsStatus, .mgTemp, .mgMon, .npPortCfg, .npPmdCfg]

/-- All registers. -/
def allRegs : List Reg := regs0 ++ regs1 ++ regs2 ++ regs3 ++ regs4 ++ regs5 ++ regs6

/-- The address of instance `i`, `j` of a register (its low word where it has 64 bits). -/
def addr (r : Reg) (i j : Nat) : Nat := (regDef r).base + (regDef r).s1 * i + (regDef r).s2 * j

/-- Where an address lies: a register, its indices, and whether it is the high word of a 64-bit register. -/
structure Loc where
  reg : Reg
  i : Nat
  j : Nat
  hi : Bool
  deriving DecidableEq, Repr

/-- The instance of one register that a byte address names, if any. -/
def locateIn (a : Nat) (r : Reg) : Option Loc :=
  let d := regDef r
  if a < d.base then none else
  let off := a - d.base
  let i := off / d.s1
  let j := off % d.s1 / d.s2
  let w := off % d.s1 % d.s2
  if i < d.n1 ∧ j < d.n2 ∧ (w = 0 ∨ (d.wide = true ∧ w = 4)) then some ⟨r, i, j, w = 4⟩ else none

/-- The register that a byte address names; an address that names none reads 0 and ignores writes (R524, R408). -/
def locate (a : Nat) : Option Loc := allRegs.findSome? (locateIn a)

/-- The reset value of the word at a location: the low or high half of the register's reset value. -/
def resetOf (r : Reg) (hi : Bool) : Word :=
  BitVec.ofNat 32 (if hi then (regDef r).reset / 2 ^ 32 else (regDef r).reset)

/-- One access-code mask, for the low or the high word. -/
def half (m : Nat) (hi : Bool) : Word := BitVec.ofNat 32 (if hi then m / 2 ^ 32 else m)

end Sys2Proof.Machine
end

