-- ==== Sys2Proof/Syntax.lean ====
section
/-! DEFINITION. The commands of the AX6408: one constructor of `Instr` per row of spec/opcode_table.json, in the table's order,
and the types of their operands. An index has a Fin type of its range, a field of an encoding a BitVec of its width, a frame
or record a structure. -/

namespace Sys2Proof

/-- An access path to the registers (R465): the control path, the security processor (which also performs the initial
register-write list), and the mailbox path of each host port. -/
inductive Path where
  | ctl | sp | mbx (h : Fin 8)
  deriving DecidableEq, Repr

/-- A thread: reel 0-32 and thread n = 8 s + t of the reel (R30). -/
structure Tid where
  reel : Fin 33
  n : Fin 64
  deriving DecidableEq, Repr

/-- Operations of the register ALU (Table 3-7, opcodes 0x08 to 0x17). -/
inductive AluOp where
  | add | sub | and | or | xor | andn | shl | shr | sar | rol | minu | maxu | mul | csum | cmp | tst
  deriving DecidableEq, Repr

/-- Unary operations (Table 3-7, opcodes 0x18 to 0x1A). -/
inductive UnOp where
  | clz | popc | bswap
  deriving DecidableEq, Repr

/-- Operations of the immediate ALU (Table 3-8, opcodes 0x20 to 0x2A). -/
inductive ImmOp where
  | addi | subi | andi | ori | xori | shli | shri | sari | roli | cmpi | tsti
  deriving DecidableEq, Repr

/-- Bit-field operations (Table 3-9, opcodes 0x30 to 0x34). -/
inductive BfOp where
  | ext | exts | ins | exth | insh
  deriving DecidableEq, Repr

/-- Local-memory operations (R87, opcodes 0x38 to 0x3A). -/
inductive LmOp where
  | ld | ldsx | st
  deriving DecidableEq, Repr

/-- Posted operations with their SUB values (Table 4-1, Tables 4-4 to 4-6, R122, R123). -/
inductive POp where
  | lkpMacDst | lkpMacSrc | lkpLpm4 | lkpLpm6 | lkpTun
  | flowFind | flowFindIns | flowUpdate | flowDelete
  | cntAdd | cntRead
  | mtr (pre : BitVec 2)
  | hash (key : BitVec 2)
  | lockAcq | lockTry | lockRel | lockPoll
  | chanOpen | chanWrite (word : Fin 7) | chanCommit | chanRead
  | cattAttach | cattDetach
  | mrd | mwr (sz : BitVec 2)
  | matAdd | matSwap | matCas | matOr | matAnd
  | frmAlloc | frmSend | frmFree
  deriving DecidableEq, Repr

/-- Verdict kinds (Table 4-8, opcodes 0x70 to 0x76). -/
inductive VKind where
  | fwd | mcast | host | punt | recirc | block | drop
  deriving DecidableEq, Repr

/-- A legal-format Whorl instruction (chapters 3 and 4), its fields as encoded. -/
inductive Whorl where
  | nop
  | alu (op : AluOp) (d : BitVec 5) (a b : BitVec 6) (w f : Bool)
  | un (op : UnOp) (d : BitVec 5) (a : BitVec 6) (w f : Bool)
  | sel (d : BitVec 5) (a b : BitVec 6) (w : Bool) (cond : BitVec 4)
  | imm (op : ImmOp) (d : BitVec 5) (a : BitVec 6) (w f : Bool) (imm : BitVec 12)
  | movi (d : BitVec 5) (hw : BitVec 2) (keep : Bool) (imm : BitVec 16)
  | bf (op : BfOp) (d : BitVec 5) (a pos lenM1 : BitVec 6)
  | lm (op : LmOp) (d : BitVec 5) (a : BitVec 6) (sz : BitVec 2) (off : BitVec 12)
  | mfs (d : BitVec 5) (srn : BitVec 10)
  | mts (d : BitVec 5) (srn : BitVec 10)
  | bc (cond : BitVec 4) (back : Bool) (off : BitVec 16)
  | brc (cond : BitVec 4) (a b : BitVec 6) (off : BitVec 9)
  | loop (cntM1 : BitVec 4) (lenM1 : BitVec 6)
  | jal (back : Bool) (off : BitVec 16)
  | jr (a : BitVec 6)
  | stage
  | wait (a b : BitVec 6)
  | post (op : POp) (pr nM1 : BitVec 3) (a b : BitVec 6)
  | edit (eop : BitVec 5) (a : BitVec 6) (imm : BitVec 14)
  | verdict (k : VKind) (a b : BitVec 6) (imm : BitVec 8)
  deriving DecidableEq, Repr


/-- How a frame ends bad (R23): a bad FCS, a receive error, or the port going down before its last byte. -/
inductive BadEnd where
  | fcs | rxError | portDown
  deriving DecidableEq, Repr

/-- Link header of a Bamura frame (Table 10-1) without VERSION and FTYPE. -/
structure BlHdr where
  nak : Bool
  seq : BitVec 16
  ackSeq : BitVec 16
  epOwn : BitVec 8
  epPeer : BitVec 8
  cl0 : BitVec 16
  cl1 : BitVec 16
  cl2 : BitVec 16
  cl3 : BitVec 16
  deriving DecidableEq, Repr

/-- An Ethernet PHY type that auto-negotiation can advertise (R516, R518, Table 20-6): backplane (KR) or cable (CR), its rate in Gb/s and
its lanes. -/
inductive Phy where
  | kr (gbps lanes : Nat)
  | cr (gbps lanes : Nat)
  deriving DecidableEq, Repr

/-- A record of a DATA frame (Table 10-2), its fields as received. -/
structure BlRec where
  ty : BitVec 8
  vport : BitVec 8
  tag : BitVec 16
  len : BitVec 16
  status : BitVec 8
  rflags : BitVec 8
  word : BitVec 64
  data : List Byte
  deriving DecidableEq, Repr

/-- Body of an INIT frame (Table 10-7). -/
structure BlInit where
  kind : BitVec 8
  role : BitVec 8
  nrx : BitVec 16
  inf : BitVec 8
  linkId : BitVec 64
  deriving DecidableEq, Repr


/-- Where a memory error is met (Table 18-8, R474). -/
inductive MemAt where
  /-- Instruction memory, in a fetch of a thread. -/
  | imem (t : Tid)
  | regFile (t : Tid)
  | localMem (t : Tid)
  | reelMem (r : Fin 33) (off : BitVec 20)
  | hank (off : BitVec 26)
  | hbm (off : BitVec 36)
  /-- A slot of a lookup table; the slots that one flag word covers. -/
  | lookup (t : Fin 5) (s : BitVec 20)
  | lookupFlags (t : Fin 5) (slots : List (BitVec 20))
  | packetBuffer (f : Nat)
  /-- A hold buffer: a frame at ingress, a copy at egress. -/
  | holdIn (f : Nat)
  | holdOut (c : Nat)
  | keyCache (sa : BitVec 20)
  | replay (h : Fin 8)
  /-- Queue contexts, tag tables, association state and other control arrays, by the domain that owns them. -/
  | hostArray (h : Fin 8)
  | clusterArray (c : Fin 8)
  | reelArray (r : Fin 33)
  deriving DecidableEq, Repr

/-- What a round of the margin monitors gives (R481, R510, R513): the slack of each monitor in ps, the hottest reading in 1/16 °C, and
the readbacks with which each regulator answers a setpoint write and its retries, in order, none where no valid response comes. -/
structure Measure where
  slack : List (BitVec 16)
  tj : BitVec 16
  avsA : List (Option (BitVec 10))
  avsB : List (Option (BitVec 10))
  deriving DecidableEq, Repr


/-- Instructions of the TAP (R522). -/
inductive TapOp where
  | idcode | bypass | samplePreload | extest | extestPulse | extestTrain | highz | clamp
  deriving DecidableEq, Repr

/-- The commands: one constructor per row of the table of operations and events. -/
inductive Instr where
  -- chapter 1: the tick, registers, network ports
  | tickBoundary
  | tickCntLoRead (p : Path)
  | lowWordRead (p : Path) (a : Word)
  | registerWrite (p : Path) (checked : Bool) (a v : Word)
  | counterSatClear (p : Path) (a : Word)
  | npPortModeWrite (x : Fin 4) (mode : BitVec 2)
  | portAdminUp (x : Fin 4)
  | portAdminDown (x : Fin 4)
  -- chapter 2: spindles, threads, reels
  | droopSkip (cycle : Nat)
  | stageOverrun (t : Tid)
  | dbgHalt (t : Tid) (capture : Bool)
  | breakpointHalt (t : Tid)
  | dbgStep (t : Tid) (capture : Bool)
  | dbgResume (t : Tid) (capture : Bool)
  | captureFree
  | reelLoad (r : Fin 33)
  | reelLoadDone (r : Fin 33) (testOk : Bool)
  | reelAdmit (r : Fin 33)
  | reelDrain (r : Fin 33)
  | reelRetiredAfterDrain (r : Fin 33)
  | reelReset (r : Fin 33)
  | reelFault (r : Fin 33)
  | spareAdmit (r : Fin 33)
  -- chapter 3: Whorl local instructions, each issued by one thread
  | illegalInstruction (t : Tid) (word : Word)
  | nop (t : Tid)
  | add (t : Tid) (d : BitVec 5) (a b : BitVec 6) (w f : Bool)
  | sub (t : Tid) (d : BitVec 5) (a b : BitVec 6) (w f : Bool)
  | and (t : Tid) (d : BitVec 5) (a b : BitVec 6) (w f : Bool)
  | or (t : Tid) (d : BitVec 5) (a b : BitVec 6) (w f : Bool)
  | xor (t : Tid) (d : BitVec 5) (a b : BitVec 6) (w f : Bool)
  | andn (t : Tid) (d : BitVec 5) (a b : BitVec 6) (w f : Bool)
  | shl (t : Tid) (d : BitVec 5) (a b : BitVec 6) (w f : Bool)
  | shr (t : Tid) (d : BitVec 5) (a b : BitVec 6) (w f : Bool)
  | sar (t : Tid) (d : BitVec 5) (a b : BitVec 6) (w f : Bool)
  | rol (t : Tid) (d : BitVec 5) (a b : BitVec 6) (w f : Bool)
  | minu (t : Tid) (d : BitVec 5) (a b : BitVec 6) (w f : Bool)
  | maxu (t : Tid) (d : BitVec 5) (a b : BitVec 6) (w f : Bool)
  | mul (t : Tid) (d : BitVec 5) (a b : BitVec 6) (w f : Bool)
  | csum (t : Tid) (d : BitVec 5) (a b : BitVec 6) (w f : Bool)
  | cmp (t : Tid) (d : BitVec 5) (a b : BitVec 6) (w f : Bool)
  | tst (t : Tid) (d : BitVec 5) (a b : BitVec 6) (w f : Bool)
  | clz (t : Tid) (d : BitVec 5) (a : BitVec 6) (w f : Bool)
  | popc (t : Tid) (d : BitVec 5) (a : BitVec 6) (w f : Bool)
  | bswap (t : Tid) (d : BitVec 5) (a : BitVec 6) (w f : Bool)
  | sel (t : Tid) (d : BitVec 5) (a b : BitVec 6) (w : Bool) (cond : BitVec 4)
  | addi (t : Tid) (d : BitVec 5) (a : BitVec 6) (w f : Bool) (imm : BitVec 12)
  | subi (t : Tid) (d : BitVec 5) (a : BitVec 6) (w f : Bool) (imm : BitVec 12)
  | andi (t : Tid) (d : BitVec 5) (a : BitVec 6) (w f : Bool) (imm : BitVec 12)
  | ori (t : Tid) (d : BitVec 5) (a : BitVec 6) (w f : Bool) (imm : BitVec 12)
  | xori (t : Tid) (d : BitVec 5) (a : BitVec 6) (w f : Bool) (imm : BitVec 12)
  | shli (t : Tid) (d : BitVec 5) (a : BitVec 6) (w f : Bool) (imm : BitVec 12)
  | shri (t : Tid) (d : BitVec 5) (a : BitVec 6) (w f : Bool) (imm : BitVec 12)
  | sari (t : Tid) (d : BitVec 5) (a : BitVec 6) (w f : Bool) (imm : BitVec 12)
  | roli (t : Tid) (d : BitVec 5) (a : BitVec 6) (w f : Bool) (imm : BitVec 12)
  | cmpi (t : Tid) (d : BitVec 5) (a : BitVec 6) (w f : Bool) (imm : BitVec 12)
  | tsti (t : Tid) (d : BitVec 5) (a : BitVec 6) (w f : Bool) (imm : BitVec 12)
  | movi (t : Tid) (d : BitVec 5) (hw : BitVec 2) (keep : Bool) (imm : BitVec 16)
  | ext (t : Tid) (d : BitVec 5) (a pos lenM1 : BitVec 6)
  | exts (t : Tid) (d : BitVec 5) (a pos lenM1 : BitVec 6)
  | ins (t : Tid) (d : BitVec 5) (a pos lenM1 : BitVec 6)
  | exth (t : Tid) (d : BitVec 5) (a pos lenM1 : BitVec 6)
  | insh (t : Tid) (d : BitVec 5) (a pos lenM1 : BitVec 6)
  | ld (t : Tid) (d : BitVec 5) (a : BitVec 6) (sz : BitVec 2) (off : BitVec 12)
  | ldsx (t : Tid) (d : BitVec 5) (a : BitVec 6) (sz : BitVec 2) (off : BitVec 12)
  | st (t : Tid) (d : BitVec 5) (a : BitVec 6) (sz : BitVec 2) (off : BitVec 12)
  | mfs (t : Tid) (d : BitVec 5) (srn : BitVec 10)
  | mts (t : Tid) (d : BitVec 5) (srn : BitVec 10)
  | bc (t : Tid) (cond : BitVec 4) (back : Bool) (off : BitVec 16)
  | brc (t : Tid) (cond : BitVec 4) (a b : BitVec 6) (off : BitVec 9)
  | loop (t : Tid) (cntM1 : BitVec 4) (lenM1 : BitVec 6)
  | jal (t : Tid) (back : Bool) (off : BitVec 16)
  | jr (t : Tid) (a : BitVec 6)
  -- chapter 4: stages, WAIT, posted operations, EDIT, verdicts
  | stage (t : Tid)
  | wait (t : Tid) (a b : BitVec 6)
  | waitTimeout (t : Tid)
  | lkpMacDst (t : Tid) (pr nM1 : BitVec 3) (a b : BitVec 6)
  | lkpMacSrc (t : Tid) (pr nM1 : BitVec 3) (a b : BitVec 6)
  | lkpLpmIpv4 (t : Tid) (pr nM1 : BitVec 3) (a b : BitVec 6)
  | lkpLpmIpv6 (t : Tid) (pr nM1 : BitVec 3) (a b : BitVec 6)
  | lkpTunnelMap (t : Tid) (pr nM1 : BitVec 3) (a b : BitVec 6)
  | flowFind (t : Tid) (pr nM1 : BitVec 3) (a b : BitVec 6)
  | flowFindOrInsert (t : Tid) (pr nM1 : BitVec 3) (a b : BitVec 6)
  | flowUpdate (t : Tid) (pr nM1 : BitVec 3) (a b : BitVec 6)
  | flowDelete (t : Tid) (pr nM1 : BitVec 3) (a b : BitVec 6)
  | cntAdd (t : Tid) (pr nM1 : BitVec 3) (a b : BitVec 6)
  | cntRead (t : Tid) (pr nM1 : BitVec 3) (a b : BitVec 6)
  | mtr (t : Tid) (pre : BitVec 2) (pr nM1 : BitVec 3) (a b : BitVec 6)
  | hash (t : Tid) (key : BitVec 2) (pr nM1 : BitVec 3) (a b : BitVec 6)
  | lockAcq (t : Tid) (pr nM1 : BitVec 3) (a b : BitVec 6)
  | lockTry (t : Tid) (pr nM1 : BitVec 3) (a b : BitVec 6)
  | lockRel (t : Tid) (pr nM1 : BitVec 3) (a b : BitVec 6)
  | lockPoll (t : Tid) (pr nM1 : BitVec 3) (a b : BitVec 6)
  | lockRequestExpiry (t : Tid)
  | chanOpen (t : Tid) (pr nM1 : BitVec 3) (a b : BitVec 6)
  | chanWrite (t : Tid) (word : Fin 7) (pr nM1 : BitVec 3) (a b : BitVec 6)
  | chanCommit (t : Tid) (pr nM1 : BitVec 3) (a b : BitVec 6)
  | chanRead (t : Tid) (pr nM1 : BitVec 3) (a b : BitVec 6)
  | chanPublishTimeout (c : Fin 4096)
  | cattAttach (t : Tid) (pr nM1 : BitVec 3) (a b : BitVec 6)
  | cattDetach (t : Tid) (pr nM1 : BitVec 3) (a b : BitVec 6)
  | mrd (t : Tid) (pr nM1 : BitVec 3) (a b : BitVec 6)
  | mwr (t : Tid) (sz : BitVec 2) (pr nM1 : BitVec 3) (a b : BitVec 6)
  | matAdd (t : Tid) (pr nM1 : BitVec 3) (a b : BitVec 6)
  | matSwap (t : Tid) (pr nM1 : BitVec 3) (a b : BitVec 6)
  | matCas (t : Tid) (pr nM1 : BitVec 3) (a b : BitVec 6)
  | matOr (t : Tid) (pr nM1 : BitVec 3) (a b : BitVec 6)
  | matAnd (t : Tid) (pr nM1 : BitVec 3) (a b : BitVec 6)
  | frmAlloc (t : Tid) (pr nM1 : BitVec 3) (a b : BitVec 6)
  | frmSend (t : Tid) (pr nM1 : BitVec 3) (a b : BitVec 6)
  | frmFree (t : Tid) (pr nM1 : BitVec 3) (a b : BitVec 6)
  | frmPoolCfgWrite (base : Bool) (v : Word)
  | edit (t : Tid) (eop : BitVec 5) (a : BitVec 6) (imm : BitVec 14)
  | fwd (t : Tid) (a b : BitVec 6) (imm : BitVec 8)
  | mcast (t : Tid) (a b : BitVec 6) (imm : BitVec 8)
  | host (t : Tid) (a b : BitVec 6) (imm : BitVec 8)
  | punt (t : Tid) (a b : BitVec 6) (imm : BitVec 8)
  | recirc (t : Tid) (a b : BitVec 6) (imm : BitVec 8)
  | block (t : Tid) (a b : BitVec 6) (imm : BitVec 8)
  | drop (t : Tid) (a b : BitVec 6) (imm : BitVec 8)
  -- chapter 5: locks, channels, events, the doldrums detector
  | lockCfgWrite (l : Fin 4096) (v : Word)
  | lockPoisonClear (l : Fin 4096)
  | chanCfgWrite (c : Fin 4096) (cfg1 : Bool) (v : Word)
  | evtBindWrite (t : Tid) (line : Fin 64) (v : Word)
  | wgCfgWrite (g : Fin 256) (v : Word)
  | doldrums (g : Fin 256)
  -- chapters 1, 5, 6: frames, punt storage, parse and edit banks, the editor
  | frameArrival (i : Fin 25) (bytes : List Byte) (off : Nat)
  | parsePresent (f : Nat)
  | frameEndBad (f : Nat) (why : BadEnd) (len : Nat)
  | puntStore (c : Nat)
  | swPeCommit
  | bankSyncDone
  | standbyBankWrite (a v : Word)
  | editorTake (c : Nat)
  -- chapter 7: table commands, learn rings, comb, flow backing
  | lkRead (s : Fin 4) (table : BitVec 3) (byIx : Bool) (ix : BitVec 20)
  | lkWrite (s : Fin 4) (table : BitVec 3) (byIx : Bool) (ix : BitVec 20)
  | lkInsert (s : Fin 4) (table : BitVec 3) (byIx : Bool) (ix : BitVec 20)
  | lkDelete (s : Fin 4) (table : BitVec 3) (byIx : Bool) (ix : BitVec 20)
  | lkCas (s : Fin 4) (table : BitVec 3) (byIx : Bool) (ix : BitVec 20)
  | lkRingCfgWrite (r : Fin 4) (v : Word)
  | combVisit (t : Fin 5)
  | hbmSweepVisit
  | flowPromotionDone (hi lo : BitVec 64)
  | demotionWriteDone (hi lo : BitVec 64)
  | flowCfgWrite (v : Word)
  | flowInitDone
  -- chapters 8 and 9: waft, crossbar, links of ports, multicast groups, commits, meters, sampler
  | waftGapExpiry (i : Fin 30)
  | waftStore (c : Nat)
  | cellReady (f : Nat)
  | cellTime
  | egressTxStart (d : Fin 29)
  | destFreeze (d : Fin 32)
  | destUnfreeze (d : Fin 32)
  | linkDown (p : Fin 25)
  | linkUp (p : Fin 25)
  | flapHoldExpiry (p : Fin 25)
  | mcRead (g : BitVec 14)
  | mcWrite (g : BitVec 14)
  | swCommit
  | tkCommit
  | lkCommit
  | scCommit
  | ciCommit
  | bsCommit
  | mtrRead (m : BitVec 16)
  | mtrWrite (m : BitVec 16)
  | sampleVisit
  | smpCfgWrite (v : Word)
  -- chapter 10: the Bamura link
  | blFrameReceive (h : Fin 24) (bytes : List Byte) (fcsOk : Bool)
  | dataFrameReceive (h : Fin 24) (hdr : BlHdr) (recs : List BlRec) (pastEnd : Bool)
  | controlFrameReceive (h : Fin 24) (hdr : BlHdr)
  | initFrameReceive (h : Fin 24) (hdr : BlHdr) (body : BlInit)
  | linkEnterActive (h : Fin 24)
  | pcsAlign (h : Fin 24)
  | pcsLoss (h : Fin 24)
  | initSend (h : Fin 24)
  | dataFrameSend (h : Fin 24) (vcs : List (Fin 4))
  | ackSend (h : Fin 24)
  | replayTimeout (h : Fin 24)
  | endpointLost (h : Fin 24)
  | cplRecord (h : Fin 8) (r : BlRec)
  | wackRecord (h : Fin 8) (r : BlRec)
  | cplTimeout (h : Fin 8)
  | mbrRecord (h : Fin 8) (r : BlRec)
  | mbwRecord (h : Fin 8) (r : BlRec)
  | dbRecord (h : Fin 8) (r : BlRec)
  | pingRecord (h : Fin 24) (r : BlRec)
  | resetNotice (h : Fin 24) (r : BlRec)
  | sigSend (h : Fin 8) (vport : BitVec 8) (vec : BitVec 6)
  | blCfgWrite (h : Fin 8) (v : Word)
  -- chapter 11: vports, rings, bobbins
  | vportReset (p : Fin 2048)
  | vportResetDone (p : Fin 2048)
  | reattach (p : Fin 2048)
  | reattachDone (p : Fin 2048)
  | orphanHoldExpiry (p : Fin 2048)
  | sendJobComplete (q : Fin 32768)
  | rxComplete (q : Fin 32768)
  | rxHoldExpiry (c : Nat)
  | cqStall (c : Fin 16384)
  | sigUnmask (p : Fin 2048) (vec : Fin 64)
  | qctxRead (kind : BitVec 2) (q : BitVec 15)
  | qctxWrite (kind : BitVec 2) (q : BitVec 15)
  | qctxEnable (kind : BitVec 2) (q : BitVec 15)
  | qctxDisable (kind : BitVec 2) (q : BitVec 15)
  | bobbinStart (b : Fin 1024)
  | bobbinResume (b : Fin 1024)
  | bobbinAbort (b : Fin 1024)
  | bobbinPause (b : Fin 1024)
  | bobbinUnpause (b : Fin 1024)
  | bbCfgWrite (v : Word)
  -- chapter 12: cipher clusters
  | ingressDecrypt (f : Nat)
  | ingressTagVerify (f : Nat)
  | egressProtect (c : Nat)
  | leaseWriteDone (sa : BitVec 20)
  | keyFillDone (sa : BitVec 20)
  | keyMissTimeout (egress : Bool) (id : Nat)
  | saRead (sa : BitVec 20)
  | saDisable (sa : BitVec 20)
  | saSetSoft (sa : BitVec 20)
  | saEvict (sa : BitVec 20)
  | ciRekeyQRead (p : Path)
  -- chapter 13: the block service
  | nvmeCmdFetch (x : Fin 32768)
  | nvmeFlush (x : Fin 32768)
  | nvmeWrite (x : Fin 32768)
  | nvmeRead (x : Fin 32768)
  | nvmeWriteZeroes (x : Fin 32768)
  | nvmeDatasetManagement (x : Fin 32768)
  | cqeWrite (x : Fin 32768)
  | tcpSegmentReceive (c : BitVec 16)
  | tcpRetransmitTimeout (c : BitVec 16)
  | ioTimeout (c : BitVec 16)
  | bsRead (table : BitVec 2) (i : BitVec 16)
  | bsWrite (table : BitVec 2) (i : BitVec 16)
  | connOpen (c : BitVec 16)
  | connClose (c : BitVec 16)
  | connReset (c : BitVec 16)
  | adminTxPost (v : Word)
  | bsLockedRead (p : Path)
  -- chapter 14: freeze, save, migration
  | freeze (p : Fin 2048)
  | thaw (p : Fin 2048)
  | save (p : Fin 2048)
  | saveWritten
  | vportDrained (p : Fin 2048)
  | freezeHoldExpiry (c : Nat)
  | migOffer
  | migAccept
  | migRestore
  | restoreDone
  | migClose
  -- chapter 15: the control path
  | cmdFrameReceive (p : Fin 25) (bytes : List Byte)
  | cmdTake
  | status
  | regRead
  | regWrite
  | attest
  | identityGet
  | imgStage
  | imgActivate
  | imgFlashWriteDone
  | keyInstall
  | ctlkeySet
  | vportCreate
  | vportDestroy
  | isolation
  | debugEnable
  | gangCfg
  | rollbackAdvance
  | rollbackFusesDone
  | migSession
  | provision
  | ctCmdCfgWrite (counter : BitVec 64) (high : Bool) (v : Word)
  | ctLockWrite (counter : BitVec 64) (v : Word)
  | trngHealthFail
  -- chapter 18: the fault tree, memories, margins
  | eventNotice
  | ftLogRead (p : Path)
  | ftCntCfgWrite (v : BitVec 64)
  | cntAreaInitDone
  | ftCntRdRead (p : Path)
  | memCorrectable (m : MemAt)
  | memUncorrectable (m : MemAt)
  | hbmChannelFail (ch : Fin 32)
  | hbmSpareDone
  | marginMeasure (m : Measure)
  | marginSettleExpiry (m : Measure)
  | thermtrip
  -- chapter 16: mailboxes, doorbell bits, power
  | mbInWrite (p : Fin 2048) (tag : BitVec 16) (w : BitVec 64)
  | mbInStatusRead (p : Fin 2048) (tag : BitVec 16)
  | mbOutRead (p : Fin 2048) (tag : BitVec 16)
  | fwMbInRead (pth : Path) (p : Fin 2048)
  | fwMbOutWrite (pth : Path) (p : Fin 2048) (w : BitVec 64)
  | crossed (p : Fin 2048)
  | dbbWrite (p : Fin 2048) (tag : BitVec 16) (w : Word)
  | dbbSet (r : Fin 256) (w : Word)
  | rcvCfgWrite (r : Fin 256) (v : Word)
  | domainSleepRequest (p : Fin 42)
  | domainSleepEntry (p : Fin 42)
  | wakeRequest (p : Fin 42)
  | gustAdmit
  | domainAwake (p : Fin 42)
  | sagEntry
  | sagExit (belowNs : Nat)
  -- chapter 17: time and gang
  | timeStepGo (load : Bool)
  | ppsOutEdge
  | ppsInEdge (falling : Bool) (ps : Nat)
  | txTimestampPoint (c : Nat) (ps : Nat)
  | tmTxtsRead (pth : Path) (n : Fin 17)
  | tmNowFracRead (pth : Path)
  | gangFrameReceive (n : Fin 16) (bytes : List Byte)
  -- chapters 19 and 20: resets, bring-up, pins
  | powerOnReset (bootSel : BitVec 2) (rungInit : BitVec 2) (cpMedia : Bool)
  | pllLock (entropyOk : Bool) (ms : List Measure)
  | undervoltageReset
  | undervoltageRelease
  | deviceResetCmd (counter : BitVec 64)
  | hostPortDomainReset (h : Fin 8)
  | clusterDomainReset (c : Fin 8)
  | domainResetEnd
  | imageFetchDone
  | porstNLow
  | thermtripNRelease
  | ppsOutPulseEnd
  | shadowWriteDone (t : Fin 4) (s : BitVec 20)
  | tapInstruction (i : TapOp)
  deriving DecidableEq, Repr

end Sys2Proof
end

