-- ==== Sys2Proof/WellFormed.lean ====
section
/-! DEFINITION. The well-formedness of a command: the relations between its operands that their types do not say. The meanings are
total and rest on none of them. -/

namespace Sys2Proof

/-- Picoseconds in a tick (R10): an instant inside a tick is an offset from the last boundary. -/
def tickPs : Nat := 32000

/-- Registers are words of 4 bytes (R524). -/
def wfAddr (a : Word) : Bool := decide (a.toNat % 4 = 0)

/-- A record of a type, with no more data than a record holds (Table 10-2). -/
def wfRec (ty : Nat) (r : BlRec) : Bool := decide (r.ty.toNat = ty) && decide (r.data.length ≤ 4096)

/-- A kind of queue context, 0 send, 1 receive or 2 completion, and a queue of that kind (Table 11-19). -/
def wfQueue (kind : BitVec 2) (q : BitVec 15) : Bool := decide (kind.toNat < 3) && (decide (kind.toNat < 2) || decide (q.toNat < 16384))

/-- A round of the margin monitors gives the slack of each of the 48 monitors (R481). -/
def wfMeasure (m : Measure) : Bool := decide (m.slack.length = 48)

/-- A memory error lies in a memory that exists: HBM has 48 GiB (R474), and a flag word covers at most 64 slots. -/
def wfMem : MemAt → Bool
  | .hbm off => decide (off.toNat < 48 * 2 ^ 30)
  | .lookupFlags _ slots => decide (slots.length ≤ 64)
  | _ => true

/-- Well-formed commands. -/
def wellFormed : Instr → Bool
  | .lowWordRead _ a | .registerWrite _ _ a _ | .counterSatClear _ a | .standbyBankWrite a _ => wfAddr a
  | .frameArrival _ bytes off => decide (off < tickPs) && decide (bytes.length < 65536)
  | .droopSkip c => decide (c < 64)
  | .cplRecord _ r => wfRec 0x20 r
  | .wackRecord _ r => wfRec 0x21 r
  | .mbrRecord _ r => wfRec 0x12 r
  | .mbwRecord _ r => wfRec 0x13 r
  | .dbRecord _ r => wfRec 0x30 r
  | .pingRecord _ r => wfRec 0x38 r
  | .resetNotice _ r => wfRec 0x3A r
  | .dataFrameSend _ vcs => decide (vcs ≠ [])
  | .qctxRead kind q | .qctxWrite kind q | .qctxEnable kind q | .qctxDisable kind q => wfQueue kind q
  | .marginMeasure m | .marginSettleExpiry m => wfMeasure m
  | .pllLock _ ms => ms.all wfMeasure
  | .memCorrectable m | .memUncorrectable m => wfMem m
  | .ppsInEdge _ ps | .txTimestampPoint _ ps => decide (ps < tickPs)
  | _ => true

end Sys2Proof
end

