-- ==== Sys2Proof/Config.lean ====
section
/-! DEFINITION. What the spec leaves open. Each constant has no body: nothing can be proved of its value. -/

namespace Sys2Proof

/-- Draw number `n` of the device's random bit generator (TRNG and DRBG, R417). -/
opaque Config.draw : Nat → BitVec 64

/-- The keyed hash of some words under a key that was drawn at random: the key's number and the reset at which it was drawn
(R47, R117, R182, R185, R209, R474). -/
opaque Config.keyedHash : Nat → Nat → List Nat → Nat

/-- A byte of a frame beyond the 256-byte parse window, as a node that reaches past the window sees it (R162 does not say). -/
opaque Config.pastWindow : Nat → Byte

/-- A byte beyond the end of the 128-byte header vector, as an edit that reaches past it sees it (R179 does not say). -/
opaque Config.pastHeader : Nat → Byte

/-- IPv6 payload length that a fix-up writes where the frame ends inside the header (Table 6-7 states none). -/
opaque Config.cutPayLen : Nat → BitVec 16

/-- Whether the average of R248 is rounded up where the division by 2^WEIGHT is not exact (the rule does not say): the sum that
is divided, and WEIGHT. -/
opaque Config.avgRoundUp : Nat → Nat → Bool

/-- The ES bit of a SecTAG that the device sends without an SCI (R356 does not say), by its SCI and the source address. -/
opaque Config.secTagEs : Nat → Nat → Bool

/-- The device key of R341, from DEVKEY_SEED: how it follows from the seed is not stated. -/
opaque Config.deviceKey : List Byte → List Byte

/-- The private identity key, from ID_SEED (R418 names the method of FIPS 186-5 and not how the seed enters it). -/
opaque Config.identityKey : List Byte → Nat

/-- What the TCP engine's segments carry where R366 leaves it open: the time-to-live or hop limit, the `n`-th IPv4 identification,
the initial sequence number of a connection's `n`-th opening. -/
opaque Config.ipTtl : Byte
opaque Config.ipId : Nat → Nat
opaque Config.tcpIss : Nat → Nat

/-- Fatal error status of an H2CTermReq for a protocol violation (R367 gives none), by the type of the offending PDU. -/
opaque Config.termFes : Nat → Nat

/-- Picoseconds by which a nonzero RX_ADJ or TX_ADJ moves a timestamp (R449, R450 give the field's unit and not its sense). -/
opaque Config.portAdjust : Int → Int

/-- LINK_ID of the INIT frames that the device sends on a host link (Table 10-7 gives no value). -/
opaque Config.linkId : Nat → Nat

/-- Where the search for the pool bobbin that serves a request begins (R330 does not say which one does), by the tick and the host address. -/
opaque Config.poolBobbin : Nat → Nat → Nat

/-- The ordering sequence number of the first skein that is admitted after reset (R44 gives no first number). -/
opaque Config.seqFirst : Nat

/-- A word of FT_CNT_RD where FT_CNT_RD_IDX names no pair (R468 does not say), by index and word. -/
opaque Config.pairBeyond : Nat → Nat → Nat

/-- Copy progress of a channel that is being spared (R475 gives its end only), by the tick. -/
opaque Config.spareProgress : Nat → Nat

/-- How far a rollback advance has come when a reset cuts it short (R423): fuses blown of those to blow, by the fuse count before, the
target and the tick; revoke fuses blown, by the mask and the tick. -/
opaque Config.fusesBlown : Nat → Nat → Nat → Nat
opaque Config.slotsRevoked : Nat → Nat → Nat

/-- Progress of a flash write (Table 15-17 gives its end only), by the tick. -/
opaque Config.flashProgress : Nat → Nat

/-- Occupancy of an HBM channel in thousandths (R474), by channel and tick: the HBM accesses' own timing is not described. -/
opaque Config.channelBusy : Nat → Nat → Nat

/-- Where a channel slot's data word stands among the slot's eight 8-byte places, taken modulo 8, and the 8 bytes that hold no data word, by
the slot's state and word count (R145 gives the size alone). -/
opaque Config.slotPlace : Nat → Nat
opaque Config.slotRest : Nat → Nat → DWord

/-- The time that a step with SET = 1 loads where the nanoseconds given are 10^9 or more (R448 does not say): seconds and nanoseconds, by the
values given. -/
opaque Config.loadSec : Nat → Nat → Nat
opaque Config.loadNs : Nat → Nat → Nat

/-- The types that the link partner of a port advertises by auto-negotiation (R518: they come from outside the device), by the port's first
destination and the tick. -/
opaque Config.partnerTypes : Nat → Nat → List Phy

/-- The reel image in the boot ROM (R495 gives what its program does and not its words): entry address of selector 63, number of
words, the words, its digest. -/
opaque Config.romEntry : Nat
opaque Config.romWords : Nat
opaque Config.romWord : Nat → Word
opaque Config.romDigest : List Byte

end Sys2Proof
end

