-- ==== Sys2Proof/Machine/TypesA.lean ====
section
/-! DEFINITION. State of the registers (chapter 21), of the reels, spindles and threads (chapters 2 to 4), and of the lock
unit, channels, event lines, punt queues and wait groups (chapter 5). Plain data; a sparse map holds each numbered thing,
with the value it has at reset as the map's default. -/

namespace Sys2Proof.Machine

/-- The register words. `cur` is the value a read returns and a write changes (the staged value of a staged register, the
standby bank of a banked one); `act` is the value the device uses (R526, R527, R177). `dirty` lists the words written since
the last tick boundary, which take effect there; `held` the low words held by each access path (R525); `latch` the words
latched by a low-word read on each path (R465), by register address. Keys are byte addresses; no entry equals the reset
value of its register. -/
structure Regs where
  cur : SMap Word
  act : SMap Word
  dirty : List Nat
  held : SMap (SMap (Option Word))
  latch : SMap (SMap Word)
  deriving DecidableEq, Repr

/-- An access path's key in `Regs.held` and `Regs.latch`. -/
def pathKey : Path → Nat
  | .ctl => 0
  | .sp => 1
  | .mbx h => 2 + h.val

/-- A thread's key: 64 × reel + n, which is also its position in the service circle (R134). -/
def tkey (t : Tid) : Nat := 64 * t.reel.val + t.n.val

/-- A skein: the work item handed to a packet thread, a descriptor (Table 3-2) plus the header vector (R71). -/
structure Skein where
  /-- Fabric input 0-29 (SK_INPUT). -/
  input : Nat
  /-- Frame length with FCS (SK_LEN). -/
  len : Nat
  /-- Traffic class 0-7 (SK_CLASS). -/
  cls : Nat
  /-- Ordering bucket 0-4,095 (SK_BUCKET). -/
  bucket : Nat
  /-- Program selector 0-63 (SK_SEL). -/
  sel : Nat
  /-- Place in the order of admission to the dispatch queues; the ordering sequence number counts on with it (SK_SEQ, R44). -/
  seq : Nat
  /-- Parse flags (SK_PFLAGS). -/
  pflags : DWord
  /-- Ingress metadata word (SK_META). -/
  md : DWord
  /-- Header vector H0-H31. -/
  hv : SMap Word
  /-- The frame in the packet buffer. -/
  frame : Nat
  deriving DecidableEq, Repr

/-- One entry of an edit list (R125). -/
structure Edit where
  eop : BitVec 5
  a : DWord
  imm : BitVec 14
  deriving DecidableEq, Repr

/-- A verdict as it reaches the ordering unit: a drop with its reason (R50, Table 4-10), or a verdict instruction with its
operand values, the colour that COLOUR 0b11 stands for (R128), the edit list and the final header vector (R126) and the
cipher attachment (R120). -/
inductive Verdict where
  | devDrop (reason : Nat)
  | prog (k : VKind) (a b : DWord) (imm : BitVec 8) (colour : Nat) (edits : List Edit) (hv : SMap Word) (catt : Option Nat)
  deriving DecidableEq, Repr

/-- The active LOOP of a thread (R92): first body address, length, passes left after this one, pass index. -/
structure Loop where
  start : Nat
  len : Nat
  left : Nat
  idx : Nat
  deriving DecidableEq, Repr

/-- What a thread is doing (R32, R40, R103, R130): a packet thread without a skein is `free`; `ready` issues; `staged` has
issued STAGE in this tick; `ended` holds a skein that has ended and becomes free at the next boundary; `waiting` is in WAIT
with its mask and the boundary at which its timeout runs out; `off` belongs to a reel that is out of service. -/
inductive Run where
  | off | free | ready | staged | ended
  | waiting (mask : DWord) (deadline : Option Nat)
  deriving DecidableEq, Repr

/-- Debug state of a thread (Table 2-12, R59 to R64). `step` is a STEP that is held (R62); `passed` is the breakpoint address
the thread was halted at and may issue once (R59); `seen` says it was halted at some time in this tick (R150). -/
structure Dbg where
  halted : Bool
  cause : Nat
  faulted : Bool
  step : Bool
  passed : Option Nat
  seen : Bool
  deriving DecidableEq, Repr

/-- One thread (Table 3-1). The program counter counts words and never wraps: 65,536 is "past the end" (R91). -/
structure Thread where
  g : SMap DWord
  h : SMap Word
  p : SMap DWord
  flags : BitVec 4
  pc : Nat
  loop : Option Loop
  run : Run
  stageNo : Nat
  stageCnt : Nat
  skein : Option Skein
  /-- Posted operations issued in the stage (R105, R106). -/
  posted : Nat
  /-- Results that have arrived and that the P registers take when the next stage begins (R104, R106). -/
  pnext : SMap DWord
  /-- By P register, one more than the place in its interval of the operation whose result it holds, 0 for none (R104). -/
  pby : SMap Nat
  edits : List Edit
  /-- Colour of the last MTR whose result has arrived (R128). -/
  mtr : Option Nat
  /-- Cipher attachment of the skein (R120). -/
  catt : Option Nat
  dbg : Dbg
  deriving DecidableEq, Repr

/-- A thread after device reset: its reel is OFF. -/
def Thread.reset : Thread :=
  ⟨[], [], [], 0, 0, none, .off, 0, 0, none, 0, [], [], [], none, none, ⟨false, 0, false, false, none, false⟩⟩

/-- Designation and local-memory window of a thread, from the reel image (R37, R38, Table 2-3); KiB. -/
structure ThreadCfg where
  service : Bool
  lmBase : Nat
  lmSize : Nat
  deriving DecidableEq, Repr

/-- One valid entry of a program table (R43). -/
structure ProgEnt where
  entry : Nat
  stages : Nat
  deriving DecidableEq, Repr

/-- Reel states (Table 2-14). -/
inductive ReelState where
  | off | loading | spare | admitted | draining | retired | failed
  deriving DecidableEq, Repr

/-- STATE value of a reel state (Table 2-14). -/
def ReelState.code : ReelState → Nat
  | .off => 0 | .loading => 1 | .spare => 2 | .admitted => 3 | .draining => 4 | .retired => 5 | .failed => 6

/-- A change of a reel that takes effect at the next tick boundary (R66, R67). `failReset` is a fault and a RESET of one tick. -/
inductive ReelPend where
  | none | activate | reset | fail | failReset
  deriving DecidableEq, Repr

/-- One reel (Table 2-1). Its threads are in `Rl.threads`. -/
structure Reel where
  st : ReelState
  pend : ReelPend
  /-- Image in the reel, the value RL_REEL_IMG had at LOAD. -/
  img : Nat
  imem : SMap Word
  rmem : Memory
  /-- Local memory, byte 65,536 × spindle + address. -/
  lmem : SMap Byte
  prog : SMap (Option ProgEnt)
  cfg : SMap ThreadCfg
  /-- Packet threads in the loaded image (PKT_THREADS). -/
  pkt : Nat
  /-- Claimed by a substitution (R67, R68). -/
  claimed : Bool
  /-- Tick counts of overruns, newest first (R57). -/
  overruns : List Nat
  deriving DecidableEq, Repr

/-- Default designation of a thread without an image: a packet thread without local memory. -/
def ThreadCfg.none : ThreadCfg := ⟨false, 0, 0⟩

/-- A reel after device reset. -/
def Reel.reset : Reel := ⟨.off, .none, 0, [], [], [], [], [], 0, false, []⟩

/-- A posted operation of the tick in progress: its thread, its operand values, its result span, and where it stands. -/
structure Posted where
  who : Nat
  /-- Its place among the operations of its thread's interval (R104, R105). -/
  no : Nat
  op : POp
  pr : Nat
  n : Nat
  a : DWord
  a2 : DWord
  b : DWord
  b2 : DWord
  stepped : Bool
  pc : Nat
  word : Word
  /-- The skein that issued it (none for a service thread). -/
  skein : Option Skein
  deriving DecidableEq, Repr

/-- A skein in the ordering unit (R48, R49): its verdict once it has ended, and whether a boundary has passed since then. -/
structure OrdEnt where
  skein : Skein
  verdict : Option Verdict
  waited : Bool
  deriving DecidableEq, Repr

/-- One capture-buffer entry (R63, Table 21-6). -/
structure Capture where
  tick : Nat
  who : Nat
  pc : Nat
  flags : BitVec 4
  skein : Skein
  h : SMap Word
  g : SMap DWord
  p : SMap DWord
  bytes : List Byte
  deriving DecidableEq, Repr

/-- The issue cycle of a spindle (R31, R89): the thread whose turn comes first, the threads that have issued in it, and for every byte of
local memory written in it the byte before the cycle and the turn of the thread whose store stands. -/
structure Cycle where
  start : Nat
  issued : List Nat
  wrote : SMap (Option (Byte × Nat))
  deriving DecidableEq, Repr

/-- A cycle in which nothing has issued, after one in which none has. -/
def Cycle.none : Cycle := ⟨0, [], []⟩

/-- Reels, threads, dispatch, ordering, capture (chapters 2 to 4). -/
structure Rl where
  reels : SMap Reel
  threads : SMap Thread
  /-- Dispatch queues by input, oldest first (R46). -/
  dq : SMap (List Skein)
  /-- Input that starts the next tick's first round, and the dispatcher's reel pointer (R45). -/
  inPtr : Nat
  reelPtr : Nat
  /-- Next ordering sequence number (R44). -/
  seq : Nat
  /-- Unreleased skeins of the ordering unit, in sequence order (R48, R49). -/
  ord : List OrdEnt
  posted : List Posted
  capture : List Capture
  /-- FREE was written in this tick (R531). -/
  capFree : Bool
  /-- Cycles skipped in this tick (R35), newest first, and cycles from the last skip to the start of this tick. -/
  skips : List Nat
  sinceSkip : Nat
  /-- Issue cycles in progress, by 8 × reel + spindle (R31, R89). -/
  cycles : SMap Cycle
  /-- Frame buffers held, by buffer number (R124). -/
  held : List Nat
  deriving DecidableEq, Repr

/-- A lock (R135 to R144): its holder, its poisoned flag and its queue of waiting threads, oldest first. -/
structure Lock where
  holder : Option Nat
  poison : Bool
  queue : List Nat
  deriving DecidableEq, Repr

/-- A thread's queued lock request (R139, R140): the lock and the boundary at which it expires. -/
structure LockReq where
  lock : Nat
  deadline : Nat
  deriving DecidableEq, Repr

/-- State of a channel slot (R146 to R149). -/
inductive SlotSt where
  | reserved | published | void
  deriving DecidableEq, Repr

/-- A channel slot: its state, word count, data words, the thread that opened it, and the boundaries counted toward its
publish timeout (R149, R150). -/
structure Slot where
  st : SlotSt
  count : Nat
  words : SMap DWord
  writer : Nat
  ticks : Nat
  deriving DecidableEq, Repr

/-- A channel (R145 to R152): next sequence number, oldest unread sequence number, slots by sequence number, and the
readable slots at the last boundary. -/
structure Chan where
  next : Nat
  oldest : Nat
  slots : SMap (Option Slot)
  readable : Nat
  deriving DecidableEq, Repr

/-- A punt queue, or the waft queue (R156, R267): places taken whose frame is not stored yet, and stored entries (event
words of Table 4-12), oldest first. -/
structure PuntQ where
  places : Nat
  entries : List DWord
  deriving DecidableEq, Repr

/-- A pending line: the event word, and for a punt or waft entry the queue it came from (R155). -/
structure Pend where
  word : DWord
  source : Option Nat
  deriving DecidableEq, Repr

/-- Lock unit, channels, event lines, punt queues, wait groups (chapter 5). -/
structure Dr where
  locks : SMap Lock
  reqs : SMap (Option LockReq)
  /-- Threads whose locks are released at the next boundary, and whether with the poisoned flag (R119, R143). -/
  endings : List (Nat × Bool)
  chans : SMap Chan
  /-- Channels that are disabled at the next boundary (R152). -/
  chanOff : List Nat
  /-- Pending lines, by 64 × thread + line (R153). -/
  pend : SMap (Option Pend)
  /-- Bindings that take effect, and clear the pending bit, at the next boundary (R153). -/
  rebind : List Nat
  /-- Undelivered doldrums raises, by group (R160). -/
  raises : SMap (Option DWord)
  /-- Consecutive boundaries in the doldrums, and members at the last boundary, by group (R159). -/
  dold : SMap Nat
  members : SMap Nat
  punt : SMap PuntQ
  waft : PuntQ
  /-- Position of the service circle that starts the next boundary (R134). -/
  svc : Nat
  deriving DecidableEq, Repr

end Sys2Proof.Machine
end

