-- ==== Sys2Proof/Machine/TypesB.lean ====
section
/-! DEFINITION. State of the frames in the packet buffer, of the parse graph and the editor (chapters 1 and 6), of the switch core
(chapter 8) and of admission, meters and scheduling (chapter 9). Plain data. -/

namespace Sys2Proof.Machine

/-- A time of day: seconds, nanoseconds and a fraction in units of 2^-32 ns (R446). -/
structure Time where
  sec : Nat
  ns : Nat
  frac : Nat
  deriving DecidableEq, Repr

/-- Where a frame stands before the parse graph: it is still in port receive; it waits for, or is in, an ingress cipher cluster; it
is with the parse graph or past it. -/
inductive RxState where
  | receiving | cipher | parsing
  deriving DecidableEq, Repr

/-- A frame in the packet buffer. -/
structure Frame where
  /-- Fabric input. -/
  input : Nat
  /-- Its bytes with the FCS, after any ingress decryption. Bytes of cells that have not arrived are listed too. -/
  bytes : List Byte
  /-- Cells that are complete in the packet buffer (R20), and whether its last byte has arrived. -/
  got : Nat
  whole : Bool
  /-- Physical cells reserved by a host input ahead of arrival (R223). -/
  resv : Nat
  /-- It ended bad (R23, R224). -/
  bad : Bool
  /-- It exceeded RXMAX and was truncated (R223). -/
  trunc : Bool
  st : RxState
  /-- Bits [13:0] of the flow hash (R47, R182). -/
  flow : Nat
  /-- ESP_DEC with the trailer's Next Header (R171), and MACSEC_DEC (R172). -/
  esp : Option Nat
  macsec : Bool
  /-- Class that a send entry or FRM SEND gave it (R123, R320). -/
  cls : Option Nat
  /-- Ordering bucket that FRM SEND or the block service gave it (R123, R365). -/
  bkt : Option Nat
  /-- SK_META (R176). -/
  md : DWord
  /-- Receive timestamp (R449). -/
  ts : Option Time
  /-- Recirculation passes made, and whether it re-entered with its length changed (R21). -/
  passes : Nat
  lenChange : Bool
  /-- SK_LEN where LEN_EST is 1 (R175). -/
  est : Option Nat
  /-- Source host port and vport of a host frame (R244). -/
  src : Option (Nat × Nat)
  /-- Its verdict has been released. -/
  released : Bool
  deriving DecidableEq, Repr

/-- A frame in the parse graph: the skein it will give and the boundaries until it is delivered (R162, R171). -/
structure Parsing where
  skein : Skein
  left : Nat
  deriving DecidableEq, Repr

/-- What a copy is for (R227, R244, R267, R268, R127). A multicast copy keeps what its group entry said at the release boundary (R240):
SRC_PRUNE, RW_EN and its host port's vport list. A punt copy names its queue, reason, buffer and the bytes to store. -/
inductive CKind where
  | uni
  | mc (group low : Nat) (prune rw : Bool) (vlist : Nat)
  | host (vport queue : Nat)
  | punt (q reason buf limit : Nat)
  | recirc (word : Nat)
  | mirror (session : Nat)
  | waft
  | transit
  deriving DecidableEq, Repr

/-- A PTP_TS entry that waits for the timestamp point: action, position of the PTP header, of the UDP header, IPv6 UDP (R452). -/
structure Ptp where
  action : Nat
  pos : Nat
  udp : Option Nat
  v6 : Bool
  deriving DecidableEq, Repr

/-- A copy of a frame from its admission until it has left: it is in its VOQ while cells have still to cross (R226), then at the
egress, with the editor and with port transmit. -/
structure Copy where
  frame : Nat
  input : Nat
  dest : Nat
  cls : Nat
  /-- The frame's full cell count, which admission uses (R222, R227, R267). -/
  n : Nat
  /-- Cells that the grant of its first cell reserves at the egress (R231). -/
  res : Nat
  crossed : Nat
  /-- Admission tick (R227). -/
  adm : Nat
  /-- Forwarded cut-through (R21). -/
  ct : Bool
  /-- Admitted with a CE mark (R250), and L3_OFF of its frame, 0 if none. -/
  ce : Bool
  l3 : Nat
  kind : CKind
  edits : List Edit
  hv : SMap Word
  catt : Option Nat
  /-- Ordering bucket of the pin that counts it (R238). -/
  pin : Option Nat
  /-- Order of first cells at the egress (R239). -/
  first : Option Nat
  /-- What the editor passed to port transmit (R178). -/
  out : Option (List Byte)
  /-- Length of what the editor made, before the truncation of a mirror session. -/
  full : Nat
  /-- Boundary at which the editor's result reaches port transmit. -/
  outAt : Nat
  ptp : Option Ptp
  /-- It waits for, or went through, egress protection (R355). -/
  prot : Bool
  /-- MACsec association and explicit SCI that its sub-port had when the egress cluster took it (R356). -/
  tx : Option (Nat × Bool)
  started : Bool
  /-- Bytes that port transmit has sent of it (R23, R237). -/
  sent : Nat
  /-- Ended with the inverted FCS (R23). -/
  inverted : Bool
  /-- The frame made of it at a recirculation port. -/
  refr : Option Nat
  /-- First boundary at which it was held at the head of its VOQ (R324, R389). -/
  heldAt : Option Nat
  /-- A completion place taken for it (R323): the completion queue. -/
  place : Option Nat
  /-- Vports and receive queues it has still to be delivered to at a host port (R321, R244); none before the editor has read them. -/
  fan : Option (List (Nat × Nat))
  /-- Receive queues and entries it is being written to. -/
  into : List (Nat × Nat)
  deriving DecidableEq, Repr

/-- An LFSR of the crossbar or of WRED (R235, R249): its value, draws since the last seed, whether it takes a new seed at its next draw,
and whether the seed of device reset has still to be read down. -/
structure Lfsr where
  s : DWord
  n : Nat
  due : Bool
  first : Bool
  deriving DecidableEq, Repr

/-- A pin of an ordering bucket (R238): member index, copies in flight, tick of the last use. -/
structure Pin where
  idx : Nat
  cnt : Nat
  last : Option Nat
  deriving DecidableEq, Repr

/-- State of a port's destinations (R246): UP, HOLD since a boundary (with FLAP_HOLD taken as 0 where the port was taken down), DOWN. -/
inductive DState where
  | up
  | hold (since : Nat) (admin : Bool)
  | down
  deriving DecidableEq, Repr

/-- A meter (R252): its configuration words w0 and w1, and its buckets in 2^-16 byte. -/
structure Meter where
  w0 : DWord
  w1 : DWord
  c : Nat
  e : Nat
  deriving DecidableEq, Repr

/-- A node of a fetch tree (R259, R261): its virtual time, and as a child its start tag, whether it was eligible, and its shaper's
bucket in 2^-16 byte. -/
structure FNode where
  v : Nat
  s : Nat
  elig : Bool
  bucket : Int
  deriving DecidableEq, Repr

/-- A frame that is due for wafting (R266): its input and number, the cells that its copy reserves (R231), its L3_OFF. -/
structure Waft where
  input : Nat
  frame : Nat
  res : Nat
  l3 : Nat
  deriving DecidableEq, Repr

/-- Parse graph, packet buffer, switch core, admission and meters. -/
structure Sw where
  frames : SMap (Option Frame)
  nextFrame : Nat
  /-- Frames presented in this tick, and in the parse graph (R162). -/
  presented : List Nat
  parsing : List Parsing
  copies : SMap (Option Copy)
  nextCopy : Nat
  nextFirst : Nat
  /-- Copies that the editor may take at this boundary (R10, R178). -/
  edReady : List Nat
  /-- A COMMIT of the parse and edit banks waits for the boundary (R177), and the tick of the last swap. -/
  peCommit : Bool
  peSwap : Nat
  /-- Blocks whose COMMIT waits for the boundary (R527). -/
  commits : List Blk
  /-- Mode in force of each network port (R18), and the network ports that are up. -/
  mode : SMap Nat
  npUp : List Nat
  /-- Network ports in boot-service mode (R495, R503). -/
  boot : List Nat
  /-- Ports whose link is lost, by the number of the port's first destination (R246). -/
  lost : List Nat
  /-- What the link partner of a port advertised when its link last came up (R518), by the number of the port's first destination. -/
  partner : SMap (Option (List Phy))
  /-- NP_PMD_CFG in force of each network port (R519). -/
  pmd : SMap Word
  /-- Port link states, by the number of the port's first destination. -/
  dst : SMap DState
  /-- Average depth of a VOQ with 8 fraction bits, by 256 × input + v (R248). -/
  avg : SMap Nat
  /-- Arbiters: 0-31 outputs, 32-61 inputs, 64-93 WRED. -/
  lfsr : SMap Lfsr
  /-- Pins, by 4096 × input + bucket. -/
  pins : SMap (Option Pin)
  /-- Multicast group words, by 8 × group + word. -/
  mc : SMap Word
  /-- Waft gap counters (R266), and frames whose verdict brought one to 0. -/
  gap : SMap Nat
  waftDue : List Waft
  meters : SMap Meter
  /-- Staged meter writes, and those that a commit takes (R255). -/
  mtrStage : List (Nat × DWord × DWord)
  /-- Fetch tree nodes: 65536 × h + 512 for roots, + d for domains, + 256 + v for vports; queues at 2^20 + q. -/
  fetch : SMap FNode
  /-- Sampler: next position, boundary of the next visit. -/
  smpPos : Nat
  smpNext : Nat
  deriving DecidableEq, Repr

/-- Reset state of a meter: disabled. -/
def Meter.reset : Meter := ⟨0, 0, 0, 0⟩

/-- Reset state of a fetch node. -/
def FNode.reset : FNode := ⟨0, 0, false, 0⟩

/-- An arbiter after device reset: its seed is read down at its first draw. -/
def Lfsr.reset : Lfsr := ⟨0, 0, false, true⟩

end Sys2Proof.Machine
end

