-- ==== Sys2Proof/Machine/Parse.lean ====
section
/-! DEFINITION. The parse graph (R162 to R176): nodes, the walk, the flags, the program selector and class. Pure functions of a
bank's words, the input's configuration and the frame. -/

namespace Sys2Proof.Machine

/-- Byte `off` of an entry that register words hold, little-endian (R165, R181). -/
def entByte (w : Nat → Word) (off : Nat) : Nat := fld (w (off / 4)) (8 * (off % 4)) 8

/-- 16 bits of an entry. -/
def entHalf (w : Nat → Word) (off : Nat) : Nat := entByte w off + 256 * entByte w (off + 1)

/-- A valid extraction (Table 6-2). -/
structure Extract where
  src : Nat
  len : Nat
  dst : Nat
  deriving DecidableEq, Repr

/-- A parse node (Table 6-2); transitions are the valid ones, in index order. -/
structure Node where
  kind : Nat
  setSel : Bool
  setClass : Bool
  mapClass : Bool
  sel : Nat
  cls : Nat
  cmap : Nat
  uflags : Nat
  selOff : Nat
  clsOff : Nat
  selMask : Nat
  lenBase : Nat
  lenOff : Nat
  lenMode : Nat
  dflt : Nat
  clsMask : Nat
  trans : List (Nat × Nat)
  ext : List Extract
  deriving DecidableEq, Repr

/-- The node that 16 words spell (Table 6-2). -/
def nodeOf (w : Nat → Word) : Node :=
  { kind := entByte w 0
    setSel := bit (w 0) 8
    setClass := bit (w 0) 9
    mapClass := bit (w 0) 10
    sel := fld (w 0) 16 6
    cls := fld (w 0) 24 3
    cmap := fld (w 0) 27 2
    uflags := entHalf w 4
    selOff := entByte w 6 % 64
    clsOff := entByte w 7 % 64
    selMask := entHalf w 8
    lenBase := entByte w 0x0A
    lenOff := entByte w 0x0B % 64
    lenMode := entByte w 0x0B / 64
    dflt := entHalf w 0x0C % 1024
    clsMask := entHalf w 0x0E
    trans := (List.range 8).filterMap fun i =>
      let t := w (4 + i)
      if bit t 31 then some (fld t 0 16, fld t 16 10) else none
    ext := (List.range 4).filterMap fun i =>
      let x := w (12 + i)
      if bit x 31 then some ⟨fld x 0 6, fld x 8 5 + 1, fld x 16 7⟩ else none }

/-- What a frame's walk needs: its bytes with the FCS, whether a cluster decrypted it. -/
structure PFrame where
  bytes : List Byte
  esp : Option Nat
  macsec : Bool
  deriving DecidableEq, Repr

/-- Byte `a` as the parse graph reads it: 0 beyond the frame's end (R164); a byte of the frame beyond the parse window, which the
parse graph does not read (R162), is a free value. -/
def winByte (f : PFrame) (a : Nat) : Byte :=
  if f.bytes.length ≤ a then 0 else if a < 256 then f.bytes.getD a 0 else Config.pastWindow a

/-- 16 bits in network byte order. -/
def winHalf (f : PFrame) (a : Nat) : Nat := 256 * (winByte f a).toNat + (winByte f (a + 1)).toNat

/-- How a walk ended (Table 6-1). -/
inductive WEnd where
  | accept | exception | trunc | nodeLimit | short
  deriving DecidableEq, Repr

/-- A walk in progress. -/
structure Walk where
  cursor : Nat
  hv : SMap Byte
  pf : DWord
  l3v6 : Bool
  sel : Option Nat
  cls : Option Nat
  /-- A VXLAN or GENEVE node was walked, and an ETH node after it. -/
  tun : Bool
  inner : Bool
  deriving DecidableEq, Repr

/-- Header length of a node (R167, Table 6-4). -/
def hdrLen (f : PFrame) (n : Node) (c : Nat) : Nat :=
  if n.kind = 10 then 8 + 4 * ((winByte f c).toNat % 64)
  else if n.kind = 12 then (if bit (winByte f c) 5 then 16 else 8)
  else if n.kind = 11 then 8
  else
    let x := (winByte f (c + n.lenOff)).toNat
    n.lenBase + match n.lenMode with
      | 0 => 0
      | 1 => 4 * (x % 16)
      | 2 => 4 * (x / 16)
      | _ => 8 * x + 8

/-- One extraction (R168): bytes from the cursor on go to the header vector; bytes past its end do not exist. -/
def extractOne (f : PFrame) (c : Nat) (hv : SMap Byte) (x : Extract) : SMap Byte :=
  (List.range x.len).foldl (fun hv i => if x.dst + i < 128 then mput hv (x.dst + i) (winByte f (c + x.src + i)) 0 else hv) hv

/-- Trailing zero bits of a 16-bit mask. -/
def ctz16 (m : Nat) : Nat := ((List.range 16).find? fun i => m.testBit i).getD 0

/-- Index into a class map (R169). -/
def classIdx (f : PFrame) (n : Node) (c : Nat) : Nat :=
  (Nat.land (winHalf f (c + n.clsOff)) n.clsMask >>> ctz16 n.clsMask) % 64

/-- The IPv4 header checksum of `4 × IHL` bytes at a position is right; it is checked only when the whole header lies in the parse
window and in the frame. -/
def ipv4SumBad (f : PFrame) (c ihl : Nat) : Bool :=
  decide (c + 4 * ihl ≤ 256) && decide (c + 4 * ihl ≤ f.bytes.length)
    && decide (ocSum (sliceD 0 f.bytes c (4 * ihl)) ≠ 0xFFFF)

/-- Built-in behaviour of a node's kind (Table 6-4): the walk after it, and an end it forces: `exception` at once, `accept` after the
node. -/
def kindAct (f : PFrame) (n : Node) (w : Walk) : Walk × Option WEnd :=
  let c := w.cursor
  let set (w : Walk) (b : Nat) : Walk := { w with pf := setBit w.pf b true }
  let l3 (w : Walk) (flag : Nat) (v6 : Bool) : Walk :=
    if bit w.pf flag then w else { set w flag with pf := setFld (setBit w.pf flag true) 40 8 c, l3v6 := v6 }
  let l4 (w : Walk) (flag : Nat) : Walk :=
    if bit w.pf flag then w else { w with pf := setFld (setBit w.pf flag true) 48 8 c }
  match n.kind with
  | 1 => if w.tun && !w.inner then ({ w with pf := setFld w.pf 56 8 c, inner := true }, none) else (w, none)
  | 2 => (if bit w.pf 0 then set w 1 else set w 0, none)
  | 3 =>
    let b0 := (winByte f c).toNat
    let ihl := b0 % 16
    let frag := winHalf f (c + 6)
    let w := l3 w 2 false
    let bad := decide (b0 / 16 ≠ 4) || decide (ihl < 5)
    let w := if bad then set w 21 else w
    let w := if 5 < ihl then set w 4 else w
    let w := if ipv4SumBad f c ihl then set w 15 else w
    let w := if frag % 0x4000 ≠ 0 then set w 5 else w
    let w := if frag % 0x2000 ≠ 0 then set w 6 else w
    (w, if bad then some .exception else if frag % 0x2000 ≠ 0 then some .accept else none)
  | 4 =>
    let w := l3 w 3 true
    if (winByte f c).toNat / 16 ≠ 6 then (set w 21, some .exception) else (w, none)
  | 5 => (set w 4, none)
  | 6 =>
    let w := set (set w 4) 5
    if winHalf f (c + 2) / 8 ≠ 0 then (set w 6, some .accept) else (w, none)
  | 7 => (l4 w 7, none)
  | 8 => (l4 w 8, none)
  | 9 => ({ set w 9 with tun := true }, none)
  | 10 => ({ set w 10 with tun := true }, none)
  | 11 => (set w 11, none)
  | 12 => (set w 14, none)
  | _ => (w, none)

/-- The next node (R166, R171): by the select word, the trailer's Next Header in an ESP node of a decrypted frame. -/
def nextNode (f : PFrame) (n : Node) (c : Nat) : Nat :=
  if n.selMask = 0 then n.dflt
  else
    let word := match n.kind, f.esp with
      | 11, some nh => nh
      | _, _ => Nat.land (winHalf f (c + n.selOff)) n.selMask
    match n.trans.find? fun t => t.1 = word with
    | some t => t.2
    | none => n.dflt

/-- One node of a walk (R163): the walk after it, and either its end or the next node. Where several ends of Table 6-1 apply, a header that
the window holds but the frame does not is SHORT, one that the window does not hold is TRUNC unless the frame ends in the window, then an
extraction past the frame's end is SHORT, and the end that the kind forces comes last (DEDUCED, log entry 36). -/
def walkNode (cmap : Nat → Nat → Nat) (f : PFrame) (n : Node) (w : Walk) : Walk × Sum WEnd Nat :=
  let c := w.cursor
  let hl := hdrLen f n c
  let w := { w with hv := n.ext.foldl (extractOne f c) w.hv }
  let w := { w with pf := w.pf ||| (BitVec.ofNat 64 n.uflags <<< 24) }
  let w := if n.setSel then { w with sel := some n.sel } else w
  let w := if n.mapClass then { w with cls := some (cmap n.cmap (classIdx f n c)) }
    else if n.setClass then { w with cls := some n.cls } else w
  let r := kindAct f n w
  let w := r.1
  let extEnds := n.ext.any fun x => decide (f.bytes.length < c + x.src + x.len)
  if f.bytes.length < c + hl ∧ f.bytes.length ≤ 256 then (w, .inl .short)
  else if 256 < c + hl then (w, .inl .trunc)
  else if extEnds then (w, .inl .short)
  else if r.2 = some .exception then (w, .inl .exception)
  else if r.2 = some .accept then (w, .inl .accept)
  else
    let nx := nextNode f n c
    let w := { w with cursor := c + hl }
    if nx = 0x3FE then (w, .inl .accept)
    else if 512 ≤ nx then (w, .inl .exception)
    else (w, .inr nx)

/-- The walk from a node on, with the nodes that may still be entered (R164). -/
def walkFrom (node : Nat → Node) (cmap : Nat → Nat → Nat) (f : PFrame) : Nat → Nat → Walk → Walk × WEnd
  | 0, _, w => (w, .nodeLimit)
  | left + 1, i, w =>
    match walkNode cmap f (node i) w with
    | (w, .inl e) => (w, e)
    | (w, .inr i) => walkFrom node cmap f left i w

/-- What the parse graph makes of a frame: flags, header vector, selector, class, the end of the walk, and the header at L3_OFF. -/
structure Parsed where
  pf : DWord
  hv : SMap Byte
  sel : Nat
  cls : Nat
  fin : WEnd
  l3v6 : Bool
  deriving DecidableEq, Repr

/-- PARSE_WALK (R163 to R171) with the input's SW_PG_INPUT word. -/
def parseFrame (node : Nat → Node) (cmap : Nat → Nat → Nat) (inp : Word) (f : PFrame) : Parsed :=
  let pf : DWord := setBit (setBit 0 12 f.esp.isSome) 13 f.macsec
  let start := fld inp 0 10
  let w0 : Walk := ⟨0, [], pf, false, none, none, false, false⟩
  let r := if start = 0x3FE then (w0, WEnd.accept) else if 512 ≤ start then (w0, WEnd.exception) else walkFrom node cmap f 16 start w0
  let w := r.1
  let pf := match r.2 with
    | .accept => w.pf
    | .exception => setBit w.pf 19 true
    | .trunc => setBit w.pf 17 true
    | .nodeLimit => setBit w.pf 18 true
    | .short => setBit w.pf 16 true
  { pf := pf
    hv := w.hv
    sel := if r.2 = .exception then fld inp 24 6 else w.sel.getD (fld inp 10 6)
    cls := w.cls.getD (fld inp 16 3)
    fin := r.2
    l3v6 := w.l3v6 }

/-- SK_LEN of a frame that is not whole (R175): from the header at L3_OFF. -/
def estLen (f : PFrame) (p : Parsed) : Nat :=
  let off := fld p.pf 40 8
  if !(bit p.pf 2 || bit p.pf 3) then 0
  else if p.l3v6 then off + 40 + winHalf f (off + 4) + 4
  else off + winHalf f (off + 2) + 4

/-- The header vector's words H0-H31: bytes in network byte order within a word (R71). -/
def hvWords (hv : SMap Byte) : SMap Word :=
  (List.range 32).foldl (fun m i =>
    mput m i (BitVec.ofNat 32 (beNat (mrange hv (0 : Byte) (4 * i) 4))) 0) []

/-- The bytes of a header vector. -/
def hvBytes (h : SMap Word) : List Byte := (List.range 32).flatMap fun i => beBytes 4 (mget h i (0 : Word)).toNat

/-- Whether a next-node value is reserved (R165). -/
def nextReserved (n : Nat) : Bool := decide (512 ≤ n) && decide (n ≠ 0x3FE) && decide (n ≠ 0x3FF)

/-- Whether a node passes the checks of R177. -/
def nodeOk (n : Node) : Bool :=
  decide (n.kind < 13) && !nextReserved n.dflt && n.trans.all (fun t => !nextReserved t.2)
    && n.ext.all fun x => decide (x.dst + x.len ≤ 128)

end Sys2Proof.Machine
end

