-- ==== Sys2Proof/Machine/Editor.lean ====
section
/-! DEFINITION. The editor (R178 to R183): the edit list, encapsulation templates, deferred fix-ups, CE marks (R251), multicast
rewrites (R243) and RX_STAMP (R452). Pure functions of the frame, its edit list and the final header vector. -/

namespace Sys2Proof.Machine

/-- A deferred fix-up (R180, Table 6-9): the position of its header, which later insertions and removals in front of it carry; a
header that a removal took is none. A template patch has DST and SRC too: its field lies DST - SRC from its header. -/
inductive Fix where
  | v4len (hdr : Option Nat)
  | v6len (hdr : Option Nat)
  | udplen (hdr : Option Nat)
  | tTotLen (dst src : Nat) (hdr : Option Nat)
  | tCsum (dst src : Nat) (hdr : Option Nat)
  | tPayLen (dst src : Nat) (hdr : Option Nat)
  | tUdpLen (dst src : Nat) (hdr : Option Nat)
  | rxStamp (hdr udp : Option Nat) (v6 : Bool)
  deriving DecidableEq, Repr

/-- The editor's work on one frame: its bytes without FCS, the fix-ups in list order, the tracked header at L3_OFF, the outer IP
headers whose ECN field is ECT (R251), and the counts that R183 limits. -/
structure EdSt where
  bytes : List Byte
  fixes : List Fix
  l3 : Option Nat
  outer : List (Option Nat × Bool)
  encaps : Nat
  inserted : Nat
  ptp : List Ptp
  deriving DecidableEq, Repr

/-- A position after `n` bytes were inserted at `o`. -/
def posIns (o n : Nat) (p : Option Nat) : Option Nat := p.map fun p => if o ≤ p then p + n else p

/-- A position after `n` bytes were removed at `o`: none where it was removed. -/
def posCut (o n : Nat) : Option Nat → Option Nat
  | none => none
  | some p => if p < o then some p else if p < o + n then none else some (p - n)

/-- Apply a change of positions to a fix-up. -/
def Fix.move (f : Option Nat → Option Nat) : Fix → Fix
  | .v4len h => .v4len (f h)
  | .v6len h => .v6len (f h)
  | .udplen h => .udplen (f h)
  | .tTotLen d x h => .tTotLen d x (f h)
  | .tCsum d x h => .tCsum d x (f h)
  | .tPayLen d x h => .tPayLen d x (f h)
  | .tUdpLen d x h => .tUdpLen d x (f h)
  | .rxStamp h u v => .rxStamp (f h) (f u) v

/-- Apply a change of positions to everything the editor tracks. -/
def EdSt.move (f : Option Nat → Option Nat) (e : EdSt) : EdSt :=
  { e with fixes := e.fixes.map (Fix.move f), l3 := f e.l3, outer := e.outer.map fun o => (f o.1, o.2),
           ptp := e.ptp.filterMap fun p => (f (some p.pos)).map fun q => { p with pos := q, udp := f p.udp } }

/-- Insert bytes (R183): at an offset inside the frame, below offset 256, at most 256 bytes in all. -/
def edIns (o : Nat) (new : List Byte) (e : EdSt) : Option EdSt :=
  let n := new.length
  if e.bytes.length < o ∨ 256 < o + n ∨ 256 < e.inserted + n then none
  else
    let e := e.move (posIns o n)
    some { e with bytes := insertAt e.bytes o new, inserted := e.inserted + n }

/-- Remove bytes that the frame holds (R183). -/
def edCut (o n : Nat) (e : EdSt) : Option EdSt :=
  if e.bytes.length < o + n then none
  else
    let e := e.move (posCut o n)
    some { e with bytes := cutAt e.bytes o n }

/-- Whether `n` bytes at `o` lie below offset 256 and inside the frame (R183). -/
def edInside (o n : Nat) (bs : List Byte) : Bool := decide (o + n ≤ 256) && decide (o + n ≤ bs.length)

/-- Overwrite bytes (R183). -/
def edWr (o : Nat) (new : List Byte) (bs : List Byte) : Option (List Byte) :=
  if edInside o new.length bs then some (overwrite bs o new) else none

/-- Bytes of the final header vector from an offset on. -/
def hvSlice (hvb : List Byte) (o n : Nat) : List Byte :=
  (List.range n).map fun i => if o + i < 128 then hvb.getD (o + i) 0 else Config.pastHeader (o + i)

/-- 16 bits at a position, in network byte order. -/
def rd16 (bs : List Byte) (o : Nat) : Nat := 256 * (bs.getD o 0).toNat + (bs.getD (o + 1) 0).toNat

/-- The incremental update of a checksum for one changed 16-bit word (RFC 1624). -/
def csumUpd (hc m m' : Nat) : Nat := 65535 - ocAdd (ocAdd (65535 - hc % 65536) (65535 - m % 65536)) m'

/-- DEC_TTL (Table 6-7). -/
def edTtl (o : Nat) (v6 : Bool) (bs : List Byte) : Option (List Byte) :=
  if v6 then
    if !edInside (o + 7) 1 bs then none
    else
      let t := (bs.getD (o + 7) 0).toNat
      some (if t = 0 then bs else overwrite bs (o + 7) [BitVec.ofNat 8 (t - 1)])
  else if !edInside (o + 8) 4 bs then none
  else
    let t := (bs.getD (o + 8) 0).toNat
    if t = 0 then some bs
    else
      let m := rd16 bs (o + 8)
      let c := csumUpd (rd16 bs (o + 10)) m (m - 256)
      some (overwrite (overwrite bs (o + 8) [BitVec.ofNat 8 (t - 1)]) (o + 10) (beBytes 2 c))

/-- CSUM_ADJ (Table 6-7). -/
def edCsumAdj (o delta : Nat) (udp : Bool) (bs : List Byte) : Option (List Byte) :=
  if !edInside o 2 bs then none
  else
    let c := rd16 bs o
    if udp && c = 0 then some bs
    else
      let r := ocAdd c delta
      some (overwrite bs o (beBytes 2 (if udp && r = 0 then 0xFFFF else r)))

/-- Header checksum over `4 × IHL` bytes of the IPv4 header at a position, its checksum field taken as 0. -/
def ipv4Csum (bs : List Byte) (h : Nat) : Nat :=
  let n := 4 * ((bs.getD h 0).toNat % 16)
  65535 - ocSum (overwrite (sliceD 0 bs h n) 10 [0, 0])

/-- Patch `i` of a template (Table 6-8): DST, SRC, LEN, KIND. -/
def tplPatch (w : Nat → Word) (i : Nat) : Nat × Nat × Nat × Nat :=
  let x := w (33 + i)
  (fld x 0 8, fld x 8 8, fld x 16 8, fld x 24 4)

/-- TLEN of a template. -/
def tplLen (w : Nat → Word) : Nat := fld (w 32) 0 8

/-- Bytes that a patch of a kind writes. -/
def patchSize (kind len : Nat) : Nat := match kind with
  | 0 => 0
  | 1 | 2 => len
  | _ => 2

/-- Whether a template passes the checks of R177. -/
def tplOk (w : Nat → Word) : Bool :=
  let t := tplLen w
  (decide (t = 0) || (decide (14 ≤ t) && decide (t ≤ 128)))
    && (List.range 8).all fun i =>
      let (dst, _, len, kind) := tplPatch w i
      decide (kind < 8) && (decide (kind = 0) || decide (dst + patchSize kind len ≤ t))

/-- Immediate patch of a template on its header bytes (Table 6-9). -/
def patchNow (hvb : List Byte) (flow : Nat) (a : DWord) (data : List Byte) (p : Nat × Nat × Nat × Nat) : List Byte :=
  let (dst, src, len, kind) := p
  match kind with
  | 1 => overwrite data dst (beBytes len (a.toNat >>> (8 * src)))
  | 2 => overwrite data dst (hvSlice hvb src len)
  | 7 => overwrite data dst (beBytes 2 (src % 4 * 2 ^ 14 + flow % 2 ^ 14))
  | _ => data

/-- Deferred patch of a template, at the positions its insertion gave it. -/
def patchLater (p : Nat × Nat × Nat × Nat) : Option Fix :=
  let (dst, src, _, kind) := p
  match kind with
  | 3 => some (.tTotLen dst src (some src))
  | 5 => some (.tPayLen dst src (some src))
  | 6 => some (.tUdpLen dst src (some src))
  | _ => none

/-- The IPV4_CSUM patches of a template, which are evaluated last among its patches (R181). -/
def patchCsum (p : Nat × Nat × Nat × Nat) : Option Fix :=
  let (dst, src, _, kind) := p
  if kind = 4 then some (.tCsum dst src (some src)) else none

/-- The ECN field of an IP header. -/
def ecnOf (bs : List Byte) (h : Nat) (v6 : Bool) : Nat :=
  let b := (bs.getD (h + 1) 0).toNat
  if v6 then b / 16 % 4 else b % 4

/-- ENCAP (R181): prepends the template, applies its immediate patches, defers the rest; an outer IP header whose ECN field is then
ECT(0) or ECT(1) is kept for R251. -/
def edEncap (tpl : Nat → Nat → Word) (hvb : List Byte) (flow : Nat) (a : DWord) (t : Nat) (e : EdSt) : Option EdSt :=
  let w := tpl t
  let n := tplLen w
  if n = 0 ∨ 2 ≤ e.encaps then none
  else
    let ps := (List.range 8).map (tplPatch w)
    let data := ps.foldl (patchNow hvb flow a) ((List.range n).map fun i => BitVec.ofNat 8 (entByte w i))
    match edIns 0 data e with
    | none => none
    | some e =>
      let outs := ps.filterMap fun p =>
        let (_, src, _, kind) := p
        if kind = 4 ∨ kind = 5 then
          let v6 := decide (kind = 5)
          let x := ecnOf data src v6
          if x = 1 ∨ x = 2 then some (some src, v6) else none
        else none
      some { e with fixes := e.fixes ++ ps.filterMap patchLater ++ ps.filterMap patchCsum,
                    outer := e.outer ++ outs, encaps := e.encaps + 1 }

/-- PTP_TS (R452): RX_STAMP waits for the fix-ups, the other actions for the timestamp point. A header that ends beyond byte 255, or
a second entry, drops the frame. `net` says that the destination is D0-D15 or D24, `rc` that it is D25-D28. -/
def edPtp (net rc : Bool) (a : DWord) (imm : BitVec 14) (seen : Bool) (e : EdSt) : Option EdSt :=
  let h := fld a 0 8
  let u := fld a 8 8
  let act := fld imm 0 2
  let udp := if u = 0 then none else some u
  if seen ∨ 256 < h + 34 then none
  else if act = 3 then some (if net || rc then { e with fixes := e.fixes ++ [.rxStamp (some h) udp (bit imm 2)] } else e)
  else some (if net then { e with ptp := e.ptp ++ [⟨act, h, udp, bit imm 2⟩] } else e)

/-- What surrounds one edit list. -/
structure EdEnv where
  tpl : Nat → Nat → Word
  hvb : List Byte
  flow : Nat
  net : Bool
  rc : Bool
  ts : Option Time

/-- One entry of an edit list (Table 6-7). -/
def edOne (v : EdEnv) (seenPtp : Bool) (x : Edit) (e : EdSt) : Option EdSt :=
  let io := fld x.imm 0 8
  let onBytes (r : Option (List Byte)) : Option EdSt := r.map fun bs => { e with bytes := bs }
  match x.eop.toNat with
  | 0x01 => edCut 0 x.imm.toNat e
  | 0x02 => edCut io (fld x.a 0 8) e
  | 0x03 => edIns io (beBytes (fld x.imm 8 3 + 1) x.a.toNat) e
  | 0x04 => onBytes (edWr io (beBytes (fld x.imm 8 3 + 1) x.a.toNat) e.bytes)
  | 0x05 => edIns (fld x.a 0 8) (hvSlice v.hvb (fld x.imm 0 7) (fld x.a 8 7 + 1)) e
  | 0x06 => onBytes (edWr (fld x.a 0 8) (hvSlice v.hvb (fld x.imm 0 7) (fld x.a 8 7 + 1)) e.bytes)
  | 0x07 => edEncap v.tpl v.hvb v.flow x.a (fld x.imm 0 10) e
  | 0x08 => onBytes (edTtl io (bit x.imm 8) e.bytes)
  | 0x09 => onBytes (edCsumAdj io (fld x.a 0 16) (bit x.imm 8) e.bytes)
  | 0x0A => match fld x.imm 8 2 with
    | 0 => some { e with fixes := e.fixes ++ [.v4len (some io)] }
    | 1 => some { e with fixes := e.fixes ++ [.v6len (some io)] }
    | 2 => some { e with fixes := e.fixes ++ [.udplen (some io)] }
    | _ => some e
  | 0x0B => edPtp v.net v.rc x.a x.imm seenPtp e
  | _ => some e

/-- An edit list in append order. -/
def edList (v : EdEnv) : Bool → List Edit → EdSt → Option EdSt
  | _, [], e => some e
  | seen, x :: xs, e =>
    match edOne v seen x e with
    | none => none
    | some e => edList v (seen || decide (x.eop.toNat = 0x0B)) xs e

/-- Ten bytes of a PTP timestamp: seconds and nanoseconds (R452). -/
def ptpStamp (t : Time) : List Byte := beBytes 6 t.sec ++ beBytes 4 t.ns

/-- Repair the UDP checksum after `n` changed bytes at `o` (R452): an IPv4 one becomes 0, an IPv6 one is corrected incrementally. -/
def udpRepair (udp : Option Nat) (v6 : Bool) (old new : List Byte) (o n : Nat) : List Byte :=
  match udp with
  | none => new
  | some u =>
    if !v6 then overwrite new (u + 6) [0, 0]
    else
      let lo := o - (o - u) % 2
      let k := n + (n + (o - lo)) % 2 + (o - lo)
      let c := (List.range (k / 2)).foldl (fun c i => csumUpd c (rd16 old (lo + 2 * i)) (rd16 new (lo + 2 * i))) (rd16 new (u + 6))
      overwrite new (u + 6) (beBytes 2 (if c = 0 then 0xFFFF else c))

/-- Write a 16-bit field of a deferred fix-up. -/
def fixWr (bs : List Byte) (o v : Nat) : Option (List Byte) := edWr o (beBytes 2 v) bs

/-- Write the 16-bit field of a template patch; a field whose place in front of the header was removed is not there any more. -/
def fixPatch (bs : List Byte) (h d x v : Nat) : Option (List Byte) := if h + d < x then some bs else fixWr bs (h + d - x) v

/-- The payload length of the IPv6 header at a position; of a header that the frame's end cuts the spec states none: a free value. -/
def payLen (bs : List Byte) (h : Nat) : Nat :=
  if h + 40 ≤ bs.length then bs.length - (h + 40) else (Config.cutPayLen (h + 40 - bs.length)).toNat

/-- Set the total length and the header checksum of the IPv4 header at a position. -/
def fixV4 (bs : List Byte) (h : Nat) : Option (List Byte) :=
  match fixWr bs (h + 2) (bs.length - h) with
  | none => none
  | some bs =>
    if edInside h (4 * ((bs.getD h 0).toNat % 16)) bs then fixWr bs (h + 10) (ipv4Csum bs h) else none

/-- One deferred fix-up on the final frame (R180). A fix-up whose header was removed has nothing to refer to and does nothing. -/
def fixOne (ts : Option Time) (f : Fix) (bs : List Byte) : Option (List Byte) :=
  match f with
  | .v4len (some h) => fixV4 bs h
  | .v6len (some h) => fixWr bs (h + 4) (payLen bs h)
  | .udplen (some h) => fixWr bs (h + 4) (bs.length - h)
  | .tTotLen d x (some h) => fixPatch bs h d x (bs.length - h)
  | .tPayLen d x (some h) => fixPatch bs h d x (payLen bs h)
  | .tUdpLen d x (some h) => fixPatch bs h d x (bs.length - h)
  | .tCsum d x (some h) =>
    if edInside h (4 * ((bs.getD h 0).toNat % 16)) bs then fixPatch bs h d x (ipv4Csum bs h) else none
  | .rxStamp (some h) u v6 =>
    match ts with
    | none => some bs
    | some t => (edWr (h + 34) (ptpStamp t) bs).map fun new => udpRepair u v6 bs new (h + 34) 10
  | _ => some bs

/-- The deferred fix-ups in list order. -/
def fixAll (ts : Option Time) : List Fix → List Byte → Option (List Byte)
  | [], bs => some bs
  | f :: fs, bs => match fixOne ts f bs with
    | none => none
    | some bs => fixAll ts fs bs

/-- Set ECN to CE in an IP header (R251); an IPv4 checksum is adjusted incrementally. -/
def setCe (bs : List Byte) (h : Nat) (v6 fixSum : Bool) : List Byte :=
  let b := (bs.getD (h + 1) 0).toNat
  if v6 then overwrite bs (h + 1) [BitVec.ofNat 8 (b / 64 * 64 + 48 + b % 16)]
  else
    let m := rd16 bs h
    let b' := b / 4 * 4 + 3
    let bs' := overwrite bs (h + 1) [BitVec.ofNat 8 b']
    if fixSum then overwrite bs' (h + 10) (beBytes 2 (csumUpd (rd16 bs (h + 10)) m (m - b + b'))) else bs'

/-- CE marks (R251), after the list and before the fix-ups. -/
def ceMark (l3v6 : Bool) (e : EdSt) : EdSt :=
  let bs := match e.l3 with
    | some h => setCe e.bytes h l3v6 true
    | none => e.bytes
  { e with bytes := e.outer.foldl (fun bs o => match o.1 with | some h => setCe bs h o.2 false | none => bs) bs }

/-- A multicast rewrite block (R243) on the frame: none where it lies outside. -/
def mcRewrite (w : DWord) (e : EdSt) : Option EdSt :=
  if bit w 0 then (edWr (fld w 8 8) (beBytes (fld w 1 3 % 4 + 1) (fld w 32 32)) e.bytes).map fun bs => { e with bytes := bs }
  else some e

/-- What the editor makes of a copy (R178, R243, R251, R269): the frame's bytes without FCS, a PTP entry that waits, and whether an
RX_STAMP found no receive timestamp; none where the copy is dropped. -/
structure EdJob where
  env : EdEnv
  bytes : List Byte
  edits : List Edit
  l3 : Option Nat
  l3v6 : Bool
  ce : Bool
  rewrite : Option DWord
  mirTpl : Option Nat
  mirTrunc : Nat
  pad : Bool

/-- The result of the editor. -/
structure EdOut where
  bytes : List Byte
  /-- Its length before step 4 of R269. -/
  full : Nat
  ptp : Option Ptp
  noRxTs : Bool
  deriving DecidableEq, Repr

/-- Whether a fix-up is an RX_STAMP whose header is still there. -/
def Fix.isStamp : Fix → Bool
  | .rxStamp (some _) _ _ => true
  | _ => false

/-- EDITOR_TAKE's rewriting of one copy. -/
def editCopy (j : EdJob) : Option EdOut :=
  let e0 : EdSt := ⟨j.bytes, [], j.l3, [], 0, 0, []⟩
  match edList j.env false j.edits e0 with
  | none => none
  | some e =>
    match (match j.mirTpl with
      | some t => edEncap j.env.tpl j.env.hvb j.env.flow 0 t { e with encaps := 0, inserted := 0 }
      | none => some e) with
    | none => none
    | some e =>
      match (match j.rewrite with | some w => mcRewrite w e | none => some e) with
      | none => none
      | some e =>
        let e := if j.ce then ceMark j.l3v6 e else e
        match fixAll j.env.ts e.fixes e.bytes with
        | none => none
        | some bs =>
          let cut := if j.mirTrunc = 0 then bs else bs.take j.mirTrunc
          let cut := if j.pad then cut ++ List.replicate (60 - cut.length) 0 else cut
          some ⟨cut, bs.length, e.ptp.head?, e.fixes.any Fix.isStamp && j.env.ts.isNone⟩

end Sys2Proof.Machine
end

