-- ==== Sys2Proof/Machine/TypesC.lean ====
section
/-! DEFINITION. State of the host links (chapter 10), of the vports, queues and bobbins (chapter 11). Plain data. -/

namespace Sys2Proof.Machine

/-- What an outstanding request to host memory is for (R294): entries and fragment tables of send (`rx` false) and receive queues,
payload, completion entries, index blocks, bobbins, the block service; `discard` where its result is no longer wanted. -/
inductive Who where
  | entry (rx : Bool) (q idx unit : Nat)
  | table (rx : Bool) (q idx off : Nat)
  | payload (q idx off : Nat)
  | rxWrite (q idx : Nat)
  | cqe (c idx : Nat)
  | idxWr (kind q idx : Nat)
  | idxRd (kind q : Nat)
  | bobbin (b off : Nat)
  | nvme (cmd off : Nat)
  | discard
  deriving DecidableEq, Repr

/-- A request to host memory (R289): waiting for a tag, or outstanding under one. -/
structure Req where
  vport : Nat
  write : Bool
  iova : Nat
  len : Nat
  data : List Byte
  who : Who
  /-- Reissues left (R319, R331). -/
  tries : Nat
  /-- Tag number and GEN, and the tick of its first sending; none while it waits. -/
  tag : Option (Nat × Nat × Nat)
  /-- The pool bobbin that serves it while it is outstanding (R330). -/
  bob : Option Nat
  /-- Data delivered so far (R290). -/
  got : List Byte
  deriving DecidableEq, Repr

/-- How a request ended (R294). -/
inductive ReqEnd where
  | ok (data : List Byte)
  | status (s : Nat)
  | timeout
  | abandoned
  deriving DecidableEq, Repr

/-- A record that the device sends (Table 10-3, R458). -/
inductive ORec where
  | mrd (tag vport iova len : Nat)
  | mwr (tag vport iova : Nat) (data : List Byte)
  | mbc (tag vport status : Nat) (data : List Byte)
  | sig (vport vec : Nat)
  | pong (cookie : DWord)
  | gframe (data : List Byte)
  deriving DecidableEq, Repr

/-- A sent, unacknowledged DATA frame (R282): its SEQ, records, bytes in the replay buffer, when it was last sent, replays made. -/
structure Sent where
  seq : Nat
  recs : List ORec
  bytes : Nat
  last : Nat
  replays : Nat
  deriving DecidableEq, Repr

/-- Link states (Table 10-8). -/
inductive LinkSt where
  | down | init | active
  deriving DecidableEq, Repr

/-- One host link. -/
structure Link where
  st : LinkSt
  aligned : Bool
  epOwn : Nat
  epPeer : Option Nat
  /-- The device holds link state (R287, R288). -/
  holds : Bool
  /-- An endpoint reset has been counted since the link was last ACTIVE (R288). -/
  wasReset : Bool
  sentInit : Bool
  /-- The endpoint INIT that meets R287: its NRX. -/
  gotInit : Option Nat
  /-- Boundary of the next INIT frame (R285). -/
  initAt : Nat
  /-- When the link last left ACTIVE, until ENDPOINT_LOST has acted (R286). -/
  leftAt : Option Nat
  nrx : Nat
  nakSent : Bool
  /-- An acknowledgement, a credit limit, or a NAK is to be sent; since when (R279, R281). -/
  ackDue : Option Nat
  nakDue : Bool
  next : Nat
  sent : List Sent
  /-- SEQs still to be resent in the replay in progress (R282). -/
  replay : List Nat
  /-- Credits consumed, the peer's limits, and which of its VCs are infinite (R277, R278). -/
  cc : SMap Nat
  cl : SMap Nat
  inf : Nat
  /-- Own advertised limits, the INF bits of the last INIT sent (R278), and credits the peer has consumed. -/
  own : SMap Nat
  ownInf : Nat
  used : SMap Nat
  /-- ETYPE in force. -/
  etype : Nat
  /-- Requests, in the order issued. -/
  reqs : List Req
  gens : SMap Nat
  /-- Tag numbers and GENs of requests that timed out. -/
  timedOut : List (Nat × Nat)
  /-- Records other than MRD and MWR that wait to be sent. -/
  outq : List ORec
  /-- DB, MBR and MBW records accepted and not yet acted on (R299, R313). -/
  hostq : List BlRec
  /-- In a domain reset until this boundary (R488). -/
  resetTill : Option Nat
  deriving DecidableEq, Repr

/-- A host link after device reset. -/
def Link.reset : Link :=
  { st := .down, aligned := false, epOwn := 0, epPeer := none, holds := false, wasReset := false, sentInit := false,
    gotInit := none, initAt := 0, leftAt := none, nrx := 0, nakSent := false, ackDue := none, nakDue := false, next := 0,
    sent := [], replay := [], cc := [], cl := [], inf := 0, own := [], ownInf := 0, used := [], etype := 0x88B5, reqs := [], gens := [],
    timedOut := [], outq := [], hostq := [], resetTill := none }

/-- What the device shows the outside: what a register read returned, frames leaving a port, with their FCS, Bamura frames. -/
inductive Out where
  | readData (p : Path) (a v : Word)
  | frame (dest : Nat) (bytes : List Byte)
  /-- A Bamura frame with its FCS on a link: a host port's, or 8 + the sub-port of a gang link. -/
  | bamura (h : Nat) (bytes : List Byte)
  deriving DecidableEq, Repr

/-- States of a job (R318, R320, R321). -/
inductive JobSt where
  | entry | table | ready | selected | payload | writing | done
  deriving DecidableEq, Repr

/-- A job: an entry of a send or receive ring (R315 to R318). -/
structure Job where
  idx : Nat
  units : Nat
  st : JobSt
  /-- Units of the entry, and bytes of the fragment table, that have been read. -/
  raw : SMap (List Byte)
  tbl : SMap (List Byte)
  /-- Reads of the present kind that are outstanding, and entries of the table being read. -/
  waits : Nat
  tblLen : Nat
  hops : Nat
  cls : Nat
  len : Nat
  md : Nat
  tag : Nat
  inline : List Byte
  frags : List (Nat × Nat)
  status : Nat
  /-- Payload read so far, by offset in the frame, and the frame made of it. -/
  data : SMap (List Byte)
  frame : Option Nat
  /-- Bytes written (receive). -/
  wrote : Nat
  deriving DecidableEq, Repr

/-- A completion entry that waits in a reserve (R322, R323). -/
structure CEnt where
  kind : Nat
  status : Nat
  queue : Nat
  index : Nat
  len : Nat
  tag : Nat
  /-- A block-service entry's 16 bytes (R361). -/
  raw : List Byte
  /-- The queue whose H it lets pass, and where to (R311): kind, number, index. -/
  src : Option (Nat × Nat × Nat)
  deriving DecidableEq, Repr

/-- States of a queue (Table 11-24). -/
inductive QSt where
  | off | active | error | stalled
  deriving DecidableEq, Repr

/-- A queue context and its state (R311, R328). For a completion queue `dev` is T and `host` is H. -/
structure Queue where
  w0 : DWord
  w1 : DWord
  w2 : DWord
  st : QSt
  cause : Nat
  dev : Nat
  host : Nat
  /-- Next index to read. -/
  fetch : Nat
  /-- Send and receive: where H is to go, in ring order, and to which of these places the completion entry has been written (R311). -/
  passing : List Nat
  passed : List Nat
  jobs : List Job
  /-- Doorbells by the tail they gave and their boundary, newest first (R264). -/
  known : List (Nat × Nat)
  reserve : List CEnt
  /-- Places taken whose entries are not yet in the ring (R323). -/
  places : Nat
  /-- Completion: what H of another queue waits for, by ring index of the entry (R311). -/
  posted : SMap (Nat × Nat × Nat)
  /-- Entries written whose writes are done, and how many of them run contiguously. -/
  doneSet : List Nat
  visible : Nat
  arm : Option Nat
  stall : Option Nat
  /-- Device index last written, and whose write is done (R329). -/
  idxSent : Nat
  idxDone : Nat
  deriving DecidableEq, Repr

/-- A queue after device reset. -/
def Queue.reset : Queue :=
  { w0 := 0, w1 := 0, w2 := BitVec.ofNat 64 (10000 * 2 ^ 40), st := .off, cause := 0, dev := 0, host := 0, fetch := 0,
    passing := [], passed := [], posted := [], jobs := [],
    known := [], reserve := [], places := 0, doneSet := [], visible := 0, arm := none, stall := none, idxSent := 0, idxDone := 0 }

/-- States of a vport (Table 11-1). -/
inductive VpSt where
  | off | active | frozen | orphaned
  deriving DecidableEq, Repr

/-- A change of a vport that takes effect at the next boundary; a creation or a change of counts carries VP_CFG, VP_QRANGE and
ORPHAN_HOLD (R387, R412). -/
inductive VpCmd where
  | reset | reattach | freeze | thaw | destroy
  | create (cfgW : Word) (ranges : DWord) (hold : Nat)
  deriving DecidableEq, Repr

/-- One vport (R307), its mailbox state (R428) and its migration state (R388). -/
structure Vport where
  st : VpSt
  cmds : List VpCmd
  resetBusy : Bool
  orphanAt : Option Nat
  reattaching : Bool
  /-- Mailbox: FULL and EPOCH of MB_IN and MB_OUT, the two epochs, the sticky bits, boundaries both were FULL, CROSSED. -/
  inFull : Bool
  inEpoch : Nat
  outFull : Bool
  outEpoch : Nat
  hostEpoch : Nat
  fwEpoch : Nat
  peerResetHost : Bool
  peerResetFw : Bool
  refusedHost : Bool
  refusedFw : Bool
  bothFull : Nat
  crossed : Bool
  /-- Migration: FROZEN_AT, DRAINED, SAVE_BUSY, RESULT, RESTORED. -/
  frozenAt : Nat
  drained : Bool
  saveBusy : Bool
  restored : Bool
  result : Nat
  deriving DecidableEq, Repr

/-- A vport after device reset. -/
def Vport.reset : Vport :=
  { st := .off, cmds := [], resetBusy := false, orphanAt := none, reattaching := false, inFull := false,
    inEpoch := 0, outFull := false, outEpoch := 0, hostEpoch := 0, fwEpoch := 0, peerResetHost := false, peerResetFw := false,
    refusedHost := false, refusedFw := false, bothFull := 0, crossed := false, frozenAt := 0, drained := false,
    saveBusy := false, restored := false, result := 0 }

/-- States of a bobbin (Table 11-18). -/
inductive BobSt where
  | idle | running | pausing | paused | done | halted
  deriving DecidableEq, Repr

/-- A software bobbin's run (R330 to R334). -/
structure Bobbin where
  st : BobSt
  done : Nat
  next : Nat
  /-- Requests issued and not done, and done above DONE, by offset with their lengths. -/
  live : SMap Nat
  parts : SMap Nat
  tries : SMap Nat
  /-- Lowest failed request and its status. -/
  fail : Option (Nat × Nat)
  aborting : Bool
  deriving DecidableEq, Repr

/-- A bobbin after device reset. -/
def Bobbin.reset : Bobbin := ⟨.idle, 0, 0, [], [], [], none, false⟩

/-- Links, vports, queues and bobbins. -/
structure Hp where
  links : SMap Link
  vports : SMap Vport
  /-- Queues by 65,536 × kind + number; kind 0 send, 1 receive, 2 completion. -/
  queues : SMap Queue
  bobbins : SMap Bobbin
  /-- Operation of BB_QOP that waits for the boundary (R328). -/
  qop : Nat
  deriving DecidableEq, Repr

end Sys2Proof.Machine
end

