-- ==== Sys2Proof/Machine/TypesD.lean ====
section
/-! DEFINITION. State of the cipher clusters and of the key cache (chapter 12). Plain data. -/

namespace Sys2Proof.Machine

/-- An association in the key cache (R348, R349): its domain, unwrapped key, current counters, the lease written so far and a lease
being written (R346), when it was last used, and the frames accepted since its last write-back. -/
structure KeyEnt where
  dom : Nat
  key : List Byte
  count : Nat
  highest : Nat
  /-- Replay bitmap: bit n stands for sequence number HIGHEST - n. -/
  bitmap : Nat
  leased : Option Nat
  leasing : Option Nat
  used : Nat
  fresh : Nat
  deriving DecidableEq, Repr

/-- A frame in a hold buffer (R353): the cells it takes, the boundary since which it has waited for a fill, and whether its plaintext
is in the buffer. -/
structure HoldF where
  cells : Nat
  since : Option Nat
  ready : Bool
  deriving DecidableEq, Repr

/-- Cipher clusters and key cache. -/
structure Ci where
  cache : SMap (Option KeyEnt)
  /-- Fills requested, oldest first, and whether they have been served (R349). -/
  fills : List (Nat × Bool)
  /-- Domain that the round robin of the fills served last. -/
  fillDom : Nat
  /-- State array (R342), and its changes that the next boundary makes. -/
  st : SMap Nat
  stPend : List (Nat × Nat)
  /-- Copies that have entered an egress cluster and wait for protection, oldest first, by cluster. -/
  eq : SMap (List Nat)
  /-- Frames in hold buffers, by frame. -/
  holds : SMap (Option HoldF)
  /-- Copies that wait for a fill before the editor: the boundary since which they wait. -/
  waits : SMap (Option Nat)
  /-- Rekey notices: association, HARD. -/
  rekey : List (Nat × Bool)
  /-- Associations whose disablement has raised MACSEC_TX_DOWN (R345). -/
  txDown : List Nat
  /-- Association command that waits for the boundary: OP and association. -/
  saOp : Option (Nat × Nat)
  /-- Uses of the cache so far, which orders its entries by last use. -/
  stamp : Nat
  /-- Clusters in a domain reset, until this boundary (R488). -/
  resetTill : SMap (Option Nat)
  deriving DecidableEq, Repr

/-- The clusters after device reset. -/
def Ci.reset : Ci :=
  { cache := [], fills := [], fillDom := 0, st := [], stPend := [], eq := [], holds := [], waits := [], rekey := [], txDown := [],
    saOp := none, stamp := 0, resetTill := [] }

end Sys2Proof.Machine
end

