-- ==== Sys2Proof/Machine/TypesE.lean ====
section
/-! DEFINITION. State of the block service (chapter 13): storage connections with their TCP engine, command contexts, stripe locks.
Plain data. -/

namespace Sys2Proof.Machine

/-- A segment sent and not yet acknowledged: its sequence number, data, SYN, FIN, the tick it was last sent, retransmissions, and
whether a SACK block covers it. -/
structure Seg where
  seq : Nat
  data : List Byte
  syn : Bool
  fin : Bool
  sent : Nat
  tries : Nat
  sacked : Bool
  deriving DecidableEq, Repr

/-- States of a storage connection (Table 13-14). -/
inductive ConnSt where
  | closed | connecting | opened | closing | failed
  deriving DecidableEq, Repr

/-- What a connection waits for while CONNECTING or OPEN (R368). -/
inductive ConnPh where
  | syn | icResp | connect | ready
  deriving DecidableEq, Repr

/-- A storage connection (R365 to R371). Sequence numbers are modulo 2^32, times in ticks, the congestion window in bytes. -/
structure Conn where
  st : ConnSt
  cause : Nat
  ph : ConnPh
  una : Nat
  nxt : Nat
  wnd : Nat
  /-- Window scale of the peer; window scaling, timestamps, SACK, ECN in use. -/
  wscale : Nat
  wsOn : Bool
  tsOn : Bool
  sackOn : Bool
  ecnOn : Bool
  tsRecent : Nat
  mss : Nat
  rcvNxt : Nat
  /-- Received out of order: sequence number and bytes; received in order and not yet consumed. -/
  ooo : List (Nat × List Byte)
  inb : List Byte
  peerFin : Bool
  segs : List Seg
  outq : List Byte
  /-- CLOSE was given; FIN has been sent. -/
  finDue : Bool
  finSent : Bool
  cwnd : Nat
  ssthresh : Nat
  dup : Nat
  recover : Option Nat
  srtt : Option Nat
  rttvar : Nat
  rto : Nat
  timer : Option Nat
  /-- A CE mark is to be echoed; CWR is due; the window was cut for ECE up to this sequence number. -/
  echo : Bool
  cwrDue : Bool
  eceCut : Option Nat
  /-- MAXH2CDATA of ICResp. -/
  h2c : Nat
  /-- Commands outstanding at the target: command identifier to context and part. -/
  cmds : SMap (Option (Nat × Nat))
  deriving DecidableEq, Repr

/-- A closed connection. -/
def Conn.reset : Conn :=
  { st := .closed, cause := 0, ph := .syn, una := 0, nxt := 0, wnd := 0, wscale := 0, wsOn := false, tsOn := false, sackOn := false,
    ecnOn := false, tsRecent := 0, mss := 536, rcvNxt := 0, ooo := [], inb := [], peerFin := false, segs := [], outq := [],
    finDue := false, finSent := false, cwnd := 0, ssthresh := 0, dup := 0, recover := none, srtt := none, rttvar := 0, rto := 0,
    timer := none, echo := false, cwrDue := false, eceCut := none, h2c := 0, cmds := [] }

/-- Where a shard command stands. -/
inductive PartSt where
  | waiting | sent | done | failed
  deriving DecidableEq, Repr

/-- Kinds of shard commands. -/
inductive PartKind where
  | read | write | flush | zeroes | dataset
  deriving DecidableEq, Repr

/-- A shard command of a command context (R373 to R377): the shard, the stripe, column and unit-offset range it covers, its target LBA
and block count, data to send, and what has come back. -/
structure Part where
  kind : PartKind
  shard : Nat
  stripe : Nat
  col : Nat
  o : Nat
  len : Nat
  lba : Nat
  nlb : Nat
  data : List Byte
  st : PartSt
  /-- Target status: SCT × 256 + SC, and DNR. -/
  status : Nat
  dnr : Bool
  got : SMap (List Byte)
  sentAt : Nat
  deriving DecidableEq, Repr

/-- Phases of a command: its SQE is in the context; it has been dispatched by opcode; its PRP list or DSM ranges or write data are being
read; its units are encrypted; it takes stripe locks; it gathers columns; it writes; it reads; only its end is left. -/
inductive CmdPh where
  | fetched | dispatched | list | stage | crypt | locks | gather | write | read | simple | ended
  deriving DecidableEq, Repr

/-- A command context (R359). -/
structure Cmd where
  page : Nat
  queue : Nat
  idx : Nat
  dom : Nat
  sqe : List Byte
  ph : CmdPh
  vd : Nat
  /-- The vdisk's and its shards' entries when the command started (R364). -/
  vent : List Byte
  shards : List (List Byte)
  pages : List (Nat × Nat)
  /-- First byte and length on the vdisk. -/
  start : Nat
  len : Nat
  /-- Stripes whose lock it holds or waits for. -/
  locks : List Nat
  parts : List Part
  /-- Offsets of the extents whose data has gone to the host. -/
  given : List Nat
  /-- Units encrypted so far. -/
  units : Nat
  /-- Host reads and writes outstanding. -/
  hostOut : Nat
  list : SMap (List Byte)
  status : Option (Nat × Bool)
  /-- The first nonzero status that one of its shard commands ended with (Table 13-3). -/
  fail : Option (Nat × Bool)
  discard : Bool
  deriving DecidableEq, Repr

/-- The block service. -/
structure Bs where
  vd : SMap (List Byte)
  shard : SMap (List Byte)
  centry : SMap (List Byte)
  conns : SMap Conn
  cmds : SMap (Option Cmd)
  /-- Stripe locks (R376): vdisk, stripe, contexts that hold or wait for it, whether each takes it as a write. -/
  locks : List (Nat × Nat × List (Nat × Bool))
  /-- Records that a reset left (R377). -/
  kept : List (Nat × Nat)
  /-- Frames that BLOCK verdicts delivered: connection and frame (R365). -/
  inq : List (Nat × Nat)
  /-- Command of BS_CMD that waits for the boundary: OP, TABLE, INDEX. -/
  op : Option (Nat × Nat × Nat)
  /-- IPv4 identifications used so far. -/
  ipId : Nat
  /-- BS_STAGE has been written: the staging area is configured (R530). -/
  stageSet : Bool
  deriving DecidableEq, Repr

/-- The block service after device reset. -/
def Bs.reset : Bs := ⟨[], [], [], [], [], [], [], [], none, 0, false⟩

end Sys2Proof.Machine
end

