-- ==== Sys2Proof/Machine/TypesF.lean ====
section
/-! DEFINITION. State of the lookup engine (chapter 7): the entries of tables 0 to 4, the shadow writes under way, comb and card
walker, and the flows' homes in HBM. Plain data. -/

namespace Sys2Proof.Machine

/-- An entry of a table (Tables 7-2, 7-3): key words, control word with its flags, data words, the boundary at which it was placed in
its CAM slot (R203), and the boundary of its last station move (R195). -/
structure TEnt where
  kw : List DWord
  ctl : DWord
  dw : List DWord
  camAt : Nat
  movedAt : Option Nat
  deriving DecidableEq, Repr

/-- A home slot of a bucket (R208): the flow's key, and its entry while it is held in HBM. -/
structure Home where
  kw : List DWord
  held : Option TEnt
  deriving DecidableEq, Repr

/-- The lookup engine. A slot's key is 2^20 × table + slot. -/
structure Lk where
  slots : SMap (Option TEnt)
  /-- Slots with an uncorrectable error (R217): 1 not yet read, 2 marked SUSPECT. -/
  bad : SMap Nat
  /-- Shadow writes issued and not completed, oldest first: slot key and word (R218). -/
  shw : List (Nat × Nat)
  /-- Next slot of the comb and the boundary of its next visit, by table, none while the comb is not enabled there; 5 is the HBM sweep,
  whose slots are buckets. -/
  comb : SMap Nat
  combAt : SMap (Option Nat)
  /-- Next position of the card walker among the slots of tables 0 to 3 (R219). -/
  walk : Nat
  /-- Promotions in progress: key and the boundary at which it started (R211). -/
  promos : List (List DWord × Nat)
  /-- Keys of flows whose demotion write is in progress (R213). -/
  demos : List (List DWord)
  /-- Promotions whose bucket read has completed, and demotions whose write has: they act at step 3 of the boundary (R187, R211). -/
  readDone : List (List DWord)
  writeDone : List (List DWord)
  homes : SMap (List Home)
  /-- Learns and flow insertions made at this boundary (R196, R210). -/
  learned : Nat
  inserted : Nat
  /-- Learn rings whose PROD has advanced at this boundary (R199). -/
  adv : List Nat
  deriving DecidableEq, Repr

/-- The lookup engine after device reset: every table is empty. -/
def Lk.reset : Lk := ⟨[], [], [], [], [], 0, [], [], [], [], [], 0, 0, []⟩

end Sys2Proof.Machine
end

