-- ==== Sys2Proof/Machine/TypesG.lean ====
section
/-! DEFINITION. State of the time discipline and of the gang (chapter 17), of the fault tree (chapter 18), of power and
margins (chapters 16, 18, 20), of the control path and the security processor (chapters 14, 15, 19). Plain
data. -/

namespace Sys2Proof.Machine

/-- A record of a transmit timestamp FIFO (Table 17-3). -/
structure TxRec where
  msg : Nat
  dom : Nat
  seq : Nat
  ns : Nat
  sec : Nat
  deriving DecidableEq, Repr

/-- Time discipline (R446 to R457). -/
structure Tm where
  /-- The time counter at the last boundary. -/
  now : Time
  /-- A step that waits for the boundary: its SET bit (R448). -/
  step : Option Bool
  /-- PPS_OUT is high since this tick (R455), and has risen in the tick in progress. -/
  high : Option Nat
  rose : Bool
  /-- Transmit timestamp FIFOs, oldest first, and those that have lost records since their last read (R454). -/
  fifo : SMap (List TxRec)
  lost : List Nat
  /-- Frames that carry a transmit time predicted in the tick in progress (R453). -/
  predicted : Nat
  deriving DecidableEq, Repr

/-- Time discipline after device reset. -/
def Tm.reset : Tm := ⟨⟨0, 0, 0⟩, none, none, false, [], [], 0⟩

/-- A gang frame that transits at the next boundary (R460): the frame, its next hop, class and ordering bucket. -/
structure Transit where
  frame : Nat
  dest : Nat
  cls : Nat
  bucket : Nat
  deriving DecidableEq, Repr

/-- The fault tree and what feeds it (R469 to R475). -/
structure Ft where
  /-- Classes raised since the last boundary. -/
  raising : List Nat
  /-- The log of R471: class and tick count, oldest first. -/
  log : List (Nat × Nat)
  /-- Raises since a line last delivered (R470), by line key. -/
  lineCnt : SMap Nat
  /-- Memory words with an uncorrectable error (R473, R474): 2^40 × memory + address / 8, memory 0 hank, 1 HBM, 2 + r of reel r. -/
  bad : List Nat
  /-- Classes that have become pending since the last notice, as a mask; when the last notice was sent, and its number (R472). -/
  fresh : Nat
  lastNotice : Option Nat
  noticeSeq : Nat
  /-- Ticks of the corrected errors of the last 1,048,576 ticks (R473). -/
  ce : List Nat
  /-- Uncorrectable HBM errors of the last 1,048,576 ticks: channel and tick (R475). -/
  ue : List (Nat × Nat)
  /-- The channel that is, or has been, spared. -/
  spare : Option Nat
  deriving DecidableEq, Repr

/-- The fault tree after device reset. -/
def Ft.reset : Ft := ⟨[], [], [], [], 0, none, 0, [], [], none⟩

/-- Power domains, gust limiter, sag (R437 to R445). -/
structure Pw where
  /-- STATE of each domain: 0 AWAKE, 1 WAKING, 2 SLEEPING, 3 OFF. -/
  st : SMap Nat
  /-- The gust limiter's FIFO, oldest first: domain and the boundary of its request. -/
  fifo : List (Nat × Nat)
  /-- Admitted domains: the boundary of the request and the boundary at which the domain is AWAKE. -/
  ramps : SMap (Option (Nat × Nat))
  /-- Boundary from which each rail admits again, by rail. -/
  rail : SMap Nat
  /-- Longest request-to-AWAKE time since the last read. -/
  maxWake : Nat
  sag : Bool
  /-- The recovery time is over: sag ends at the next boundary; nanoseconds below the warning level. -/
  sagOver : Option Nat
  /-- MRD records sent in this tick in sag, by host port (R444). -/
  sagReads : SMap Nat
  /-- Unmasked doorbell bits of each receiver at the last boundary (R435). -/
  dbbSeen : SMap Word
  /-- Doorbell bits of each receiver at the last boundary, masked or not (R436). -/
  dbbWas : SMap Word
  /-- Reel commands that wait for their reel to be AWAKE (R439): reel and CMD. -/
  cmds : List (Nat × Nat)
  deriving DecidableEq, Repr

/-- Power after device reset: every domain is AWAKE. -/
def Pw.reset : Pw := ⟨[], [], [], [], 0, false, none, [], [], [], []⟩

/-- A rail's re-planning (R482, R483, R510): setpoint in mV, measurements above HIGH in a row, the tick of a change after which it is
measured again, a lowering that waits for the gust limiter with the regulator's answers, and whether the last setpoint write failed. -/
structure Rail where
  mv : Nat
  high : Nat
  settle : Option Nat
  low : Option (List (Option Nat))
  lost : Bool
  deriving DecidableEq, Repr

/-- Margins (R481 to R483, R493, R510). -/
structure Mg where
  a : Rail
  b : Rail
  /-- A rung that the next boundary moves to (R9). -/
  rungDue : Option Nat
  deriving DecidableEq, Repr

/-- A rail at the boot voltage of R493. -/
def Rail.reset : Rail := ⟨750, 0, none, none, false⟩

/-- Margins after device reset. -/
def Mg.reset : Mg := ⟨Rail.reset, Rail.reset, none⟩

/-- A control key (R402). -/
structure CtlKey where
  key : List Byte
  mask : Nat
  deriving DecidableEq, Repr

/-- A command that has been taken and is being performed (R401, R405): the port, the request's source address, its header bytes
0x00 to 0x17, whether it was checked, its body, the tick at which it was taken. -/
structure CmdRun where
  port : Nat
  src : List Byte
  hdr : List Byte
  checked : Bool
  body : List Byte
  at_ : Nat
  deriving DecidableEq, Repr

/-- Phases of CT_BOOT_STATUS (Table 19-8). -/
inductive Phase where
  | rom | bootService | switching | full | bootHold | haltedEntropy
  deriving DecidableEq, Repr

/-- PHASE value. -/
def Phase.code : Phase → Nat
  | .rom => 0 | .bootService => 1 | .switching => 2 | .full => 3 | .bootHold => 4 | .haltedEntropy => 5

/-- What is kept of the running image (R425): SVN, KEY_SLOT, whether DEBUG or UNVERIFIED is set, the digests M_SP and M_IMAGE. -/
structure Running where
  svn : Nat
  slot : Nat
  debug : Bool
  sp : List Byte
  image : List Byte
  deriving DecidableEq, Repr

/-- A migration session (R392): on the source or the destination side, SESSION, the peer's identity key, the own ephemeral private
and public keys, the peer's ephemeral key, the next SEQ of a source, the greatest SEQ accepted by a destination. -/
structure Session where
  source : Bool
  value : Nat
  peer : List Byte
  priv : Nat
  pub : List Byte
  peerPub : Option (List Byte)
  seq : Nat
  deriving DecidableEq, Repr

/-- A RESTORE in progress (R397): the vport page, MAC entries still to be placed, entries placed, entries that found no place, and
whether its MIG_SESSION command waits for it. -/
structure Restore where
  page : Nat
  ents : List (List Byte)
  placed : Nat
  failed : Nat
  deriving DecidableEq, Repr

/-- A SAVE that has been captured and whose object is still to be written (R394): page, OFFSET, CLASS, the session and SEQ it was
captured under, vport part, MAC entries. -/
structure Save where
  page : Nat
  off : Nat
  cls : Bool
  sess : Session
  seq : Nat
  part : List Byte
  ents : List (List Byte)
  deriving DecidableEq, Repr

/-- A firmware access to a mailbox (R427): the path, the vport page, MB_OUT or MB_IN, the word of a write, and whether a response has
answered the read already. -/
structure FwAcc where
  path : Path
  page : Nat
  out : Bool
  word : Option DWord
  told : Bool
  deriving DecidableEq, Repr

/-- The control path and the security processor. -/
structure Ct where
  debugEn : Bool
  debugSeen : Bool
  /-- A change of DEBUG_EN, or of STRICT, that the next boundary makes (R414, R384). -/
  debugDue : Option Bool
  strictDue : Option Bool
  /-- Device resets so far: which keys, seeds and identifiers are in force. -/
  epoch : Nat
  devId : Nat
  phase : Phase
  /-- Step of the switch to full service that has been carried out (R502). -/
  switch : Nat
  bootId : Nat
  keys : SMap (Option CtlKey)
  last : SMap Nat
  /-- Command frames queued (R401): the port and the bytes with FCS, oldest first. -/
  cmdq : List (Nat × List Byte)
  busy : Option CmdRun
  /-- M_CONFIG and the critical commands accepted (R424, R425). -/
  mconfig : List Byte
  crit : Nat
  trngFail : Bool
  certBad : Bool
  running : Option Running
  /-- An activation in progress: MODE, and the flash written (R421). -/
  activation : Option (Nat × Nat)
  /-- A rollback advance in progress: fuse count, revoke mask (R423). -/
  advance : Option (Nat × Nat)
  /-- Digests of the reel images in the store, by slot, and of those that the reels were loaded from, by reel (R425). -/
  store : SMap (List Byte)
  reelDig : SMap (List Byte)
  /-- Store slots, and reels, whose image came from an image with DEBUG or UNVERIFIED set (R414, R425). -/
  dbgStore : List Nat
  dbgReels : List Nat
  sessions : SMap (Option Session)
  restore : Option Restore
  /-- The MIG_SESSION in progress has started its operation (R413). -/
  migGo : Bool
  /-- SAVE commands that the next boundary captures (pages), and captured ones. -/
  savePend : List Nat
  saves : List Save
  fwq : List FwAcc
  /-- Mailbox resets that the next boundary makes after its accesses (R431): page, and whether the host side resets. -/
  mbResets : List (Nat × Bool)
  /-- Gang frames in transit (R460). -/
  transit : List Transit
  /-- Host ports and clusters whose reset in CT_RESET the next boundary makes (R488). -/
  domReset : List Nat
  deriving DecidableEq, Repr

/-- The control path after device reset number `n`, before the boot ROM runs. -/
def Ct.reset (n : Nat) : Ct :=
  { debugEn := false, debugSeen := false, debugDue := none, strictDue := none, epoch := n, devId := 0, phase := .rom, switch := 0,
    bootId := 0, keys := [], last := [], cmdq := [], busy := none, mconfig := List.replicate 64 0, crit := 0, trngFail := false,
    certBad := false, running := none, activation := none, advance := none, store := [], reelDig := [], dbgStore := [], dbgReels := [], sessions := [],
    restore := none, migGo := false, savePend := [], saves := [], fwq := [], mbResets := [], transit := [], domReset := [] }

/-- The OTP and its fuses (Table 15-7). -/
structure Otp where
  deviceId : Nat
  idSeed : List Byte
  devSeed : List Byte
  /-- IMG_KEY_HASH by slot; empty where unprogrammed. -/
  imgKey : SMap (List Byte)
  revoke : Nat
  ctlKey0 : List Byte
  provisioned : Bool
  debugPerm : Bool
  rollback : Nat
  deriving DecidableEq, Repr

/-- One flash (Table 19-5): image bank, boot record, identity area. -/
structure Flash where
  image : List Byte
  record : List Byte
  ident : List Byte
  deriving DecidableEq, Repr

/-- What only a power-on reset clears: host-port epochs in the security processor (R491), and the straps latched at the last
PORST_N edge (R490). -/
structure Keep where
  epochs : SMap Nat
  bootSel : Nat
  rungInit : Nat
  cpMedia : Bool
  deriving DecidableEq, Repr

/-- The board's side of the pins: strap levels, PORST_N low, the device held in reset, its cause, THERMTRIP_N driven low, the
instruction that the TAP holds, and the hold of an undervoltage reset (R485). -/
structure Board where
  bootSel : Nat
  rungInit : Nat
  cpMedia : Bool
  porstLow : Bool
  held : Bool
  cause : Nat
  thermtrip : Bool
  tap : TapOp
  uv : Bool
  deriving DecidableEq, Repr

end Sys2Proof.Machine
end

