-- ==== Sys2Proof/Machine/State.lean ====
section
/-! DEFINITION. The state of the AX6408: what a device reset clears (`Dev`), what outlives it (OTP, flash, epochs and straps, the
board's pins), and the queue of waiting commands. Plain data. -/

namespace Sys2Proof.Machine

/-- What posted operations of a tick see as it stood at the boundary that began the tick (R110): the tables and the memories, and the words
with uncorrectable errors. The model's own copy; the device keeps none. -/
structure TickStart where
  lk : Lk
  hank : Memory
  hbm : Memory
  /-- Reel memory by reel. -/
  rmem : SMap Memory
  bad : List Nat
  deriving DecidableEq, Repr

/-- Everything that a device reset returns to its reset value. -/
structure Dev where
  tick : Nat
  /-- Clock rung in force (R9): 0 2.000 GHz, 1 1.875 GHz, 2 1.750 GHz. -/
  rung : Nat
  regs : Regs
  rl : Rl
  dr : Dr
  sw : Sw
  hp : Hp
  ci : Ci
  bs : Bs
  lk : Lk
  ft : Ft
  pw : Pw
  mg : Mg
  ct : Ct
  tm : Tm
  hank : Memory
  hbm : Memory
  began : TickStart
  /-- Draws taken from the random bit generator (R417). -/
  rng : Nat
  /-- What the device has shown the outside, newest first. -/
  out : List Out
  deriving DecidableEq, Repr

/-- Faults: the spec gives every command an effect, so no command raises one. -/
inductive Fault where
  /-- Raised by no command. Safe. -/
  | unreachable
  deriving DecidableEq, Repr

/-- Refusals: the spec gives every command an effect, so no command answers one. -/
inductive Refusal where
  /-- A command whose meaning is not written yet, by its mnemonic; no arm answers it now. Safe. -/
  | notModelled (mnemonic : String)
  deriving DecidableEq, Repr

/-- The machine. -/
structure State where
  /-- Commands that wait, first in, first out. -/
  pending : List Instr
  otp : Otp
  flashA : Flash
  flashB : Flash
  keep : Keep
  board : Board
  dev : Dev
  deriving DecidableEq, Repr

/-- Reels, dispatch and ordering after device reset. The pointers of R45 begin at input 0 and reel 0 (DESIGN CHOICE, log entry 276). -/
def Rl.reset : Rl :=
  { reels := [], threads := [], dq := [], inPtr := 0, reelPtr := 0, seq := 0, ord := [], posted := [], capture := [], capFree := false,
    skips := [], sinceSkip := 64, cycles := [], held := [] }

/-- Locks, channels and events after device reset. -/
def Dr.reset : Dr :=
  { locks := [], reqs := [], endings := [], chans := [], chanOff := [], pend := [], rebind := [], raises := [], dold := [],
    members := [], punt := [], waft := ⟨0, []⟩, svc := 0 }

/-- Packet buffer, switch and meters after device reset. -/
def Sw.reset : Sw :=
  { frames := [], nextFrame := 0, presented := [], parsing := [], copies := [], nextCopy := 0, nextFirst := 0, edReady := [], peCommit := false,
    peSwap := 0,
    commits := [], mode := [], npUp := [], boot := [], lost := [], partner := [], pmd := [], dst := [], avg := [], lfsr := [], pins := [], mc := [], gap := [], waftDue := [],
    meters := [], mtrStage := [], fetch := [], smpPos := 0, smpNext := 0 }

/-- The device after device reset number `n`, with `rng` draws taken so far, and HBM as given (R486). -/
def Dev.reset (n rng : Nat) (hbm : Memory) (out : List Out) : Dev :=
  { tick := 0, rung := 2, regs := ⟨[], [], [], [], []⟩, rl := Rl.reset, dr := Dr.reset, sw := Sw.reset, hp := ⟨[], [], [], [], 0⟩,
    ci := Ci.reset, bs := Bs.reset, lk := Lk.reset, ft := Ft.reset, pw := Pw.reset, mg := Mg.reset, ct := Ct.reset n, tm := Tm.reset,
    hank := [], hbm := hbm, began := ⟨Lk.reset, [], hbm, [], []⟩, rng := rng, out := out }

/-- An OTP as delivered, its factory fields zero (DESIGN CHOICE: the spec gives no values). -/
def Otp.reset : Otp :=
  { deviceId := 0, idSeed := List.replicate 32 0, devSeed := List.replicate 32 0, imgKey := [], revoke := 0, ctlKey0 := [],
    provisioned := false, debugPerm := false, rollback := 0 }

/-- The machine right after a power-on reset, as device reset is released (R485, R489): the boot ROM has not run. Flashes are empty
and straps open (DESIGN CHOICE). -/
def State.reset : State :=
  { pending := [], otp := Otp.reset, flashA := ⟨[], [], []⟩, flashB := ⟨[], [], []⟩, keep := ⟨[], 0, 0, false⟩,
    board := ⟨0, 0, false, false, false, 0, false, .idcode, false⟩, dev := Dev.reset 0 0 [] [] }

end Sys2Proof.Machine
end

