-- ==== Sys2Proof/Machine/Ops.lean ====
section
/-! DEFINITION. The named operations over the device's state that the commands share: register words (R526, R527), counters
(R464, R466), raises of the fault tree (R469), event lines (R153), threads, and the end of a skein (R50). -/

namespace Sys2Proof.Machine

/-- What a step of the device answers: every command runs. -/
abbrev Res := Host.Outcome State Fault Refusal

/-- The effect of a command on everything that a device reset clears; the rest of the state is as before. While the device is held in
reset (R485, R489) no command has an effect. -/
def onDev (f : Dev → Dev) (s : State) : Res := .next (if s.board.held then s else { s with dev := f s.dev })

/-- The value the device uses: the active value of a staged or banked register, and of any other the value that took effect at
the last boundary (R526, R527). -/
def cfg (d : Dev) (r : Reg) (i j : Nat) : Word := mget d.regs.act (addr r i j) (resetOf r false)

/-- The value a read returns (R5). -/
def cur (d : Dev) (r : Reg) (i j : Nat) : Word := mget d.regs.cur (addr r i j) (resetOf r false)

/-- Both words of a 64-bit register, as the device uses it. -/
def cfg64 (d : Dev) (r : Reg) (i j : Nat) : DWord :=
  BitVec.ofNat 64 ((mget d.regs.act (addr r i j) (resetOf r false)).toNat
    + (mget d.regs.act (addr r i j + 4) (resetOf r true)).toNat * 2 ^ 32)

/-- Both words of a 64-bit register, as a read returns it. -/
def cur64 (d : Dev) (r : Reg) (i j : Nat) : DWord :=
  BitVec.ofNat 64 ((mget d.regs.cur (addr r i j) (resetOf r false)).toNat
    + (mget d.regs.cur (addr r i j + 4) (resetOf r true)).toNat * 2 ^ 32)

/-- Set the value a read returns. -/
def setCur (d : Dev) (r : Reg) (i j : Nat) (v : Word) : Dev :=
  { d with regs := { d.regs with cur := mput d.regs.cur (addr r i j) v (resetOf r false) } }

/-- Set the value the device uses. -/
def setAct (d : Dev) (r : Reg) (i j : Nat) (v : Word) : Dev :=
  { d with regs := { d.regs with act := mput d.regs.act (addr r i j) v (resetOf r false) } }

/-- Set both values of a register word. -/
def setBoth (d : Dev) (r : Reg) (i j : Nat) (v : Word) : Dev := setAct (setCur d r i j v) r i j v

/-- Set both words of a 64-bit register that a read returns. -/
def setCur64 (d : Dev) (r : Reg) (i j : Nat) (v : DWord) : Dev :=
  let lo : Word := BitVec.ofNat 32 v.toNat
  let hi : Word := BitVec.ofNat 32 (v.toNat / 2 ^ 32)
  let d := setCur d r i j lo
  { d with regs := { d.regs with cur := mput d.regs.cur (addr r i j + 4) hi (resetOf r true) } }

/-- Set both words of a 64-bit register, stored and used. -/
def setBoth64 (d : Dev) (r : Reg) (i j : Nat) (v : DWord) : Dev :=
  let lo : Word := BitVec.ofNat 32 v.toNat
  let hi : Word := BitVec.ofNat 32 (v.toNat / 2 ^ 32)
  let d := setCur64 d r i j v
  let d := setAct d r i j lo
  { d with regs := { d.regs with act := mput d.regs.act (addr r i j + 4) hi (resetOf r true) } }

/-- The reset value of the word at an address; 0 where the address names no register. -/
def resetAt (a : Nat) : Word :=
  match locate a with
  | some l => resetOf l.reg l.hi
  | none => 0

/-- Register words `dst` with those at the addresses that satisfy `p` taken from `src` (R177, R527). -/
def copyWords (p : Nat → Bool) (src dst : SMap Word) : SMap Word :=
  let copy (m : SMap Word) (a : Nat) : SMap Word := mput m a (mget src a (resetAt a)) (resetAt a)
  ((mkeys src).filter p).foldl copy (dst.filter fun e => !p e.1)

/-- A field of a register as the device uses it. -/
def cfgF (d : Dev) (r : Reg) (i j lo len : Nat) : Nat := fld (cfg d r i j) lo len

/-- A bit of a register as the device uses it. -/
def cfgB (d : Dev) (r : Reg) (i j b : Nat) : Bool := bit (cfg d r i j) b

/-- Set a bit of the value a read returns: status and error flags. -/
def flag (d : Dev) (r : Reg) (i j b : Nat) (v : Bool) : Dev := setCur d r i j (setBit (cur d r i j) b v)

/-- `n` more events in an error counter with SAT in bit 31 (R464). -/
def countN (d : Dev) (r : Reg) (i j n : Nat) : Dev := if n = 0 then d else setCur d r i j (bumpSat (cur d r i j) n)

/-- One more event in an error counter with SAT in bit 31 (R464). -/
def count (d : Dev) (r : Reg) (i j : Nat) : Dev := countN d r i j 1

/-- One more event in a 32-bit saturating counter without a flag (R464). -/
def count32 (d : Dev) (r : Reg) (i j : Nat) : Dev := setCur d r i j (bump32 (cur d r i j) 1)

/-- Raise a class of the fault tree (Table 18-5). The raise takes effect at the boundary; raises of one class at one boundary
count as one (R469). -/
def raise (d : Dev) (c : Nat) : Dev :=
  if c ∈ d.ft.raising then d else { d with ft := { d.ft with raising := d.ft.raising ++ [c] } }

/-- Set a WRAP bit; CNT_WRAP is raised where it goes from 0 to 1 (R466). -/
def setWrap (d : Dev) (r : Reg) (i b : Nat) : Dev :=
  if bit (cur d r i 0) b then d else raise (flag d r i 0 b true) 23

/-- Add to a 64-bit statistics counter held in a register, which wraps modulo 2^64; the first wrap sets the WRAP bit `b` of
instance `wi` of `wr` (R464, R466). -/
def stat64 (d : Dev) (r : Reg) (i j n : Nat) (wr : Reg) (wi b : Nat) : Dev :=
  let v := (cur64 d r i j).toNat + n
  let d := setCur64 d r i j (BitVec.ofNat 64 v)
  if 2 ^ 64 ≤ v then setWrap d wr wi b else d

/-- Count a verdict drop of input `i` with reason `r` (Table 18-4). -/
def countDrop (d : Dev) (i r : Nat) : Dev := stat64 d .ftDropCnt i r 1 .ftStatWrap 0 0

/-- Emit something toward the outside. -/
def emit (d : Dev) (o : Out) : Dev := { d with out := o :: d.out }

/-- STATE of a power domain: 0 AWAKE, 1 WAKING, 2 SLEEPING, 3 OFF (Table 16-9). -/
def domSt (d : Dev) (p : Nat) : Nat := mget d.pw.st p 0

/-- Whether a domain is AWAKE. -/
def awake (d : Dev) (p : Nat) : Bool := decide (domSt d p = 0)

/-! ### Reels and threads -/

/-- A reel. -/
def reelOf (d : Dev) (r : Nat) : Reel := mget d.rl.reels r Reel.reset

/-- Store a reel. -/
def putReel (d : Dev) (r : Nat) (x : Reel) : Dev := { d with rl := { d.rl with reels := mput d.rl.reels r x Reel.reset } }

/-- A thread, by its key 64 × reel + n. -/
def thrOf (d : Dev) (k : Nat) : Thread := mget d.rl.threads k Thread.reset

/-- Store a thread. -/
def putThr (d : Dev) (k : Nat) (t : Thread) : Dev :=
  { d with rl := { d.rl with threads := mput d.rl.threads k t Thread.reset } }

/-- Designation and window of a thread, as its reel image sets them. -/
def thrCfg (d : Dev) (k : Nat) : ThreadCfg := mget (reelOf d (k / 64)).cfg (k % 64) ThreadCfg.none

/-- Whether a thread is a service thread. -/
def isService (d : Dev) (k : Nat) : Bool := (thrCfg d k).service

/-- All thread keys of a reel. -/
def reelThreads (r : Nat) : List Nat := (List.range 64).map (fun n => 64 * r + n)

/-- The device with the tables and memories as they stood when the tick began (R110). -/
def atStart (d : Dev) : Dev :=
  { d with
    lk := d.began.lk, hank := d.began.hank, hbm := d.began.hbm, ft := { d.ft with bad := d.began.bad },
    rl := { d.rl with reels := d.rl.reels.map fun e => (e.1, { e.2 with rmem := mget d.began.rmem e.1 [] }) } }

/-- Keep the tables and memories as the tick begins with them (R110). -/
def keepStart (d : Dev) : Dev :=
  { d with began := ⟨d.lk, d.hank, d.hbm, d.rl.reels.map fun e => (e.1, e.2.rmem), d.ft.bad⟩ }

/-! ### Event lines -/

/-- The key of line `l` of thread `k`. -/
def lineKey (k l : Nat) : Nat := 64 * k + l

/-- The wait groups whose recovery thread is `k` and that are enabled (R160, R161). -/
def recGroups (d : Dev) (k : Nat) : List Nat :=
  (List.range 256).filter fun g =>
    let w := cfg d .tkWgCfg g 0
    bit w 31 && decide (64 * fld w 22 6 + fld w 16 6 = k)

/-- Whether a line is line 63 of a recovery thread, which the device binds to DOLDRUMS (R154, R160). -/
def doldLine (d : Dev) (k l : Nat) : Bool := decide (l = 63) && !(recGroups d k).isEmpty

/-- TYPE and INDEX of a line's binding, as they are in force (R153). -/
def bindOf (d : Dev) (k l : Nat) : Nat × Nat :=
  let w := cfg d .rlEvtBind (k / 64) (64 * (k % 64) + l)
  if doldLine d k l then (9, 0) else (fld w 28 4, fld w 0 16)

/-- Whether line `l` of thread `k` is pending; an undelivered doldrums raise is on line 63 of its recovery thread (R160). -/
def linePending (d : Dev) (k l : Nat) : Bool :=
  (mget d.dr.pend (lineKey k l) none).isSome ||
    (decide (l = 63) && (recGroups d k).any fun g => (mget d.dr.raises g none).isSome)

/-- Make a line pending with an event word. -/
def setPend (d : Dev) (k l : Nat) (w : DWord) (src : Option Nat) : Dev :=
  { d with dr := { d.dr with pend := mput d.dr.pend (lineKey k l) (some ⟨w, src⟩) none } }

/-- Clear a pending line. -/
def clrPend (d : Dev) (k l : Nat) : Dev :=
  { d with dr := { d.dr with pend := mput d.dr.pend (lineKey k l) none none } }

/-- The lines of service threads bound to a source: those whose binding register names it. Only bindings that differ from
their reset value are listed, so one pass through the register words finds them. -/
def boundLines (d : Dev) (ty ix : Nat) : List (Nat × Nat) :=
  d.regs.act.filterMap fun e =>
    match locateIn e.1 .rlEvtBind with
    | some l =>
      let k := 64 * l.i + l.j / 64
      if fld e.2 28 4 = ty ∧ fld e.2 0 16 = ix ∧ isService d k ∧ ¬ doldLine d k (l.j % 64) then some (k, l.j % 64) else none
    | none => none

/-- Make every line bound to a source pending with one event word (R153). -/
def signalLines (d : Dev) (ty ix : Nat) (w : DWord) : Dev :=
  (boundLines d ty ix).foldl (fun d kl => setPend d kl.1 kl.2 w none) d

/-- Return the entry of a punt or waft line to the head of its queue (R155). Of several that return at one boundary the last to return
stands first (DESIGN CHOICE, log entry 280). -/
def returnEntry (d : Dev) (p : Pend) : Dev :=
  match p.source with
  | none => d
  | some q =>
    if q = 256 then { d with dr := { d.dr with waft := { d.dr.waft with entries := p.word :: d.dr.waft.entries } } }
    else
      let e := mget d.dr.punt q ⟨0, []⟩
      { d with dr := { d.dr with punt := mput d.dr.punt q { e with entries := p.word :: e.entries } ⟨0, []⟩ } }

/-- Clear a line's pending bit, giving back an entry it holds (R153, R155). -/
def dropPend (d : Dev) (k l : Nat) : Dev :=
  match mget d.dr.pend (lineKey k l) none with
  | none => d
  | some p => returnEntry (clrPend d k l) p

/-! ### Cipher attachment -/

/-- The status of CATT ATTACH of an association (R342, Table 12-5): the state array as it stands in the tick of issue. Only an
association with MODE ESP and DIR egress can be attached. -/
def cattStatus (d : Dev) (sa : Nat) : Nat :=
  let ctl := leNat (memRdN d.hbm (0xBC0000000 + 256 * sa) 4)
  let ok := decide (ctl % 8 = 1) && ctl.testBit 4 && ctl.testBit 9
  if !ok then 0x0D
  else match mget d.ci.st sa 0 with
    | 1 => 0x00
    | 2 => 0x10
    | 3 => 0x11
    | _ => 0x0D

/-! ### The end of a skein -/

/-- Release a thread's locks at the next boundary, with the poisoned flag or without (R119, R143). -/
def releaseLocks (d : Dev) (k : Nat) (poison : Bool) : Dev :=
  { d with dr := { d.dr with endings := d.dr.endings ++ [(k, poison)] } }

/-- Give a skein its verdict: it is releasable from the next boundary on (R48 to R50). -/
def ordEnd (d : Dev) (sk : Skein) (v : Verdict) : Dev :=
  { d with rl := { d.rl with ord := d.rl.ord.map fun e =>
      if e.skein.seq = sk.seq ∧ e.verdict = none then { e with verdict := some v } else e } }

/-- End the skein of a packet thread with a verdict; the thread becomes free at the next boundary (R40). `poison` tells a device
end from a verdict instruction (R119, R143). -/
def endSkein (d : Dev) (k : Nat) (v : Verdict) (poison : Bool) : Dev :=
  let t := thrOf d k
  match t.skein with
  | none => d
  | some sk => releaseLocks (putThr (ordEnd d sk v) k { t with run := .ended }) k poison

/-- Whether a thread holds a skein that has not ended. -/
def holdsSkein (t : Thread) : Bool := t.skein.isSome && t.run != .ended

/-- Record the first thread fault of a reel (R95): cause, thread, PC and word; a further one sets MORE. -/
def recordFault (d : Dev) (k cause pc : Nat) (word : Word) : Dev :=
  let r := k / 64
  let w := cur d .rlFaultInfo r 0
  if bit w 31 then setCur d .rlFaultInfo r 0 (setBit w 30 true)
  else
    let w := setBit (setBit (0 : Word) 31 true) 30 (bit w 30)
    let w := setFld (setFld (setFld w 22 6 (k % 64)) 16 6 cause) 0 16 (min pc 0xFFFF)
    setCur (setCur d .rlFaultInfo r 0 w) .rlFaultWord r 0 word

/-- A thread fault (R54 to R56, R95): it is recorded and THREAD_FAULT is raised. A packet thread's skein ends with
THREAD_FAULT (0x04). A service thread stops issuing and shows FAULTED and not HALTED; its locks are released poisoned. -/
def faultThread (d : Dev) (k cause pc : Nat) (word : Word) : Dev :=
  let d := raise (recordFault d k cause pc word) 1
  if isService d k then
    let t := thrOf d k
    let t := { t with dbg := { t.dbg with faulted := true, halted := false, step := false, cause := 4 } }
    let d := flag d .rlDbgCtl (k / 64) (k % 64) 0 false
    releaseLocks (putThr d k t) k true
  else endSkein d k (.devDrop 0x04) true

end Sys2Proof.Machine
end

