-- ==== Sys2Proof/Machine/SwBase.lean ====
section
/-! DEFINITION. The packet buffer and admission: occupancies (R222 to R226), the arbiters' LFSRs (R234, R235), bonds and pins
(R16, R238), WRED and ECN (R248 to R250), and the admission of one copy (R227). -/

namespace Sys2Proof.Machine

/-! ### Frames and copies -/

/-- The parts that boot service leaves out are in service: phase FULL (R495, R503). -/
def inFull (d : Dev) : Bool := decide (d.ct.phase = .full)

/-- A frame. -/
def frameOf (d : Dev) (f : Nat) : Option Frame := mget d.sw.frames f none

/-- Store a frame. -/
def putFrame (d : Dev) (f : Nat) (x : Option Frame) : Dev := { d with sw := { d.sw with frames := mput d.sw.frames f x none } }

/-- A copy. -/
def copyOf (d : Dev) (c : Nat) : Option Copy := mget d.sw.copies c none

/-- Store a copy. -/
def putCopy (d : Dev) (c : Nat) (x : Option Copy) : Dev := { d with sw := { d.sw with copies := mput d.sw.copies c x none } }

/-- All copies with their numbers, in the order of their admission. -/
def allCopies (d : Dev) : List (Nat × Copy) := d.sw.copies.filterMap fun e => e.2.map fun c => (e.1, c)

/-- All frames with their numbers. -/
def allFrames (d : Dev) : List (Nat × Frame) := d.sw.frames.filterMap fun e => e.2.map fun f => (e.1, f)

/-- Cells of a frame of `L` bytes (R222). -/
def cellsOf (L : Nat) : Nat := ceilDiv L 256

/-- Cells that a copy takes: the frame's, once its end has arrived; the count of R231 before. -/
def copyCells (d : Dev) (c : Copy) : Nat :=
  match frameOf d c.frame with
  | some f => if f.whole then cellsOf f.bytes.length else c.n
  | none => c.n

/-- A copy as admission is given it. -/
def Copy.start (frame input dest cls n res adm : Nat) (kind : CKind) : Copy :=
  { frame := frame, input := input, dest := dest, cls := cls, n := n, res := res, crossed := 0, adm := adm, ct := false, ce := false, l3 := 0,
    kind := kind, edits := [], hv := [], catt := none, pin := none, first := none, out := none, full := 0, outAt := 0, ptp := none,
    prot := false, tx := none, started := false, sent := 0, inverted := false, refr := none, heldAt := none, place := none, fan := none, into := [] }

/-- Cells of a copy that have not crossed. -/
def copyLeft (d : Dev) (c : Copy) : Nat := copyCells d c - c.crossed

/-- Cells that a frame's bytes have drawn (R222): the complete ones, and the one that its next byte goes into. A frame in an ingress cluster
has drawn none. -/
def cellsDrawn (f : Frame) : Nat :=
  if f.whole || decide (f.st = .cipher) then f.got else min (f.got + 1) (cellsOf f.bytes.length)

/-- Physical cells that a frame holds (R222): none once its verdict is released and its last admitted copy has crossed. -/
def frameHeld (d : Dev) (id : Nat) (f : Frame) : Nat :=
  if (f.released || d.bs.inq.any fun x => x.2 = id) && (allCopies d).all (fun e => decide (e.2.frame ≠ id) || decide (copyLeft d e.2 = 0)) then 0
  else max (cellsDrawn f) f.resv

/-- USE of an input (R226). -/
def inputUse (d : Dev) (i : Nat) : Nat :=
  ((allFrames d).filter fun e => e.2.input = i).foldl (fun n e => n + frameHeld d e.1 e.2) 0

/-- Free cells of the device-wide pool (R222, R223). -/
def freeCells (d : Dev) : Nat := 393216 - (allFrames d).foldl (fun n e => n + frameHeld d e.1 e.2) 0

/-- RXMAX of an input; 0 acts as 1. -/
def rxmaxOf (d : Dev) (i : Nat) : Nat := orIf0 (cfgF d .swInPart i 0 24 6) 1

/-- Whether an input takes a new frame (R223). -/
def canTake (d : Dev) (i : Nat) : Bool :=
  decide (inputUse d i + rxmaxOf d i ≤ cfgF d .swInPart i 0 0 19) && decide (rxmaxOf d i ≤ freeCells d)

/-- A frame with nothing arrived yet. -/
def Frame.start (input : Nat) (bytes : List Byte) : Frame :=
  { input := input, bytes := bytes, got := 0, whole := false, resv := 0, bad := false, trunc := false, st := .receiving,
    flow := 0, esp := none, macsec := false, cls := none, bkt := none, md := 0, ts := none, passes := 0, lenChange := false, est := none,
    src := none, released := false }

/-- A frame that is whole in the packet buffer. -/
def Frame.wholeFrame (input : Nat) (bytes : List Byte) : Frame :=
  { Frame.start input bytes with got := cellsOf bytes.length, whole := true }

/-- The truncation of a frame at RXMAX cells (R223): a frame that is whole is bad at once, any other with its last byte. -/
def rxCut (d : Dev) (f : Frame) : Frame :=
  let m := 256 * rxmaxOf d f.input
  if m < f.bytes.length then
    { f with bytes := f.bytes.take m, got := min f.got (rxmaxOf d f.input), trunc := true, bad := f.bad || f.whole }
  else f

/-- Bring in a frame under R223: the number it gets, or a count in SW_IN_RXDROP. -/
def takeFrame (d : Dev) (f : Frame) : Dev × Option Nat :=
  if !canTake d f.input then (count d .swInRxdrop f.input 0, none)
  else
    let f := rxCut d f
    let id := d.sw.nextFrame
    ({ putFrame d id (some f) with sw := { (putFrame d id (some f)).sw with nextFrame := id + 1 } }, some id)

/-- Remove a frame that is released and of which no copy is left. -/
def reapFrame (d : Dev) (id : Nat) : Dev :=
  match frameOf d id with
  | none => d
  | some f => if f.released && (allCopies d).all (fun e => decide (e.2.frame ≠ id)) then putFrame d id none else d

/-! ### What port receive reads of a frame -/

/-- Position of the IP header behind Ethernet with 0-2 VLAN tags: EtherType and offset. -/
def l3Pos (bs : List Byte) : Nat × Nat :=
  let e (o : Nat) : Nat := beNat (sliceD 0 bs o 2)
  let vlan (x : Nat) : Bool := decide (x = 0x8100) || decide (x = 0x88A8)
  if vlan (e 12) then (if vlan (e 16) then (e 20, 22) else (e 16, 18)) else (e 12, 14)

/-- Bytes over which port receive hashes a frame's flow (R47 does not list the flow fields): addresses and EtherType, and for IP the
protocol, the addresses and the ports. -/
def flowFields (bs : List Byte) : List Nat :=
  let (et, o) := l3Pos bs
  let g (a n : Nat) : List Nat := (sliceD 0 bs a n).map fun (b : Byte) => b.toNat
  if et = 0x0800 then g (o + 9) 1 ++ g (o + 12) 8 ++ g (o + 20) 4
  else if et = 0x86DD then g (o + 6) 1 ++ g (o + 8) 32 ++ g (o + 40) 4
  else g 0 14

/-- Bits [13:0] of the flow hash (R47, R182). -/
def flowHash (d : Dev) (bs : List Byte) : Nat := Config.keyedHash 47 d.ct.epoch (flowFields bs) % 2 ^ 14

/-- Whether a frame's last four bytes are its FCS. -/
def fcsGood (bs : List Byte) : Bool :=
  decide (4 ≤ bs.length) && decide (bs.drop (bs.length - 4) = fcsOf (bs.take (bs.length - 4)))

/-- A frame without its FCS. -/
def noFcs (bs : List Byte) : List Byte := bs.take (bs.length - 4)

/-! ### Occupancies -/

/-- Depth of a VOQ (R226). -/
def voqDepth (d : Dev) (i dst cls : Nat) : Nat :=
  ((allCopies d).filter fun e => e.2.input = i && e.2.dest = dst && e.2.cls = cls).foldl (fun n e => n + copyLeft d e.2) 0

/-- Class occupancy Q(i, c) (R226). -/
def classUse (d : Dev) (i cls : Nat) : Nat :=
  ((allCopies d).filter fun e => e.2.input = i && e.2.cls = cls).foldl (fun n e => n + copyLeft d e.2) 0

/-- Depth toward a destination. -/
def destDepth (d : Dev) (dst : Nat) : Nat :=
  ((allCopies d).filter fun e => e.2.dest = dst).foldl (fun n e => n + copyLeft d e.2) 0

/-! ### Arbiters -/

/-- One draw of the random bit generator (R417). -/
def draw64 (d : Dev) : Dev × DWord := ({ d with rng := d.rng + 1 }, Config.draw d.rng)

/-- One step of the LFSR with polynomial x^64 + x^63 + x^61 + x^60 + 1: the output bit is bit 63. -/
def lfsrStep (s : DWord) : DWord × Bool :=
  let fb := (bit s 63 != bit s 62) != (bit s 60 != bit s 59)
  ((s <<< 1) ||| (if fb then 1 else 0), bit s 63)

/-- `n` output bits, the first the most significant. -/
def lfsrBits : Nat → DWord → Nat → DWord × Nat
  | 0, s, x => (s, x)
  | n + 1, s, x =>
    let r := lfsrStep s
    lfsrBits n r.1 (2 * x + b2n r.2)

/-- The seed that device reset gave an LFSR (R235), read down at its first use, whatever has become of the generator since. -/
def lfsrFirst (d : Dev) (l : Lfsr) : Dev × Lfsr :=
  if l.first then
    let x := draw64 d
    (x.1, ⟨x.2, 0, decide (x.2 = 0), false⟩)
  else (d, l)

/-- LFSR_RESEED (R235, R417): one that is due, after 2^20 draws or an all-zero seed, takes a new seed and is counted; an all-zero seed is
not loaded, and after a generator failure the seed in use stays. -/
def lfsrReseed (d : Dev) (l : Lfsr) : Dev × Lfsr :=
  if l.due && !d.ct.trngFail then
    let x := draw64 d
    (count x.1 .swEvtCnt 4 0, if x.2 = 0 then l else ⟨x.2, 0, false, false⟩)
  else (d, l)

/-- Take `n` bits from an arbiter's LFSR (R234, R235, R249). -/
def lfsrDraw (d : Dev) (a n : Nat) : Dev × Nat :=
  let (d, l) := lfsrFirst d (mget d.sw.lfsr a Lfsr.reset)
  let (d, l) := lfsrReseed d l
  let r := lfsrBits n l.s 0
  let l : Lfsr := ⟨r.1, l.n + 1, l.due || decide (2 ^ 20 ≤ l.n + 1), false⟩
  ({ d with sw := { d.sw with lfsr := mput d.sw.lfsr a l Lfsr.reset } }, r.2)

/-- The first of a list whose cumulative tickets exceed `r`. -/
def ticketPick {α : Type} : List (α × Nat) → Nat → Option α
  | [], _ => none
  | (x, t) :: xs, r => if r < t then some x else ticketPick xs (r - t)

/-- A draw among requesters, listed in their order (R234): those with 0 tickets take part only when no other requests. -/
def lottery {α : Type} (d : Dev) (arb : Nat) (rs : List (α × Nat)) : Dev × Option α :=
  if rs.isEmpty then (d, none)
  else
    let nz := rs.filter fun r => r.2 ≠ 0
    let rs := if nz.isEmpty then rs.map fun r => (r.1, 1) else nz
    let T := rs.foldl (fun n r => n + r.2) 0
    let (d, x) := lfsrDraw d arb 32
    (d, ticketPick rs (x * T / 2 ^ 32))

/-! ### Bonds -/

/-- Mode in force of a network port (R18). -/
def modeOf (d : Dev) (x : Nat) : Nat := mget d.sw.mode x 2

/-- Members of the port that a destination or input below 25 belongs to (Table 1-4). -/
def membersOf (d : Dev) (p : Nat) : List Nat :=
  if 16 ≤ p then [p]
  else match modeOf d (p / 4) with
    | 0 => [p]
    | 1 => [p / 2 * 2, p / 2 * 2 + 1]
    | _ => [p / 4 * 4, p / 4 * 4 + 1, p / 4 * 4 + 2, p / 4 * 4 + 3]

/-- The lowest member of a port. -/
def lowMember (d : Dev) (p : Nat) : Nat := (membersOf d p).headD p

/-- State of a destination (R246): by its port; D25-D31 are always up. -/
def destState (d : Dev) (dst : Nat) : DState := if 25 ≤ dst then .up else mget d.sw.dst (lowMember d dst) .up

/-- Whether a destination is frozen (R237). -/
def frozen (d : Dev) (dst : Nat) : Bool := decide (dst < 30) && cfgB d .swDestCtl dst 0 0

/-- A pin. -/
def pinOf (d : Dev) (i q : Nat) : Option Pin := mget d.sw.pins (4096 * i + q) none

/-- Store a pin. -/
def putPin (d : Dev) (i q : Nat) (p : Pin) : Dev := { d with sw := { d.sw with pins := mput d.sw.pins (4096 * i + q) (some p) none } }

/-- The member a re-pin takes (R238): not frozen, least depth at the last boundary, ties by a keyed hash. Where every member is
frozen, all are candidates. -/
def choosePin (d : Dev) (ms : List Nat) (i q : Nat) : Nat :=
  let live := ms.filter fun m => !frozen d m
  let live := if live.isEmpty then ms else live
  let depth (m : Nat) : Nat := fld (cur d .swDestDepth m 0) 0 19
  let best := live.foldl (fun b m => min b (depth m)) (2 ^ 32)
  let ties := live.filter fun m => depth m = best
  ties.getD (Config.keyedHash 238 d.ct.epoch [i, q] % ties.length) 0

/-- BOND_PIN (R238): the member toward which a copy from bucket `q` of input `i` goes, and the pin with the copy counted. -/
def bondPin (d : Dev) (i q dst : Nat) : Dev × Nat :=
  let ms := membersOf d dst
  let gap := cfgF d .swBondCfg 0 0 0 16
  let stay : Option Pin := match pinOf d i q with
    | none => none
    | some p =>
      let idle := decide (p.cnt = 0) && (match p.last with | some t => decide (t + gap ≤ d.tick) | none => true)
      if ms.length ≤ p.idx ∨ idle then none else some p
  match stay with
  | some p => (putPin d i q { p with cnt := p.cnt + 1, last := some d.tick }, ms.getD p.idx dst)
  | none =>
    let m := choosePin d ms i q
    let idx := ms.idxOf m
    let old := pinOf d i q
    let d := match old with
      | some p => if p.idx = idx then d else count d .swEvtCnt 0 0
      | none => d
    let cnt := match old with | some p => p.cnt | none => 0
    (putPin d i q ⟨idx, cnt + 1, some d.tick⟩, m)

/-- A copy that its pin counted has left or was refused (R238). -/
def unpin (d : Dev) (i : Nat) : Option Nat → Dev
  | none => d
  | some q => match pinOf d i q with
    | none => d
    | some p => putPin d i q { p with cnt := p.cnt - 1 }

/-- The pin of a copy stops counting it once its last cell has reached the egress (R238). -/
def pinDone (id : Nat) (d : Dev) : Dev :=
  match copyOf d id with
  | none => d
  | some c =>
    if c.pin.isSome && decide (copyCells d c ≤ c.crossed) then putCopy (unpin d c.input c.pin) id (some { c with pin := none }) else d

/-! ### WRED -/

/-- WRED profile of a VOQ. -/
def voqProfile (d : Dev) (i dst cls : Nat) : Nat := cfgF d .swVoqCfg i (8 * dst + cls) 20 3

/-- Key of a VOQ's average. -/
def voqKey (i dst cls : Nat) : Nat := 256 * i + 8 * dst + cls

/-- Average depth A in units of 2^-8 cell (R248). -/
def avgOf (d : Dev) (k : Nat) : Nat := mget d.sw.avg k 0

/-- One averaging step (R248): A + (D - A) / 2^WEIGHT in units of 2^-8 cell; how it rounds is not stated. -/
def avgStep (a depth w : Nat) : Nat :=
  let x : Int := (256 * depth : Nat) - (a : Int)
  let q := x / (2 ^ w : Nat)
  let q := if x % (2 ^ w : Nat) ≠ 0 ∧ Config.avgRoundUp (a + 256 * depth) w then q + 1 else q
  ((a : Int) + q).toNat

/-- WRED_AVERAGE (R248) of every VOQ that holds cells or has an average. -/
def wredAverage (d : Dev) : Dev :=
  let ks := (mkeys d.sw.avg ++ (allCopies d).map fun e => voqKey e.2.input e.2.dest e.2.cls).eraseDups
  ks.foldl (fun d k =>
    let i := k / 256
    let dst := k % 256 / 8
    let cls := k % 8
    let w := cfgF d .scWredCfg (voqProfile d i dst cls) 0 0 4
    { d with sw := { d.sw with avg := mput d.sw.avg k (avgStep (avgOf d k) (voqDepth d i dst cls) w) 0 } }) d

/-- Drop probability of a curve in units of 2^-16 (R249), with A in units of 2^-8 cell. -/
def wredProb (curve : DWord) (a : Nat) : Nat :=
  let mn := 256 * fld curve 0 19
  let mx := 256 * fld curve 19 19
  let mp := min 256 (fld curve 38 9)
  if mx ≤ mn then (if mn ≤ a then 65536 else 0)
  else if a < mn then 0
  else if mx ≤ a then 65536
  else 256 * mp * (a - mn) / (mx - mn)

/-- WRED_DECISION (R249, R250) for one copy of a colour: dropped, admitted, or admitted with a CE mark. -/
inductive Wred where
  | pass | mark | drop
  deriving DecidableEq, Repr

/-- The curve's decision; every copy under an enabled curve takes 16 bits of its input's WRED LFSR. -/
def wredDecide (d : Dev) (i dst cls colour : Nat) (ecnCapable : Bool) : Dev × Wred :=
  let curve := cfg64 d .scWredCurve (voqProfile d i dst cls) (min colour 2)
  if !bit curve 63 then (d, .pass)
  else
    let p := wredProb curve (avgOf d (voqKey i dst cls))
    let (d, u) := lfsrDraw d (64 + i) 16
    if u < p then (d, if bit curve 62 && ecnCapable then .mark else .drop) else (d, .pass)

/-! ### Admission -/

/-- A refused or dropped copy (R227): counted in SW_ADM_DROP and SW_IN_DROP. -/
def admDrop (d : Dev) (i dst cls reason : Nat) : Dev := count (count d .swAdmDrop dst reason) .swInDrop i cls

/-- VOQ_ADMISSION (R227) of one copy: the checks in order; an admitted copy is stamped with the tick count. The answer holds its
number. -/
def admitCopy (d : Dev) (c : Copy) (colour : Nat) (ecnCapable : Bool) : Dev × Option Nat :=
  let refuse (d : Dev) (r : Nat) : Dev × Option Nat := (unpin (admDrop d c.input c.dest c.cls r) c.input c.pin, none)
  let v := 8 * c.dest + c.cls
  if destState d c.dest = .down then refuse d 3
  else if cfgF d .swVoqCfg c.input v 0 19 < voqDepth d c.input c.dest c.cls + c.n then refuse d 0
  else if cfgF d .swClassMax c.input c.cls 0 19 < classUse d c.input c.cls + c.n then refuse d 1
  else
    let (d, w) := wredDecide d c.input c.dest c.cls colour ecnCapable
    if w = .drop then refuse d 2
    else
      let d := if w = .mark then count d .scEcnMark c.dest 0 else d
      let id := d.sw.nextCopy
      let c := { c with adm := d.tick, ce := decide (w = .mark) }
      let d := putCopy d id (some c)
      let d := { d with sw := { d.sw with nextCopy := id + 1 } }
      let h := voqDepth d c.input c.dest c.cls / 64
      let st := cur d .swVoqStatus c.input v
      (setCur d .swVoqStatus c.input v (setFld st 19 13 (max (fld st 19 13) (min h 8191))), some id)

end Sys2Proof.Machine
end

