-- ==== Sys2Proof/Machine/LinkBase.lean ====
section
/-! DEFINITION. Requests to host memory and records toward an endpoint, as the requesters issue them (R289, R297, R299). -/

namespace Sys2Proof.Machine

/-- A host link. -/
def linkOf (d : Dev) (h : Nat) : Link := mget d.hp.links h Link.reset

/-- Store a host link. -/
def putLink (d : Dev) (h : Nat) (l : Link) : Dev := { d with hp := { d.hp with links := mput d.hp.links h l Link.reset } }

/-- A vport, by its page number 256 × h + v. -/
def vportOf (d : Dev) (p : Nat) : Vport := mget d.hp.vports p Vport.reset

/-- Store a vport. -/
def putVport (d : Dev) (p : Nat) (v : Vport) : Dev :=
  { d with hp := { d.hp with vports := mput d.hp.vports p v Vport.reset } }

/-- Key of a queue. -/
def qkey (kind q : Nat) : Nat := 65536 * kind + q

/-- A queue. -/
def queueOf (d : Dev) (kind q : Nat) : Queue := mget d.hp.queues (qkey kind q) Queue.reset

/-- Store a queue. -/
def putQueue (d : Dev) (kind q : Nat) (x : Queue) : Dev :=
  { d with hp := { d.hp with queues := mput d.hp.queues (qkey kind q) x Queue.reset } }

/-- A bobbin. -/
def bobOf (d : Dev) (b : Nat) : Bobbin := mget d.hp.bobbins b Bobbin.reset

/-- Store a bobbin. -/
def putBob (d : Dev) (b : Nat) (x : Bobbin) : Dev :=
  { d with hp := { d.hp with bobbins := mput d.hp.bobbins b x Bobbin.reset } }

/-- Reissues of a request of the pool (R331). -/
def poolRetry (d : Dev) : Nat := cfgF d .bbCfg 0 0 16 4

/-- Cut a range of host memory at 4 KiB boundaries (R289): offset, address and length of each piece, at most `fuel` of them. -/
def pieces : Nat → Nat → Nat → Nat → List (Nat × Nat × Nat)
  | 0, _, _, _ => []
  | fuel + 1, off, iova, len =>
    if len = 0 then []
    else
      let n := min len (4096 - iova % 4096)
      (off, iova, n) :: pieces fuel (off + n) (iova + n) (len - n)

/-- Issue a request; it waits for a tag. -/
def issueReq (d : Dev) (h : Nat) (r : Req) : Dev :=
  let l := linkOf d h
  putLink d h { l with reqs := l.reqs ++ [r] }

/-- A read of a range. -/
def issueRead (d : Dev) (p iova len tries : Nat) (who : Nat → Who) : Dev × Nat :=
  let ps := pieces (len / 4096 + 2) 0 iova len
  (ps.foldl (fun d x => issueReq d (p / 256) ⟨p % 256, false, x.2.1, x.2.2, [], who x.1, tries, none, none, []⟩) d, ps.length)

/-- A write of bytes. -/
def issueWrite (d : Dev) (p iova : Nat) (bs : List Byte) (tries : Nat) (who : Nat → Who) : Dev × Nat :=
  let ps := pieces (bs.length / 4096 + 2) 0 iova bs.length
  (ps.foldl (fun d x =>
    issueReq d (p / 256) ⟨p % 256, true, x.2.1, x.2.2, (bs.drop x.1).take x.2.2, who x.1, tries, none, none, []⟩) d, ps.length)

/-- Requests of a vport that are waiting or outstanding. -/
def vportReqs (d : Dev) (p : Nat) : List Req := (linkOf d (p / 256)).reqs.filter fun r => r.vport = p % 256

/-- Queue a record toward an endpoint. -/
def queueRec (d : Dev) (h : Nat) (r : ORec) : Dev :=
  let l := linkOf d h
  putLink d h { l with outq := l.outq ++ [r] }

/-- Raise a signal on a vector of a vport (R326): a masked vector sets PENDING; SIGs of one vector that meet merge. -/
def sendSig (d : Dev) (p vec : Nat) : Dev :=
  let w := cur d .vpSigCfg p vec
  if bit w 0 then setCur d .vpSigCfg p vec (setBit w 1 true)
  else
    let r := ORec.sig (p % 256) vec
    if r ∈ (linkOf d (p / 256)).outq then d else queueRec d (p / 256) r

/-- One more event `k` of a vport's counters (Table 11-26). -/
def vpCountN (d : Dev) (p k n : Nat) : Dev := if n = 0 then d else stat64 d .vpCnt p k n .ftVpWrap (p / 32) (p % 32)

/-- One more event `k` of a vport's counters. -/
def vpCount (d : Dev) (p k : Nat) : Dev := vpCountN d p k 1

end Sys2Proof.Machine
end

