-- ==== Sys2Proof/Machine/Copies.lean ====
section
/-! DEFINITION. How a copy leaves the device: its pin, the FCS and the port it goes to, the frame that a recirculation port makes of it, and
what becomes of an edited copy whose frame's last bytes come, or fail to come, after the edit (R21, R23, R178, R238). -/

namespace Sys2Proof.Machine

/-- SW_CT_ABORT of a destination (R23, Tables 1-8 and 1-9). -/
def ctAbort (d : Dev) (dst : Nat) : Dev :=
  if 28 < dst then d
  else
    let d := count32 d .swCtAbort dst 0
    if (cur d .swCtAbort dst 0).toNat = 0xFFFFFFFF then flag d .swCtAbortSat 0 0 dst true else d

/-- The port a destination belongs to, as a gang link (R458): its sub-port. -/
def gangPort (d : Dev) (dst : Nat) : Option Nat :=
  if dst < 16 ∧ cfgB d .ggPort 0 0 (lowMember d dst) then some (lowMember d dst) else none

/-- The FCS that the device appends to a frame (R178): inverted where the frame ends bad (R23). -/
def fcsSent (bs : List Byte) (inverted : Bool) : List Byte := if inverted then (fcsOf bs).map (~~~·) else fcsOf bs

/-- A frame leaves through a port with its new FCS: on a gang link in a GFRAME record (R458). -/
def sendOut (d : Dev) (dst : Nat) (bs : List Byte) (inverted : Bool) : Dev :=
  match gangPort d dst with
  | some n => if inverted then d else queueRec d (8 + n) (.gframe bs)
  | none => emit d (.frame (if dst < 16 then lowMember d dst else dst) (bs ++ fcsSent bs inverted))

/-- Whether port transmit of a network port or the control port still sends a started copy, whose FCS it appends (R23, R237). -/
def onWire (c : Copy) : Bool :=
  decide (c.dest < 16 ∨ c.dest = 24) && c.started && decide (c.sent < (c.out.getD []).length + 4)

/-- A copy whose last cell has crossed, that has been sent, and whose timestamp point has passed has left (R178, R452). -/
def finishCopy (id : Nat) (d : Dev) : Dev :=
  let d := pinDone id d
  match copyOf d id with
  | none => d
  | some c =>
    if c.crossed < copyCells d c || !c.started || c.ptp.isSome || onWire c then d
    else
      let d := match c.out with
        | some bs => if c.dest < 16 ∨ c.dest = 24 then sendOut d c.dest bs c.inverted else d
        | none => d
      reapFrame (putCopy d id none) c.frame

/-- What the editor made of a frame, once the frame's last `k` bytes turn out to be `tail`: the edits lie in front of them. -/
def newTail (c : Copy) (k : Nat) (tail : List Byte) : Copy :=
  { c with out := c.out.map fun bs => (bs.take (c.full - k) ++ tail).take bs.length, full := c.full - k + tail.length }

/-- The last `k` bytes of a frame, without its FCS, turn out to be `tail`: its edited copies follow. -/
def retail (id k : Nat) (tail : List Byte) (d : Dev) : Dev :=
  ((allCopies d).filter fun e => e.2.frame = id).foldl (fun d e => putCopy d e.1 (some (newTail e.2 k tail))) d

/-- A frame that was made of a recirculated copy follows its cells (R21); `whole` ends it with the copy's last cell, with the inverted FCS
of a copy that ended bad. -/
def refrFollow (whole : Nat → Bool → Dev → Dev) (c : Copy) (d : Dev) : Dev :=
  match c.refr, c.out with
  | some f, some bs => match frameOf d f with
    | some x =>
      if x.whole then d
      else if copyCells d c ≤ c.crossed then
        let full := bs ++ fcsSent bs c.inverted
        let full := if x.trunc then full.take x.bytes.length else full
        whole f c.inverted (retail f (x.bytes.length - full.length) [] (putFrame d f (some { x with bytes := full })))
      else putFrame d f (some { x with got := min (max c.crossed x.got) (cellsOf x.bytes.length - 1) })
    | none => d
  | _, _ => d

/-- What follows from the cells of a copy that have crossed. -/
def copyOn (whole : Nat → Bool → Dev → Dev) (id : Nat) (d : Dev) : Dev :=
  match copyOf d id with
  | none => d
  | some c => finishCopy id (refrFollow whole c d)

end Sys2Proof.Machine
end

