-- ==== Sys2Proof/Machine/Vport.lean ====
section
/-! DEFINITION. Vports, rings and queues (chapter 11): ranges, places, completion entries, doorbells, jobs and their entries,
fragment lists, queue contexts, orphaning. -/

namespace Sys2Proof.Machine

/-! ### Ranges -/

/-- First global queue and count of a kind for a vport page (VP_CFG, VP_QRANGE). -/
def kindRange (d : Dev) (p kind : Nat) : Nat × Nat :=
  let r := cur64 d .vpQrange p 0
  let c := cur d .vpCfg p 0
  match kind with
  | 0 => (fld r 0 15, fld r 16 7)
  | 1 => (fld r 24 15, fld r 40 7)
  | _ => (fld c 3 14, fld c 17 7)

/-- Isolation domain of a vport. -/
def vpDomain (d : Dev) (p : Nat) : Nat := fld (cur d .vpCfg p 0) 24 8

/-- Whether a vport is of the full class. -/
def vpFull (d : Dev) (p : Nat) : Bool := bit (cur d .vpCfg p 0) 0

/-- The global number of a vport's queue. -/
def globalQ (d : Dev) (p kind i : Nat) : Option Nat :=
  let (b, n) := kindRange d p kind
  if i < n then some (b + i) else none

/-- The vport that owns a queue. -/
def ownerOf (d : Dev) (kind q : Nat) : Option Nat :=
  (mkeys d.hp.vports).find? fun p =>
    let (b, n) := kindRange d p kind
    decide ((vportOf d p).st ≠ .off) && decide (b ≤ q) && decide (q < b + n)

/-- All global queues of a vport, with their kinds. -/
def vportQueues (d : Dev) (p : Nat) : List (Nat × Nat) :=
  [0, 1, 2].flatMap fun kind =>
    let (b, n) := kindRange d p kind
    (List.range n).map fun i => (kind, b + i)

/-! ### Contexts -/

/-- Ring size in entries or units. -/
def qSize (x : Queue) : Nat := 2 ^ fld x.w2 0 5

/-- Bound completion queue. -/
def qCq (x : Queue) : Nat := fld x.w2 16 14

/-- Whether a queue is of TYPE NVMe. -/
def qNvme (x : Queue) : Bool := bit x.w2 5

/-- Signal vector of a completion queue. -/
def qVec (x : Queue) : Nat := fld x.w2 32 6

/-- STALL_LIMIT in ticks: a microsecond is 31.25 ticks. -/
def qStall (x : Queue) : Nat := ceilDiv (125 * fld x.w2 40 20) 4

/-- Difference of two 32-bit indices. -/
def idxSub (a b : Nat) : Nat := (a + 2 ^ 32 - b % 2 ^ 32) % 2 ^ 32

/-- Whether a queue is in service. -/
def qLive (x : Queue) : Bool := decide (x.st = .active) || decide (x.st = .stalled)

/-- Put a queue in ERROR (R314). -/
def queueError (d : Dev) (kind q cause : Nat) : Dev :=
  let x := queueOf d kind q
  raise (putQueue d kind q { x with st := .error, cause := cause }) 12

/-! ### Completion queues -/

/-- Whether a completion queue has a place to give (R323); one in ERROR gives places on, since no other queue is affected (R314). -/
def placeFree (d : Dev) (c : Nat) : Bool :=
  let x := queueOf d 2 c
  decide (x.st ≠ .off) && decide (idxSub x.dev x.host + x.places < qSize x + 64)

/-- Take a place. -/
def takePlace (d : Dev) (c : Nat) : Dev :=
  let x := queueOf d 2 c
  putQueue d 2 c { x with places := x.places + 1 }

/-- Give a place back. -/
def givePlace (d : Dev) (c : Nat) : Dev :=
  let x := queueOf d 2 c
  putQueue d 2 c { x with places := x.places - 1 }

/-- H of a send or receive queue passes the entries, in ring order, whose completion entries have been written (R311). -/
def headOn : Nat → Queue → Queue
  | 0, x => x
  | n + 1, x => match x.passing with
    | [] => x
    | v :: vs =>
      if v ∈ x.passed then headOn n { x with passing := vs, passed := x.passed.filter (· ≠ v), dev := v } else x

/-- The completion entry that lets H go to `v` has been written, to the ring or the reserve (R311, R390). -/
def passHead (d : Dev) : Option (Nat × Nat × Nat) → Dev
  | none => d
  | some (kind, q, v) =>
    let x := queueOf d kind q
    putQueue d kind q (headOn x.passing.length { x with passed := v :: x.passed })

/-- Where H of a queue stands once every completion entry under way has been written. -/
def headDue (x : Queue) : Nat := x.passing.getLast?.getD x.dev

/-- The 16 bytes of a completion entry at an index (Table 11-10); a block-service entry carries the phase in byte 14, bit 0. -/
def cqeBytes (e : CEnt) (size idx : Nat) : List Byte :=
  let phase := 1 - idx / size % 2
  if e.raw.isEmpty then
    leBytes 1 (e.kind + 128 * phase) ++ leBytes 1 e.status ++ leBytes 2 e.queue ++ leBytes 4 e.index ++ leBytes 4 e.len ++ leBytes 4 e.tag
  else overwrite e.raw 14 [setBit (e.raw.getD 14 0) 0 (phase = 1)]

/-- Write a completion entry into the ring. -/
def cqWrite (d : Dev) (c : Nat) (e : CEnt) : Dev :=
  let x := queueOf d 2 c
  let posted := match e.src with | some s => mset x.posted x.dev s | none => x.posted
  let d := putQueue d 2 c { x with dev := (x.dev + 1) % 2 ^ 32, places := x.places - 1, posted := posted }
  match ownerOf d 2 c with
  | none => d
  | some p =>
    (issueWrite d p ((x.w0.toNat + 16 * (x.dev % qSize x)) % 2 ^ 64) (cqeBytes e (qSize x) x.dev) (poolRetry d)
      (fun _ => .cqe c x.dev)).1

/-- A completion entry goes into the ring where it has room, otherwise into the reserve (R323); a queue whose reserve holds an entry
is stalling (R325). -/
def cqPush (d : Dev) (c : Nat) (e : CEnt) : Dev :=
  let x := queueOf d 2 c
  if x.reserve.isEmpty && decide (idxSub x.dev x.host < qSize x) then cqWrite d c e
  else passHead (putQueue d 2 c { x with reserve := x.reserve ++ [{ e with src := none }], stall := some (x.stall.getD d.tick) }) e.src

/-- Move reserve entries into the ring while it has room (R323). -/
def cqDrain (c : Nat) : Nat → Dev → Dev
  | 0, d => d
  | n + 1, d =>
    let x := queueOf d 2 c
    match x.reserve with
    | [] => d
    | e :: es =>
      if idxSub x.dev x.host < qSize x then
        let st := if es.isEmpty ∧ x.st = .stalled then .active else x.st
        let x := { x with reserve := es, stall := if es.isEmpty then none else x.stall, st := st }
        cqDrain c n (cqWrite (putQueue d 2 c x) c e)
      else d

/-- CQ_STALL (R325): stalling continuously for STALL_LIMIT. -/
def cqStall (c : Nat) (d : Dev) : Dev :=
  let x := queueOf d 2 c
  match x.stall with
  | none => d
  | some t =>
    if x.st = .active && decide (t + qStall x ≤ d.tick) then
      let d := raise (putQueue d 2 c { x with st := .stalled }) 13
      match ownerOf d 2 c with
      | some p => sendSig (vpCount d p 10) p (qVec x)
      | none => d
    else d

/-- How many of the entries written to a ring run contiguously with their writes done. -/
def cqVisible (x : Queue) : Nat → Queue
  | 0 => x
  | n + 1 =>
    if x.visible ∈ x.doneSet then
      cqVisible { x with visible := (x.visible + 1) % 2 ^ 32, doneSet := x.doneSet.filter (· ≠ x.visible) } n
    else x

/-- CQ_ARMED_SIGNAL (R326): an armed queue with a visible entry beyond the doorbell's head whose index write is done sends one SIG. -/
def cqArmed (d : Dev) (c : Nat) : Dev :=
  let x := queueOf d 2 c
  match x.arm with
  | none => d
  | some hd =>
    let beyond (v : Nat) : Bool := decide (idxSub v hd ≠ 0) && decide (idxSub v hd < 2 ^ 31)
    if qLive x && beyond x.visible && beyond x.idxDone then
      match ownerOf d 2 c with
      | some p => sendSig (putQueue d 2 c { x with arm := none }) p (qVec x)
      | none => d
    else d

/-- DEVICE_INDEX_WRITE (R329): a changed device index is written into bytes 4-7 of the index block; that of a completion queue once
its new entries' writes are done. -/
def idxWrite (d : Dev) (kind q : Nat) : Dev :=
  let x := queueOf d kind q
  let v := if kind = 2 then x.visible else x.dev
  if x.st = .off ∨ v = x.idxSent then d
  else match ownerOf d kind q with
    | none => d
    | some p =>
      let d := putQueue d kind q { x with idxSent := v }
      (issueWrite d p ((x.w1.toNat + 4) % 2 ^ 64) (leBytes 4 v) (poolRetry d) (fun _ => .idxWr kind q v)).1

/-! ### Doorbells -/

/-- A DB record at the boundary after its acceptance (R313). -/
def doorbell (d : Dev) (p : Nat) (w : DWord) : Dev :=
  let v := vportOf d p
  if v.st = .off ∨ v.st = .orphaned then vpCount d p 9
  else
    let kind := fld w 14 2
    let arm := bit w 16
    let x := fld w 32 32
    if fld w 17 15 ≠ 0 ∨ fld w 6 8 ≠ 0 ∨ kind = 3 ∨ (arm ∧ kind ≠ 2) then vpCount d p 8
    else match globalQ d p kind (fld w 0 6) with
      | none => vpCount d p 8
      | some q =>
        let c := queueOf d kind q
        if !qLive c then vpCount d p 8
        else if kind = 2 then
          if idxSub x c.host ≤ idxSub c.dev c.host then
            cqDrain q 64 (putQueue d 2 q { c with host := x, arm := if arm then some x else c.arm })
          else queueError d 2 q 2
        else if idxSub x c.host ≤ qSize c - idxSub c.host c.dev then
          putQueue d kind q { c with host := x, known := if x = c.host then c.known else (x, d.tick) :: c.known }
        else queueError d kind q 1

/-! ### Jobs -/

/-- A job whose entry is being read. -/
def Job.start (idx : Nat) : Job :=
  { idx := idx, units := 0, st := .entry, raw := [], tbl := [], waits := 1, tblLen := 0, hops := 0, cls := 0, len := 0, md := 0,
    tag := 0, inline := [], frags := [], status := 0, data := [], frame := none, wrote := 0 }

/-- Change one job of a queue. -/
def updJob (d : Dev) (kind q idx : Nat) (f : Job → Job) : Dev :=
  let x := queueOf d kind q
  putQueue d kind q { x with jobs := x.jobs.map fun j => if j.idx = idx then f j else j }

/-- A job of a queue. -/
def jobOf (d : Dev) (kind q idx : Nat) : Option Job := (queueOf d kind q).jobs.find? fun j => j.idx = idx

/-- Whether a job has not been selected or given a frame yet. -/
def jobAhead (j : Job) : Bool :=
  (decide (j.st = .entry) || decide (j.st = .table) || decide (j.st = .ready)) && j.frame.isNone

/-- Read one unit of an entry: 32 bytes of a compact ring, 64 of a full-class one (R315, R316). -/
def readUnit (d : Dev) (p : Nat) (rx : Bool) (q idx unit : Nat) : Dev :=
  let x := queueOf d (b2n rx) q
  let w := if vpFull d p then 64 else 32
  (issueRead d p ((x.w0.toNat + w * ((idx + unit) % qSize x)) % 2 ^ 64) w (poolRetry d) (fun _ => .entry rx q idx unit)).1

/-- Sum of fragment lengths. -/
def fragSum (fs : List (Nat × Nat)) : Nat := fs.foldl (fun n f => n + f.2) 0

/-- A job that fails before its payload (R318). -/
def failJob (status : Nat) (j : Job) : Job := { j with st := .ready, status := status, waits := 0 }

/-- The checks at the end of a fragment list (R318): lengths that add up for a send, at most 256 fragments. -/
def finishList (rx : Bool) (j : Job) : Job :=
  if 256 < j.frags.length ∨ (!rx ∧ fragSum j.frags + j.inline.length ≠ j.len) then failJob 0x11 j
  else { j with st := .ready, waits := 0 }

/-- One fragment entry (R317): address, length, CHAIN; none where a reserved field is not 0 or a length is out of range. -/
def fragEntry (b : List Byte) : Option (Nat × Nat × Bool) :=
  let a := leNat (sliceD 0 b 0 8)
  let n := leNat (sliceD 0 b 8 4)
  let fl := (b.getD 12 0).toNat
  let rest := leNat (sliceD 0 b 13 3)
  if 1 < fl ∨ rest ≠ 0 ∨ n = 0 then none
  else if fl = 1 then (if n ≤ 256 then some (a, n, true) else none)
  else if n ≤ 65535 then some (a, n, false) else none

/-- Walk the entries of a fragment list: the job with their fragments, and the table a CHAIN entry names; a bad entry, or a CHAIN
entry that is not the last, gives none. -/
def walkFrags : List (List Byte) → List (Nat × Nat) → Option (List (Nat × Nat) × Option (Nat × Nat))
  | [], fs => some (fs, none)
  | b :: bs, fs =>
    match fragEntry b with
    | none => none
    | some (a, n, false) => walkFrags bs (fs ++ [(a, n)])
    | some (a, n, true) => if bs.isEmpty then some (fs, some (a, n)) else none

/-- Cut bytes into entries of 16. -/
def cut16 : Nat → List Byte → List (List Byte)
  | 0, _ => []
  | n + 1, b => b.take 16 :: cut16 n (b.drop 16)

/-- Read a fragment table: one hop; a 257th hop fails the job with CHAIN_LOOP (R318). -/
def readTable (d : Dev) (p : Nat) (rx : Bool) (q : Nat) (j : Job) (a n : Nat) : Dev :=
  if 256 ≤ j.hops then updJob d (b2n rx) q j.idx fun _ => failJob 0x12 j
  else
    let (d, k) := issueRead d p a (16 * n) (poolRetry d) (fun off => .table rx q j.idx off)
    updJob d (b2n rx) q j.idx fun _ => { j with st := .table, hops := j.hops + 1, tbl := [], tblLen := n, waits := k }

/-- Take a fragment list's entries into a job. -/
def takeList (d : Dev) (p : Nat) (rx : Bool) (q : Nat) (j : Job) (es : List (List Byte)) : Dev :=
  match walkFrags es [] with
  | none => updJob d (b2n rx) q j.idx fun _ => failJob 0x11 j
  | some (fs, next) =>
    let j := { j with frags := j.frags ++ fs }
    if 256 < j.frags.length then updJob d (b2n rx) q j.idx fun _ => failJob 0x11 j
    else match next with
      | none => updJob d (b2n rx) q j.idx fun _ => finishList rx j
      | some (a, n) => readTable d p rx q j a n

/-- A compact entry has been read (Table 11-6). -/
def compactEntry (d : Dev) (p : Nat) (rx : Bool) (q : Nat) (j : Job) (b : List Byte) : Dev :=
  let n (o k : Nat) : Nat := leNat (sliceD 0 b o k)
  let op := n 0 1
  let bad (j : Job) : Dev := updJob d (b2n rx) q j.idx fun _ => failJob 0x11 j
  let j := { j with units := 1, tag := n 0x14 4, waits := 0 }
  if n 0x12 2 ≠ 0 ∨ n 0x18 8 ≠ 0 then bad j
  else if rx then
    if op ≠ 0x11 ∨ n 1 1 ≠ 0 ∨ n 2 2 ≠ 0 ∨ n 0x10 2 ≠ 0 ∨ n 4 4 < 64 ∨ 65535 < n 4 4 then bad j
    else updJob d 1 q j.idx fun _ => finishList true { j with frags := [(n 8 8, n 4 4)] }
  else
    let j := { j with cls := n 1 1 % 8, len := n 2 2, md := n 4 4 }
    if 8 ≤ n 1 1 ∨ n 2 2 < 60 ∨ 4156 < n 2 2 then bad j
    else if op = 1 then
      if n 0x10 2 ≠ 0 then bad j else updJob d 0 q j.idx fun _ => finishList false { j with frags := [(n 8 8, n 2 2)] }
    else if op = 2 then
      if n 0x10 2 = 0 ∨ 256 < n 0x10 2 then bad j else readTable d p false q j (n 8 8) (n 0x10 2)
    else bad j

/-- All units of a full-class entry have been read (R316, Table 11-7). -/
def fullEntry (d : Dev) (p : Nat) (rx : Bool) (q : Nat) (j : Job) : Dev :=
  let b := mget j.raw 0 []
  let n (o k : Nat) : Nat := leNat (sliceD 0 b o k)
  let inl := n 6 1
  let nf := n 3 1
  let bad : Dev := updJob d (b2n rx) q j.idx fun _ => failJob 0x11 j
  let j := { j with tag := n 0x0C 4, waits := 0, cls := n 2 1 % 8, len := n 4 2, md := n 8 4, inline := (b.drop 0x10).take inl }
  if 16 ≤ n 1 1 ∨ n 7 1 ≠ 0 ∨ 4 * (j.units - 1) < nf ∨ 48 < inl ∨ ((b.drop (0x10 + inl)).take (48 - inl)).any (· ≠ 0) then bad
  else if rx && (decide (n 0 1 ≠ 0x11) || decide (n 2 1 ≠ 0) || decide (j.len ≠ 0) || decide (inl ≠ 0) || decide (j.md ≠ 0)) then bad
  else if !rx && (decide (n 0 1 ≠ 0x01) || decide (8 ≤ n 2 1) || decide (j.len < 60) || decide (4156 < j.len)
      || (decide (nf = 0) && decide (inl < j.len))) then bad
  else
    let bytes := (List.range (j.units - 1)).flatMap fun u => sliceD 0 (mget j.raw (u + 1) []) 0 64
    takeList d p rx q j (cut16 nf bytes)

/-- A unit of an entry has arrived. Once unit 0 tells how many there are, and the tail shows that all of them are there, the others
are read (R316). -/
def entryArrived (d : Dev) (p : Nat) (rx : Bool) (q idx unit : Nat) (data : List Byte) : Dev :=
  match jobOf d (b2n rx) q idx with
  | none => d
  | some j =>
    if !vpFull d p then compactEntry d p rx q j data
    else
      let j := { j with raw := mput j.raw unit data [], waits := j.waits - 1 }
      let j := if unit = 0 then { j with units := (data.getD 1 0).toNat % 16 + 1 } else j
      let d := updJob d (b2n rx) q idx fun _ => j
      let d := if unit = 0 then
          putQueue d (b2n rx) q { queueOf d (b2n rx) q with fetch := (idx + j.units) % 2 ^ 32 } else d
      if j.waits = 0 ∧ (unit ≠ 0 ∨ j.units = 1) then fullEntry d p rx q j else d

/-- SQ_ENTRY_FETCH (R316, R320, R321): read ahead of one queue, at most 8 entries, up to the known tail. -/
def fetchQueue (p : Nat) (rx : Bool) (q : Nat) : Nat → Dev → Dev
  | 0, d => d
  | fuel + 1, d =>
    let kind := b2n rx
    let x := queueOf d kind q
    let half := x.jobs.find? fun j => j.st = .entry && (j.units = 0 || (mfind j.raw 1).isNone)
    match (if vpFull d p then half else none) with
    | some j =>
      if j.units = 0 ∨ j.waits ≠ 0 ∨ idxSub x.host j.idx < j.units then d
      else
        let d := updJob d kind q j.idx fun j => { j with waits := j.units - 1 }
        (List.range (j.units - 1)).foldl (fun d u => readUnit d p rx q j.idx (u + 1)) d
    | none =>
      let fetch := x.fetch
      if 8 ≤ (x.jobs.filter jobAhead).length ∨ idxSub x.host fetch = 0 ∨ qSize x < idxSub x.host fetch then d
      else
        let d := putQueue d kind q { x with fetch := (fetch + 1) % 2 ^ 32, jobs := x.jobs ++ [Job.start fetch] }
        fetchQueue p rx q fuel (readUnit d p rx q fetch 0)

/-- Fetching of every packet queue of every ACTIVE vport (R320, R321). -/
def fetchAll (d : Dev) : Dev :=
  (mkeys d.hp.vports).foldl (fun d p =>
    if (vportOf d p).st = .active && !(vportOf d p).resetBusy then
      (vportQueues d p).foldl (fun d kq =>
        let x := queueOf d kq.1 kq.2
        if kq.1 < 2 && decide (x.st = .active) && !qNvme x then fetchQueue p (kq.1 = 1) kq.2 8 d else d) d
    else d) d

/-! ### The end of a frame -/

/-- A write of a received frame is done, or failed (R319). -/
def rxWritten (d : Dev) (q idx : Nat) (st : Nat) : Dev :=
  updJob d 1 q idx fun j =>
    let j := { j with waits := j.waits - 1, status := if st = 0 then j.status else st }
    if j.st = .writing ∧ j.waits = 0 then { j with st := .done } else j

/-- Requests of queues in a list are no longer wanted; those still waiting for a tag are dropped. -/
def discardReqs (d : Dev) (p : Nat) (wanted : Who → Bool) : Dev :=
  let l := linkOf d (p / 256)
  putLink d (p / 256) { l with reqs := l.reqs.filterMap fun r =>
    if r.vport = p % 256 && !wanted r.who then (if r.tag.isNone then none else some { r with who := .discard, tries := 0 }) else some r }

/-- A received frame's bytes turn out bad, or good, after they were handed to the host (R23): its entry stays with the device, or its
completion no longer waits for the frame's end. -/
def rxFrameEnd (d : Dev) (c : Copy) (bad : Bool) : Dev :=
  c.into.foldl (fun d qi =>
    if bad then
      let d := updJob d 1 qi.1 qi.2 fun j => { j with st := .ready, waits := 0, wrote := 0 }
      match ownerOf d 1 qi.1 with
      | some p => givePlace (discardReqs d p fun w => w ≠ .rxWrite qi.1 qi.2) (qCq (queueOf d 1 qi.1))
      | none => d
    else rxWritten d qi.1 qi.2 0) d

/-- The last byte of a frame has come, `bad` or good (R20, R23, R224). It is bad also where it was cut at RXMAX (R223) or ends before
SK_LEN (R175). A cut-through copy that is already moving ends with the inverted FCS; a recirculated frame made of a copy that this completes ends too, and
the number of passes bounds how far that goes. -/
def frameWhole : Nat → Nat → Bool → Dev → Dev
  | 0, _, _, d => d
  | n + 1, id, bad, d =>
    match frameOf d id with
    | none => d
    | some f =>
      let short := !f.whole && (match f.est with | some e => decide (f.bytes.length < e) | none => false)
      let d := if short then count d .swPgExcCnt 6 0 else d
      let bad := bad || f.bad || f.trunc || short
      let d := putFrame d id (some { f with got := cellsOf f.bytes.length, whole := true, bad := bad })
      let mine := (allCopies d).filter fun e => e.2.frame = id
      let d := mine.foldl (fun d e =>
        let d := if bad && e.2.ct && decide (0 < e.2.crossed) then
            putCopy (ctAbort d e.2.dest) e.1 (some { e.2 with inverted := true }) else d
        rxFrameEnd d e.2 bad) d
      mine.foldl (fun d e => copyOn (frameWhole n) e.1 d) d

/-- The end of a frame: a frame of at most 16 passes stands at the end of a chain of recirculated copies. -/
def frameEnds (id : Nat) (bad : Bool) (d : Dev) : Dev := frameWhole 17 id bad d

/-- FRAME_END_BAD (R23): a frame ends bad after `len` bytes; its complete cells have come. -/
def frameEndBad (id len : Nat) (d : Dev) : Dev :=
  match frameOf d id with
  | none => d
  | some f =>
    let bs := f.bytes.take (max len (256 * f.got))
    if f.whole then d
    else if f.st = .cipher then putFrame d id (some { f with bytes := bs, bad := true })
    else frameEnds id true (retail id (f.bytes.length - bs.length) [] (putFrame d id (some { f with bytes := bs })))

/-! ### Send payload -/

/-- Bytes of a frame that have arrived without a gap, from the pieces read. -/
def dataSoFar : SMap (List Byte) → Nat → List Byte
  | [], _ => []
  | (o, b) :: m, n => if o = n then b ++ dataSoFar m (n + b.length) else []

/-- A host frame that will not be completed: dropped before the parse graph has it, bad afterwards (R23). -/
def spoilFrame (d : Dev) (f : Option Nat) : Dev :=
  match f with
  | none => d
  | some id => match frameOf d id with
    | none => d
    | some x => if x.st = .receiving then putFrame d id none else frameEndBad id 0 d

/-- Issue the payload reads of a selected job (R318, R320). -/
def readPayload (d : Dev) (p q : Nat) (j : Job) : Dev :=
  let r := j.frags.foldl (fun (acc : Dev × Nat × Nat) f =>
    let (d, k) := issueRead acc.1 p f.1 f.2 (poolRetry acc.1) (fun off => .payload q j.idx (acc.2.1 + off))
    (d, acc.2.1 + f.2, acc.2.2 + k)) (d, j.inline.length, 0)
  let j := { j with st := .payload, waits := r.2.2, data := if j.inline.isEmpty then [] else [(0, j.inline)] }
  updJob r.1 0 q j.idx fun _ => j

/-- The bytes of a host frame as known so far; what a copy was edited from is brought up to them. -/
def payloadBytes (id : Nat) (f : Frame) (full : List Byte) (got : Nat) (d : Dev) : Dev :=
  let tail := (noFcs full).drop (256 * f.got)
  retail id tail.length tail (putFrame d id (some { f with bytes := full, got := got }))

/-- The frame of a job as far as its payload has arrived; whole with its FCS once every read has returned. Bytes that have not come
stand as 0 until then. -/
def jobFrame (d : Dev) (q idx : Nat) : Dev :=
  match jobOf d 0 q idx with
  | none => d
  | some j =>
    let d := if j.st = .payload && decide (j.waits = 0) then updJob d 0 q idx fun j => { j with st := .done } else d
    if j.status ≠ 0 then d
    else match j.frame with
      | none => d
      | some id => match frameOf d id with
        | none => d
        | some f =>
          let bs := dataSoFar j.data 0
          if f.whole then d
          else if j.waits = 0 then frameEnds id false (payloadBytes id f ((bs ++ fcsOf bs).take f.bytes.length) f.got d)
          else payloadBytes id f ((bs ++ List.replicate (j.len + 4 - bs.length) 0).take f.bytes.length)
            (min (bs.length / 256) (cellsOf f.bytes.length - 1)) d

/-- A piece of payload has arrived, or failed with a status. -/
def payloadArrived (d : Dev) (q idx off : Nat) (r : Sum (List Byte) Nat) : Dev :=
  match jobOf d 0 q idx with
  | none => d
  | some j =>
    match r with
    | .inl data => jobFrame (updJob d 0 q idx fun j => { j with waits := j.waits - 1, data := mput j.data off data [] }) q idx
    | .inr st =>
      let d := spoilFrame d j.frame
      jobFrame (updJob d 0 q idx fun j => { j with waits := j.waits - 1, status := if j.status = 0 then st else j.status, frame := none }) q idx

/-- A selected job goes on: its payload is read once its fragment list is complete; one that failed ends (R318). -/
def advanceSelected (d : Dev) (p q idx : Nat) : Dev :=
  match jobOf d 0 q idx with
  | none => d
  | some j =>
    if j.st = .ready && j.frame.isSome then
      if j.status ≠ 0 then updJob (spoilFrame d j.frame) 0 q idx fun j => { j with st := .done, frame := none }
      else jobFrame (readPayload d p q j) q idx
    else d

/-- A piece of a fragment table has arrived (R318); a job that has failed meanwhile takes no more. A selected job goes on. -/
def tableArrived (d : Dev) (p : Nat) (rx : Bool) (q idx off : Nat) (data : List Byte) : Dev :=
  match jobOf d (b2n rx) q idx with
  | none => d
  | some j =>
    if j.st ≠ .table then d
    else
      let j := { j with tbl := mput j.tbl off data [], waits := j.waits - 1 }
      let d := updJob d (b2n rx) q idx fun _ => j
      if j.waits ≠ 0 then d
      else
        let d := takeList d p rx q j (cut16 j.tblLen (j.tbl.flatMap (·.2)))
        if rx then d else advanceSelected d p q idx

/-- A fragment table could not be read (R319): the job fails; one that was selected ends. -/
def tableFailed (d : Dev) (p : Nat) (rx : Bool) (q idx st : Nat) : Dev :=
  match jobOf d (b2n rx) q idx with
  | none => d
  | some j =>
    if j.st ≠ .table then d
    else
      let d := updJob d (b2n rx) q idx (failJob st)
      if rx then d else advanceSelected d p q idx

/-- SEND_JOB_COMPLETE (R320, R322): the oldest job of a send queue, once it is done, gets its completion entry; H passes it when that has been
written (R311). -/
def sendComplete (q : Nat) (d : Dev) : Dev :=
  let x := queueOf d 0 q
  match x.jobs, ownerOf d 0 q with
  | j :: js, some p =>
    if j.st ≠ .done then d
    else
      let stop := (j.idx + j.units) % 2 ^ 32
      let d := putQueue d 0 q { x with jobs := js, passing := x.passing ++ [stop] }
      let d := if j.status = 0 then vpCountN (vpCount d p 0) p 1 j.len else vpCount d p 12
      cqPush d (qCq x) ⟨1, j.status, q - (kindRange d p 0).1, j.idx, 0, j.tag, [], some (0, q, stop)⟩
  | _, _ => d

/-- RX_COMPLETE (R321, R322): the oldest entry of a receive queue, once every write of its frame is done. -/
def rxComplete (q : Nat) (d : Dev) : Dev :=
  let x := queueOf d 1 q
  match x.jobs, ownerOf d 1 q with
  | j :: js, some p =>
    if j.st ≠ .done then d
    else
      let stop := (j.idx + j.units) % 2 ^ 32
      let d := putQueue d 1 q { x with jobs := js, passing := x.passing ++ [stop] }
      let d := if j.status = 0 then vpCountN (vpCount d p 2) p 3 j.wrote else vpCount d p 12
      cqPush d (qCq x) ⟨2, j.status, q - (kindRange d p 1).1, j.idx, if j.status = 0 then j.wrote else 0, j.tag, [], some (1, q, stop)⟩
  | _, _ => d

/-- Failed entries that no frame or selection waits for: the oldest job ahead with a bad status takes a place and is done (R318). -/
def failAhead (d : Dev) (kind q : Nat) : Dev :=
  let x := queueOf d kind q
  match x.jobs.find? jobAhead with
  | none => d
  | some j =>
    if j.st = .ready && decide (j.status ≠ 0) && j.frame.isNone && placeFree d (qCq x) then
      updJob (takePlace d (qCq x)) kind q j.idx fun j => { j with st := .done }
    else d

/-! ### Receiving -/

/-- Write bytes into buffers in list order (R317, R321). -/
def fillBufs (p q idx : Nat) : List (Nat × Nat) → List Byte → Dev × Nat → Dev × Nat
  | [], _, acc => acc
  | (a, n) :: fs, bs, acc =>
    if bs.isEmpty then acc
    else
      let (d, k) := issueWrite acc.1 p a (bs.take n) (poolRetry acc.1) (fun _ => .rxWrite q idx)
      fillBufs p q idx fs (bs.drop n) (d, acc.2 + k)

/-- How one vport copy meets its receive queue (Table 11-9): it has to wait for its entry to be read; it is dropped, with the counter
it is counted at; or it goes into the entry of an index. -/
inductive RxFate where
  | wait | drop (k : Nat) | into (q idx : Nat)
  deriving DecidableEq, Repr

/-- The checks of Table 11-9 in order; `place` says that a completion place is held, `frozenOk` that a FROZEN vport still takes it
(R389). -/
def rxCheck (d : Dev) (p queue len : Nat) (place frozenOk : Bool) : RxFate :=
  let v := vportOf d p
  if !(v.st = .active || (frozenOk && v.st = .frozen)) then .drop 4
  else match globalQ d p 1 queue with
    | none => .drop 4
    | some q =>
      let x := queueOf d 1 q
      if x.st ≠ .active || qNvme x then .drop 4
      else
        let nextIdx := match x.jobs.find? jobAhead with | some j => j.idx | none => x.fetch
        if idxSub x.host nextIdx = 0 then .drop 5
        else match x.jobs.find? jobAhead with
          | none => .wait
          | some j =>
            if j.st ≠ .ready || decide (j.status ≠ 0) then .wait
            else if fragSum j.frags < len then .drop 6
            else if !place && !placeFree d (qCq x) then .drop 7
            else .into q j.idx

/-- Write a frame into the entry (R321). A frame that ended bad is written and posts no completion; its entry stays (R23). -/
def rxInto (d : Dev) (p q idx : Nat) (bs : List Byte) (bad : Bool) : Dev :=
  match jobOf d 1 q idx with
  | none => d
  | some j =>
    if bad then (fillBufs p q idx j.frags bs (d, 0)).1
    else
      let (d, k) := fillBufs p q idx j.frags bs (d, 0)
      updJob d 1 q idx fun j => { j with st := .writing, waits := k, wrote := bs.length }

/-! ### Reset, orphaning, contexts -/

/-- Whether a job holds a place of its completion queue (R323): it was selected or given a frame, and its entry is not written; an NVMe
job that is done has its entry. -/
def jobPlaced (nvme : Bool) (j : Job) : Bool :=
  j.frame.isSome || decide (j.st = .payload) || decide (j.st = .selected) || decide (j.st = .writing) || (decide (j.st = .done) && !nvme)

/-- Copies whose place a completion queue gave hold it no more. -/
def forgetPlaces (d : Dev) (c : Nat) : Dev :=
  (allCopies d).foldl (fun d e => if e.2.place = some c then putCopy d e.1 (some { e.2 with place := none }) else d) d

/-- Discard the jobs that a queue holds (R308): counted at k = 11; their frames are spoiled, and their places go back to the completion
queue (R323), where no entry moves H of this queue any more. -/
def dropJobs (d : Dev) (p kind q : Nat) : Dev :=
  let x := queueOf d kind q
  let d := x.jobs.foldl (fun d j => if j.st = .done then d else spoilFrame d j.frame) d
  let d := if kind = 2 then forgetPlaces d q
    else
      let y := queueOf d 2 (qCq x)
      putQueue d 2 (qCq x) { y with places := y.places - (x.jobs.filter (jobPlaced (qNvme x))).length,
                                    posted := y.posted.filter fun e => decide ((e.2.1, e.2.2.1) ≠ (kind, q)) }
  let d := putQueue d kind q { queueOf d kind q with jobs := [], reserve := [], stall := none, places := 0, passing := [], passed := [], posted := [] }
  vpCountN d p 11 x.jobs.length

/-- Whether a request belongs to a queue. -/
def whoQueue (kind q : Nat) : Who → Bool
  | .entry rx q' _ _ => decide (b2n rx = kind ∧ q' = q)
  | .table rx q' _ _ => decide (b2n rx = kind ∧ q' = q)
  | .payload q' _ _ => decide (kind = 0 ∧ q' = q)
  | .rxWrite q' _ => decide (kind = 1 ∧ q' = q)
  | .cqe c _ => decide (kind = 2 ∧ c = q)
  | .idxWr k q' _ => decide (k = kind ∧ q' = q)
  | .idxRd k q' => decide (k = kind ∧ q' = q)
  | _ => false

/-- Requests that a vport's own reset leaves wanted: those of software bobbins. -/
def whoBobbin : Who → Bool
  | .bobbin _ _ => true
  | _ => false

/-- Stop every queue of a vport (R308); with `off` they go to OFF, otherwise they keep their state (R327). -/
def stopQueues (d : Dev) (p : Nat) (off : Bool) : Dev :=
  let d := (vportQueues d p).foldl (fun d kq =>
    let d := dropJobs d p kq.1 kq.2
    let x := queueOf d kq.1 kq.2
    putQueue d kq.1 kq.2 { x with st := if off then .off else x.st, fetch := x.dev, known := [], arm := if off then none else x.arm }) d
  discardReqs d p whoBobbin

/-- Clear a vport's queue contexts. -/
def clearContexts (d : Dev) (p : Nat) : Dev :=
  (vportQueues d p).foldl (fun d kq => putQueue d kq.1 kq.2 Queue.reset) d

/-- A vport that is reset to OFF, destroyed or whose hold ran out: page registers, counters and contexts cleared. -/
def clearVport (d : Dev) (p : Nat) : Dev :=
  let d := clearContexts (stopQueues d p true) p
  let lo := 0x1000000 + 0x1000 * p
  let regs := { d.regs with cur := mdelRange d.regs.cur lo (lo + 0x1000), act := mdelRange d.regs.act lo (lo + 0x1000) }
  putVport { d with regs := regs } p Vport.reset

/-- Set doorbell bits of a vport toward device firmware (R433). -/
def setDbb (d : Dev) (p bits : Nat) : Dev := setCur d .vpDbb p 0 (cur d .vpDbb p 0 ||| BitVec.ofNat 32 bits)

/-- A host signal of the mailbox (R428): a SIG on HVEC when HSIG_EN is 1. -/
def hostSignal (d : Dev) (p : Nat) : Dev :=
  let w := cfg d .vpMbCfg p 0
  if bit w 13 then sendSig d p (fld w 16 6) else d

/-- The host side of a vport's mailbox resets (R429, R430). -/
def mbHostReset (d : Dev) (p : Nat) : Dev :=
  let v := vportOf d p
  let d := putVport d p { v with hostEpoch := (v.hostEpoch + 1) % 256, outFull := false, peerResetFw := true }
  setDbb d p 0x40000000

/-- The firmware side resets (R429, R430). -/
def mbFwReset (d : Dev) (p : Nat) : Dev :=
  let v := vportOf d p
  hostSignal (putVport d p { v with fwEpoch := (v.fwEpoch + 1) % 256, inFull := false, peerResetHost := true }) p

/-- A software bobbin halts with a status (R327, R331). -/
def bobHalt (d : Dev) (b off status : Nat) : Dev :=
  let x := bobOf d b
  let a := cfg d .bbIovaLo b 0
  let hi := cfg d .bbIovaHi b 0
  let ad := a.toNat + 2 ^ 32 * hi.toNat + off
  let d := putBob d b { x with st := .halted, live := [], fail := none }
  setCur (setCur d .bbFailLo b 0 (BitVec.ofNat 32 ad)) .bbFailHi b 0 (BitVec.ofNat 32 (ad / 2 ^ 32))
    |> fun d => setCur d .bbStatus b 0 (setFld (cur d .bbStatus b 0) 8 8 status)

/-- Whether a bobbin names a vport page. -/
def bobNames (d : Dev) (b p : Nat) : Bool :=
  let w := cfg d .bbHost b 0
  decide (256 * fld w 16 3 + fld w 0 8 = p)

/-- The bits of w2 that a queue context has (Table 11-13); STALL_LIMIT and VECTOR are a completion queue's. -/
def ctxMask (kind : Nat) : DWord := if kind = 2 then 0x0FFFFF3F0000003F else 0x000000003FFF003F

/-- QCTX commands (R328, and R358 for queues of TYPE NVMe) at the boundary: their status. -/
def qctxPerform (d : Dev) : Dev :=
  let op := d.hp.qop
  if op = 0 then d
  else
    let w := cur d .bbQcmd 0 0
    let kind := fld w 20 2
    let q := fld w 0 15
    let finish (d : Dev) (st : Nat) : Dev :=
      let w := cur d .bbQcmd 0 0
      { setCur d .bbQcmd 0 0 (setFld (setBit w 31 false) 24 3 st) with hp := { d.hp with qop := 0 } }
    match (if kind = 3 then none else ownerOf d kind q) with
    | none => finish d 1
    | some p =>
      let x := queueOf d kind q
      match op with
      | 1 =>
        let w2 := x.w2 &&& ctxMask kind
        let put (d : Dev) (j : Nat) (v : Nat) : Dev := setBoth d .bbQdata j 0 (BitVec.ofNat 32 v)
        let ws : List Nat := [x.w0.toNat, x.w0.toNat / 2 ^ 32, x.w1.toNat, x.w1.toNat / 2 ^ 32, w2.toNat, w2.toNat / 2 ^ 32,
          x.dev, x.host]
        finish ((List.range 8).foldl (fun d j => put d j (ws.getD j 0)) d) 0
      | 2 =>
        if x.st ≠ .off then finish d 2
        else
          let dw (j : Nat) : DWord := BitVec.ofNat 64
            ((cur d .bbQdata (2 * j) 0).toNat + 2 ^ 32 * (cur d .bbQdata (2 * j + 1) 0).toNat)
          finish (putQueue d kind q { x with w0 := dw 0, w1 := dw 1, w2 := dw 2 &&& ctxMask kind }) 0
      | 3 =>
        let lg := fld x.w2 0 5
        let maxLg := if kind < 2 && !vpFull d p then 12 else if kind = 0 && qNvme x then 16 else 20
        let typeBad := (decide (kind = 1) && qNvme x) || (decide (kind < 2) && (qNvme x != qNvme (queueOf d 2 (qCq x))))
        let cqBad := decide (kind < 2) && (!qLive (queueOf d 2 (qCq x)) || decide (ownerOf d 2 (qCq x) ≠ some p))
        if x.st ≠ .off then finish d 2
        else if lg < 6 ∨ maxLg < lg ∨ x.w0.toNat % 64 ≠ 0 ∨ x.w1.toNat % 8 ≠ 0 then finish d 1
        else if cqBad || typeBad then finish d 2
        else finish (putQueue d kind q { Queue.reset with w0 := x.w0, w1 := x.w1, w2 := x.w2, idxSent := x.idxSent, st := .active }) 0
      | _ =>
        let inUse := decide (kind = 2) && (vportQueues d p).any fun kq =>
          decide (kq.1 < 2) && decide ((queueOf d kq.1 kq.2).st ≠ .off) && decide (qCq (queueOf d kq.1 kq.2) = q)
        if inUse then finish d 2
        else
          let d := dropJobs d p kind q
          let d := putQueue d kind q { queueOf d kind q with st := .off, cause := 0, known := [], arm := none }
          finish (discardReqs d p fun w => !whoQueue kind q w) 0

/-- Start a queue-context command (R328): a write of BB_QOP sets BUSY; while BUSY it is ignored and sets OVERRUN. -/
def qctxStart (op : Nat) (kind : BitVec 2) (q : BitVec 15) (d : Dev) : Dev :=
  let w := cur d .bbQcmd 0 0
  if bit w 31 then flag d .bbQcmd 0 0 30 true
  else
    let w := setBit (setFld (setFld w 20 2 kind.toNat) 0 15 q.toNat) 31 true
    { setBoth d .bbQcmd 0 0 w with hp := { d.hp with qop := op } }

/-- The read of a host-written index has returned. On REATTACH both indices take the value (R327); on RESTORE it becomes the host's
index where it lies in range, otherwise the queue enters ERROR (R397). A failed read puts the queue in ERROR. -/
def idxArrived (d : Dev) (kind q : Nat) (r : Option Nat) : Dev :=
  let x := queueOf d kind q
  let restoring := match ownerOf d kind q with
    | some p => (vportOf d p).restored && (vportOf d p).st = .frozen
    | none => false
  match r with
  | none => queueError d kind q 4
  | some v =>
      if !restoring then
        putQueue d kind q { x with dev := v, host := v, fetch := v, visible := v, idxDone := v, doneSet := [], passing := [], passed := [],
                                   posted := [] }
      else if kind = 2 then
        if idxSub v x.host ≤ idxSub x.dev x.host then putQueue d 2 q { x with host := v } else queueError d 2 q 2
      else if idxSub v x.dev ≤ qSize x then putQueue d kind q { x with host := v } else queueError d kind q 1

/-- Read the host-written word of every enabled queue of a vport (R327). -/
def readIndices (d : Dev) (p : Nat) : Dev :=
  let qs := (vportQueues d p).filter fun kq => (queueOf d kq.1 kq.2).st ≠ .off
  let d := qs.foldl (fun d kq =>
    let x := queueOf d kq.1 kq.2
    let d := putQueue d kq.1 kq.2 { x with st := if x.st = .error then .error else .active }
    (issueRead d p x.w1.toNat 4 (poolRetry d) (fun _ => .idxRd kq.1 kq.2)).1) d
  putVport d p { vportOf d p with reattaching := true }

/-- ORPHAN_HOLD_EXPIRY (R327): the hold of an orphaned vport has run out; a second has 31,250,000 ticks. -/
def orphanExpire (p : Nat) (d : Dev) : Dev :=
  match (vportOf d p).orphanAt with
  | none => d
  | some t =>
    let secs := orIf0 (cfgF d .vpCtl p 0 24 8) 1
    if (vportOf d p).st = .orphaned && decide (t + 31250000 * secs ≤ d.tick) then clearVport d p else d

/-- Whether a read of a vport's index blocks is outstanding (R327, R397). -/
def readsIndex (d : Dev) (p : Nat) : Bool := (vportReqs d p).any fun r => match r.who with
  | .idxRd _ _ => true
  | _ => false

/-- REATTACH_DONE (R327): after the last index read the vport is ACTIVE. -/
def reattachDone (p : Nat) (d : Dev) : Dev :=
  let v := vportOf d p
  if v.reattaching && !readsIndex d p && decide (v.st = .orphaned) then
    putVport d p { v with reattaching := false, st := .active, orphanAt := none }
  else d

/-- VPORT_RESET_DONE (R308): RESET_BUSY clears once no request of the vport is outstanding. -/
def resetDone (p : Nat) (d : Dev) : Dev :=
  let v := vportOf d p
  if v.resetBusy && (vportReqs d p).isEmpty then putVport d p { v with resetBusy := false } else d

/-- SIG_UNMASK (R326): clearing MASK with PENDING set sends one SIG. -/
def sigUnmask (p vec : Nat) (d : Dev) : Dev :=
  let w := cur d .vpSigCfg p vec
  let d := setBoth d .vpSigCfg p vec (setBit (setBit w 0 false) 1 false)
  if bit w 1 then sendSig d p vec else d

end Sys2Proof.Machine
end

