-- ==== Sys2Proof/Machine/Bobbin.lean ====
section
/-! DEFINITION. Device memory as the requesters reach it (Table 4-7), software bobbins (R330 to R334), and the fetch scheduler (R256 to
R261). -/

namespace Sys2Proof.Machine

/-- Read bytes of hank memory or HBM at an address in the form of Table 4-7. -/
def devRd (d : Dev) (a : Nat) (n : Nat) : List Byte :=
  let off := a % 2 ^ 60
  match a / 2 ^ 60 with
  | 2 => memRdN d.hank off n
  | 3 => memRdN d.hbm off n
  | _ => List.replicate n 0

/-- Write bytes of hank memory or HBM. -/
def devWr (d : Dev) (a : Nat) (bs : List Byte) : Dev :=
  let off := a % 2 ^ 60
  match a / 2 ^ 60 with
  | 2 => { d with hank := memWrN d.hank off bs }
  | 3 => { d with hbm := memWrN d.hbm off bs }
  | _ => d

/-! ### Bobbins -/

/-- Unit of a bobbin in bytes. -/
def bobUnit (d : Dev) (b : Nat) : Nat := 512 * 2 ^ cfgF d .bbCtl b 0 16 3

/-- Ways of a bobbin. -/
def bobWays (d : Dev) (b : Nat) : Nat := cfgF d .bbCtl b 0 12 4 + 1

/-- Length of a bobbin's transfer. -/
def bobLen (d : Dev) (b : Nat) : Nat := (cfg d .bbLen b 0).toNat

/-- Host address of a bobbin's transfer. -/
def bobIova (d : Dev) (b : Nat) : Nat := (cfg d .bbIovaLo b 0).toNat + 2 ^ 32 * (cfg d .bbIovaHi b 0).toNat

/-- Vport page that a bobbin names. -/
def bobPage (d : Dev) (b : Nat) : Nat := 256 * cfgF d .bbHost b 0 16 3 + cfgF d .bbHost b 0 0 8

/-- Device address of byte `j` of the host range (R330). -/
def bobAddr (d : Dev) (b j : Nat) : Nat :=
  let u := bobUnit d b
  let w := bobWays d b
  (cfg64 d .bbWay b (j / u % w)).toNat + j / (u * w) * u + j % u

/-- Whether a bobbin is a software bobbin. -/
def bobSoft (d : Dev) (b : Nat) : Bool := decide (b < min 1024 (cfgF d .bbCfg 0 0 0 11))

/-- Issue a bobbin's requests in ascending address, at most 64 outstanding, none across 4 KiB or a unit (R330). -/
def bobIssue (b : Nat) : Nat → Dev → Dev
  | 0, d => d
  | fuel + 1, d =>
    let x := bobOf d b
    let len := bobLen d b
    if x.st ≠ .running ∨ x.aborting ∨ x.fail.isSome ∨ 64 ≤ x.live.length ∨ len ≤ x.next then d
    else
      let off := x.next
      let ia := (bobIova d b + off) % 2 ^ 64
      let u := bobUnit d b
      let n := min (len - off) (min (4096 - ia % 4096) (u - off % u))
      let p := bobPage d b
      let wr := cfgB d .bbCtl b 0 8
      let r : Req := ⟨p % 256, wr, ia, n, if wr then devRd d (bobAddr d b off) n else [], .bobbin b off, cfgF d .bbCtl b 0 19 4, none, none, []⟩
      bobIssue b fuel (issueReq (putBob d b { x with next := off + n, live := mset x.live off n }) (p / 256) r)

/-- The longest prefix that is done. -/
def bobPrefix : Nat → Bobbin → Bobbin
  | 0, x => x
  | fuel + 1, x =>
    match mfind x.parts x.done with
    | some n => bobPrefix fuel { x with done := x.done + n, parts := mdel x.parts x.done }
    | none => x

/-- Set a doorbell bit of a receiver (R435). -/
def rcvSet (d : Dev) (rcv bits : Nat) : Dev := setCur d .mbDbb rcv 0 (cur d .mbDbb rcv 0 ||| BitVec.ofNat 32 bits)

/-- The device-side signal of a bobbin (R332). -/
def bobDevSig (d : Dev) (b : Nat) : Dev :=
  if cfgB d .bbCtl b 0 24 then rcvSet d (cfgF d .bbSig b 0 0 8) (2 ^ cfgF d .bbSig b 0 8 5) else d

/-- Where a bobbin goes when nothing is outstanding (R331, R333). -/
def bobSettle (d : Dev) (b : Nat) : Dev :=
  let x := bobOf d b
  if !x.live.isEmpty then d
  else if x.aborting then putBob d b { x with st := .idle, aborting := false, fail := none }
  else match x.fail with
    | some (off, st) => if x.st = .running || x.st = .pausing then bobDevSig (bobHalt d b off st) b else d
    | none => if x.st = .pausing then putBob d b { x with st := .paused } else d

/-- A bobbin's request is done (R332). -/
def bobDone (d : Dev) (b off : Nat) (data : List Byte) : Dev :=
  let x := bobOf d b
  match mfind x.live off with
  | none => d
  | some n =>
    let d := if cfgB d .bbCtl b 0 8 then d else devWr d (bobAddr d b off) data
    let parts := mset x.parts off n
    let x := bobPrefix parts.length { x with live := mdel x.live off, parts := parts }
    let len := bobLen d b
    let d := if 2 * (bobOf d b).done < len ∧ len ≤ 2 * x.done then flag d .bbStatus b 0 3 true else d
    if x.done = len ∧ x.fail.isNone ∧ !x.aborting then
      let d := putBob d b { x with st := .done, parts := [] }
      let d := if cfgB d .bbCtl b 0 23 then sendSig d (bobPage d b) (cfgF d .bbCtl b 0 25 6) else d
      bobDevSig d b
    else bobSettle (putBob d b x) b

/-- A bobbin's request failed for the last time (R331). -/
def bobFail (d : Dev) (b off status : Nat) : Dev :=
  let x := bobOf d b
  match mfind x.live off with
  | none => d
  | some _ =>
    let f := match x.fail with
      | some (o, s) => if off < o then (off, status) else (o, s)
      | none => (off, status)
    bobSettle (putBob d b { x with live := mdel x.live off, fail := some f }) b

/-- BOBBIN_START (R334). -/
def bobStart (b : Nat) (d : Dev) : Dev :=
  if !bobSoft d b then d
  else
    let x := bobOf d b
    let len := bobLen d b
    let u := bobUnit d b
    let w := bobWays d b
    let extent (k : Nat) : Nat :=
      let full := len / (u * w) * u
      let rest := len % (u * w)
      full + min u (rest - k * u)
    let badWay := (List.range w).any fun k =>
      let a := (cfg64 d .bbWay b k).toNat
      let off := a % 2 ^ 60
      let fin := off + extent k
      match a / 2 ^ 60 with
      | 2 => decide (2 ^ 26 < fin)
      | 3 => decide (0xC00000000 < fin) || (decide (off < 0xC00000000) && decide (0xBC0000000 < fin))
      | _ => true
    let busy := x.st = .running || x.st = .pausing || x.st = .paused
    if busy || decide (len = 0) || decide ((vportOf d (bobPage d b)).st ≠ .active) || badWay then flag d .bbStatus b 0 4 true
    else
      let d := flag d .bbStatus b 0 3 false
      bobIssue b 65 (putBob d b { Bobbin.reset with st := .running })

/-- BOBBIN_RESUME (R333). -/
def bobResume (b : Nat) (d : Dev) : Dev :=
  let x := bobOf d b
  if bobSoft d b && x.st = .halted then
    bobIssue b 65 (putBob d b { x with st := .running, next := x.done, parts := [], live := [], fail := none, aborting := false })
  else d

/-- BOBBIN_ABORT (R333). -/
def bobAbort (b : Nat) (d : Dev) : Dev :=
  if bobSoft d b then bobSettle (putBob d b { bobOf d b with aborting := true }) b else d

/-- A bobbin follows its PAUSE bit at a boundary (R333), and goes on issuing. -/
def bobSample (d : Dev) (b : Nat) : Dev :=
  let x := bobOf d b
  let pause := cfgB d .bbCtl b 0 31
  let d := match x.st with
    | .running => if pause then bobSettle (putBob d b { x with st := .pausing }) b else d
    | .pausing | .paused => if pause then d else putBob d b { x with st := .running }
    | _ => d
  bobIssue b 65 d

/-! ### The fetch scheduler -/

/-- A node of a fetch tree. -/
def fnode (d : Dev) (k : Nat) : FNode := mget d.sw.fetch k FNode.reset

/-- Store a node. -/
def putFnode (d : Dev) (k : Nat) (n : FNode) : Dev := { d with sw := { d.sw with fetch := mput d.sw.fetch k n FNode.reset } }

/-- Keys of the root of a host port, of a domain node, of a vport node and of a send queue. -/
def rootKey (h : Nat) : Nat := 65536 * h + 512
def domKey (h dm : Nat) : Nat := 65536 * h + dm
def vpnKey (h v : Nat) : Nat := 65536 * h + 256 + v
def sqKey (q : Nat) : Nat := 2 ^ 20 + q

/-- A command context (R359). -/
def cmdOf (d : Dev) (x : Nat) : Option Cmd := mget d.bs.cmds x none

/-- Store a command context. -/
def putCmd (d : Dev) (x : Nat) (c : Option Cmd) : Dev := { d with bs := { d.bs with cmds := mput d.bs.cmds x c none } }

/-- Contexts that an isolation domain holds. -/
def domCtx (d : Dev) (dm : Nat) : Nat := (d.bs.cmds.filter fun e => match e.2 with
  | some c => decide (c.dom = dm)
  | none => false).length

/-- The context that the next command of a domain takes, while the domain is below CTX_MAX and one is free. -/
def freeCtx (d : Dev) (dm : Nat) : Option Nat :=
  if cfgF d .bsDomCtx dm 0 0 16 ≤ domCtx d dm then none
  else (List.range 32768).find? fun x => (cmdOf d x).isNone

/-- The job that a send queue offers (R257): its head entry has been read and it is not stopped; its completion queue has a place. An
NVMe queue needs a command context (R359). -/
def offered (d : Dev) (p q : Nat) : Option Job :=
  let x := queueOf d 0 q
  if (vportOf d p).st ≠ .active ∨ (vportOf d p).resetBusy ∨ x.st ≠ .active ∨ !placeFree d (qCq x) then none
  else match x.jobs.find? jobAhead with
    | none => none
    | some j =>
      if qNvme x then (if j.st = .ready && (freeCtx d (vpDomain d p)).isSome then some j else none)
      else if (j.st = .table || j.st = .ready) && decide (j.status = 0) then some j else none

/-- A fetched NVMe command takes its context (R359); the job stays in the queue until its completion entry has been written. -/
def takeCtx (d : Dev) (p q : Nat) (j : Job) : Dev :=
  let dm := vpDomain d p
  match freeCtx d dm with
  | none => d
  | some x =>
    let c : Cmd := { page := p, queue := q, idx := j.idx, dom := dm, sqe := mget j.raw 0 [], ph := .fetched, vd := 0, vent := [],
                     shards := [], pages := [], start := 0, len := 0, locks := [], parts := [], given := [], units := 0, hostOut := 0,
                     list := [], status := none, fail := none, discard := false }
    updJob (putCmd d x (some c)) 0 q j.idx fun j => { j with st := .selected, tag := x }

/-- The charge of a job at a node (R258). -/
def charge (d : Dev) (q len ovh : Nat) : Nat :=
  let c : Int := (len : Int) + ovh + sextInt 8 (cfgF d .scSqCfg q 0 0 8)
  max 1 c.toNat

/-- A finish tag (R259). -/
def finishTag (s l w : Nat) : Nat := (s + ceilDiv (65536 * l) (orIf0 w 1)) % 2 ^ 48

/-- `a` comes before `b` as signed differences modulo 2^48. -/
def tagLt (a b : Nat) : Bool := decide (2 ^ 47 ≤ (a + 2 ^ 48 - b) % 2 ^ 48)

/-- The first of a list of candidates with the smallest tag. -/
def minTag {α : Type} : List (Nat × α) → Option (Nat × α)
  | [] => none
  | x :: xs => match minTag xs with
    | none => some x
    | some y => if tagLt y.1 x.1 then some y else some x

/-- Whether a node's shaper holds it (R261). -/
def shaperHeld (d : Dev) (cfgReg : Reg) (h i key : Nat) : Bool := cfgB d cfgReg h i 8 && decide ((fnode d key).bucket ≤ 0)

/-- The queue that a vport node would yield (R259). -/
def bestQueue (d : Dev) (h v : Nat) : Option (Nat × Nat × Nat) :=
  let p := 256 * h + v
  let (b, n) := kindRange d p 0
  minTag ((List.range n).filterMap fun i =>
    let q := b + i
    (offered d p q).map fun j =>
      (finishTag (fnode d (sqKey q)).s (charge d q j.len (cfgF d .scVpnCfg h v 0 8)) (cfgF d .scSqCfg q 0 16 16), q, j.len))

/-- The vports of a host port that may have queues. -/
def portVports (d : Dev) (h : Nat) : List Nat :=
  (mkeys d.hp.vports).filterMap fun p => if p / 256 = h then some (p % 256) else none

/-- The vport that a domain node would yield: its tag, number, and queue. -/
def bestVport (d : Dev) (h dm : Nat) : Option (Nat × Nat × Nat × Nat × Nat) :=
  minTag ((portVports d h).filterMap fun v =>
    if vpDomain d (256 * h + v) ≠ dm ∨ shaperHeld d .scVpnCfg h v (vpnKey h v) then none
    else (bestQueue d h v).map fun r =>
      (finishTag (fnode d (vpnKey h v)).s (charge d r.2.1 r.2.2 (cfgF d .scDomCfg h dm 0 8)) (cfgF d .scVpnCfg h v 16 16), v, r.1, r.2.1, r.2.2))

/-- The domains of a host port. -/
def portDomains (d : Dev) (h : Nat) : List Nat :=
  (List.range 256).filter fun dm => (portVports d h).any fun v => vpDomain d (256 * h + v) = dm

/-- The domain that the root yields: tag, domain, vport tag, vport, queue tag, queue, length. A domain whose active vports are all held by
their shapers yields no job, so it has no finish tag and is passed by (DESIGN CHOICE, log entry 291). -/
def bestDomain (d : Dev) (h : Nat) : Option (Nat × Nat × Nat × Nat × Nat × Nat × Nat) :=
  minTag ((portDomains d h).filterMap fun dm =>
    if shaperHeld d .scDomCfg h dm (domKey h dm) then none
    else (bestVport d h dm).map fun r =>
      (finishTag (fnode d (domKey h dm)).s (charge d r.2.2.2.1 r.2.2.2.2 (cfgF d .scRootCfg h 0 0 8)) (cfgF d .scDomCfg h dm 16 16),
        dm, r.1, r.2.1, r.2.2.1, r.2.2.2.1, r.2.2.2.2))

/-- A child's start tag when it becomes active, or eligible again (R259). -/
def activate (d : Dev) (child parent : Nat) (now : Bool) : Dev :=
  let n := fnode d child
  if now = n.elig then d
  else putFnode d child { n with elig := now, s := if now then (fnode d parent).v else n.s }

/-- Whether a domain node is active (R257): a vport of it is, held by its shaper or not. -/
def domActive (d : Dev) (h dm : Nat) : Bool :=
  (portVports d h).any fun v => decide (vpDomain d (256 * h + v) = dm) && (bestQueue d h v).isSome

/-- Bring the activity of a port's tree up to date. -/
def refreshTree (d : Dev) (h : Nat) : Dev :=
  let d := (portVports d h).foldl (fun d v =>
    let (b, n) := kindRange d (256 * h + v) 0
    (List.range n).foldl (fun d i => activate d (sqKey (b + i)) (vpnKey h v) (offered d (256 * h + v) (b + i)).isSome) d) d
  let d := (portVports d h).foldl (fun d v =>
    activate d (vpnKey h v) (domKey h (vpDomain d (256 * h + v)))
      ((bestQueue d h v).isSome && !shaperHeld d .scVpnCfg h v (vpnKey h v))) d
  (portDomains d h).foldl (fun d dm =>
    activate d (domKey h dm) (rootKey h) (domActive d h dm && !shaperHeld d .scDomCfg h dm (domKey h dm))) d

/-- Take a charge from a shaper's bucket (R261). -/
def takeBucket (d : Dev) (cfgReg : Reg) (h i key c : Nat) : Dev :=
  if cfgB d cfgReg h i 8 then
    let n := fnode d key
    putFnode d key { n with bucket := n.bucket - (65536 * c : Nat) }
  else d

/-- Set the virtual time of a node and the start tag of its chosen child (R259). -/
def passTag (d : Dev) (node child f : Nat) : Dev :=
  let d := putFnode d node { fnode d node with v := f }
  putFnode d child { fnode d child with s := f }

/-- FETCH_SELECT (R259, R260): up to `fuel` selections of a port; one that cannot reserve its cells ends them. -/
def fetchSelect (h : Nat) : Nat → Dev → Dev
  | 0, d => d
  | fuel + 1, d =>
    match bestDomain d h with
    | none => d
    | some (fd, dm, fv, v, fq, q, len) =>
      let p := 256 * h + v
      let nvme := qNvme (queueOf d 0 q)
      if !nvme && !canTake d (16 + h) then count d .scEvtCnt 8 0
      else match offered d p q with
        | none => d
        | some j =>
          let d := takeBucket d .scDomCfg h dm (domKey h dm) (charge d q len (cfgF d .scRootCfg h 0 0 8))
          let d := takeBucket d .scVpnCfg h v (vpnKey h v) (charge d q len (cfgF d .scDomCfg h dm 0 8))
          let d := passTag (passTag (passTag d (rootKey h) (domKey h dm) fd) (domKey h dm) (vpnKey h v) fv) (vpnKey h v) (sqKey q) fq
          let d := takePlace d (qCq (queueOf d 0 q))
          if nvme then fetchSelect h fuel (refreshTree (takeCtx d p q j) h) else
          let md := BitVec.ofNat 64 (1 * 2 ^ 60 + j.md * 2 ^ 24 + q % 65536 * 2 ^ 8 + v)
          let (d, f) := takeFrame d { Frame.start (16 + h) (List.replicate (len + 4) 0) with
            resv := cellsOf (len + 4), md := md, src := some (h, v), cls := some j.cls }
          let d := updJob d 0 q j.idx fun j => { j with frame := f }
          let d := advanceSelected d p q j.idx
          fetchSelect h fuel (refreshTree d h)

/-- SHAPER_FILL (R261): every shaped node gains RATE, capped at BURST. -/
def shaperFill (d : Dev) : Dev :=
  d.regs.act.foldl (fun d e =>
    match locateIn e.1 .scDomCfg with
    | some l =>
      if bit e.2 8 then
        let n := fnode d (domKey l.i l.j)
        let cap : Int := (65536 * cfgF d .scDomBurst l.i l.j 0 24 : Nat)
        putFnode d (domKey l.i l.j) { n with bucket := min cap (n.bucket + ((cfg d .scDomRate l.i l.j).toNat : Nat)) }
      else d
    | none => match locateIn e.1 .scVpnCfg with
      | some l =>
        if bit e.2 8 then
          let n := fnode d (vpnKey l.i l.j)
          let cap : Int := (65536 * cfgF d .scVpnBurst l.i l.j 0 24 : Nat)
          putFnode d (vpnKey l.i l.j) { n with bucket := min cap (n.bucket + ((cfg d .scVpnRate l.i l.j).toNat : Nat)) }
        else d
      | none => d) d

/-- The fetch schedulers at a boundary: fills, activity, failed entries, up to 48 selections per port (R257 to R261). -/
def fetchBoundary (d : Dev) : Dev :=
  let d := shaperFill d
  (List.range 8).foldl (fun d h =>
    if (portVports d h).isEmpty then d
    else
      let d := (portVports d h).foldl (fun d v =>
        (vportQueues d (256 * h + v)).foldl (fun d kq => if kq.1 < 2 then failAhead d kq.1 kq.2 else d) d) d
      fetchSelect h 48 (refreshTree d h)) d

end Sys2Proof.Machine
end

