-- ==== Sys2Proof/Machine/Aes.lean ====
section
/-! DEFINITION. The block cipher of the cipher clusters and of the security processor: AES-128 and AES-256 (FIPS 197), GCM and
GMAC (NIST SP 800-38D) with a 96-bit IV and a 128-bit tag, and XTS (IEEE 1619) without ciphertext stealing, the parts that
Table 12-3 supports. Bytes stand in the standards' order. -/

namespace Sys2Proof.Machine

/-- The AES substitution box, byte `b` of the number at bits [8 b + 7 : 8 b]. -/
def aesSbox : Nat := 0x16bb54b00f2d99416842e6bf0d89a18cdf2855cee9871e9b948ed9691198f8e19e1dc186b95735610ef6034866b53e708a8bbd4b1f74dde8c6b4a61c2e2578ba08ae7a65eaf4566ca94ed58d6d37c8e779e4959162acd3c25c2406490a3a32e0db0b5ede14b8ee4688902a22dc4f816073195d643d7ea7c41744975fec130ccdd2f3ff1021dab6bcf5389d928f40a351a89f3c507f02f94585334d43fbaaefd0cf584c4a39becb6a5bb1fc20ed00d153842fe329b3d63b52a05a6e1b1a2c830975b227ebe28012079a059618c323c7041531d871f1e5a534ccf73f362693fdb7c072a49cafa2d4adf04759fa7dc982ca76abd7fe2b670130c56f6bf27b777c63

/-- Its inverse. -/
def aesInvSbox : Nat := 0x7d0c2155631469e126d677ba7e042b17619953833cbbebc8b0f52aae4d3be0a0ef9cc9939f7ae52d0d4ab519a97f51605fec8027591012b131c7078833a8dd1ff45acd78fec0db9a2079d2c64b3e56fc1bbe18aa0e62b76f89c5291d711af1476edf751ce837f9e28535ade72274ac9673e6b4f0cecff297eadc674f4111913a6b8a130103bdafc1020f3fca8f1e2cd00645b3b80558e4f70ad3bc8c00abd890849d8da75746155edab9edfd5048706c92b6655dcc5ca4d41698688664f6f87225d18b6d49a25b76b224d92866a12e084ec3fa420b954cee3d23c2a632947b54cbe9dec444438e3487ff2f9b8239e37cfbd7f3819ea340bf38a53630d56a0952

/-- A byte through a substitution box. -/
def subByte (box : Nat) (b : Byte) : Byte := BitVec.ofNat 8 (box >>> (8 * b.toNat))

/-- Multiplication by x in the field of AES. -/
def xtime (b : Byte) : Byte := (b <<< 1) ^^^ (if b.getLsbD 7 then 0x1B#8 else 0#8)

/-- Multiplication in the field of AES by a number below 16. -/
def aesMul (k : Nat) (b : Byte) : Byte :=
  let b2 := xtime b; let b4 := xtime b2; let b8 := xtime b4
  (if k.testBit 0 then b else 0#8) ^^^ (if k.testBit 1 then b2 else 0#8) ^^^ (if k.testBit 2 then b4 else 0#8)
    ^^^ (if k.testBit 3 then b8 else 0#8)

/-- Exclusive or of two byte strings, as long as the first; the second is taken as 0 past its end. -/
def xorBytes : List Byte → List Byte → List Byte
  | [], _ => []
  | a :: as, [] => a :: as
  | a :: as, b :: bs => (a ^^^ b) :: xorBytes as bs

/-- Key words after the first `Nk`, newest first. -/
def keyGrow (nk : Nat) : Nat → Byte → List (List Byte) → List (List Byte)
  | 0, _, ws => ws
  | n + 1, rc, ws =>
    let i := ws.length
    let prev := ws.headD []
    let back := ws.getD (nk - 1) []
    let sub := fun w : List Byte => w.map (subByte aesSbox)
    if i % nk = 0 then
      let t := sub (prev.drop 1 ++ prev.take 1)
      keyGrow nk n (xtime rc) (xorBytes back (xorBytes t [rc]) :: ws)
    else
      let t := if 6 < nk ∧ i % nk = 4 then sub prev else prev
      keyGrow nk n rc (xorBytes back t :: ws)

/-- Bytes cut into pieces of `k`, at most `n` of them. -/
def chunks (k : Nat) : Nat → List Byte → List (List Byte)
  | 0, _ => []
  | n + 1, bs => if bs.isEmpty then [] else bs.take k :: chunks k n (bs.drop k)

/-- Round keys of a 16- or 32-byte key, 16 bytes each. -/
def roundKeys (key : List Byte) : List (List Byte) :=
  let nk := key.length / 4
  let total := 4 * (nk + 7)
  let ws := (keyGrow nk (total - nk) 1 ((chunks 4 nk key).reverse)).reverse
  chunks 16 (nk + 7) ws.flatten

/-- Row shift: byte `r + 4 c` comes from column `c + r` (or `c - r`). -/
def shiftRows (dir : Nat) (s : List Byte) : List Byte :=
  (List.range 16).map fun i => s.getD (i % 4 + 4 * ((i / 4 + dir * (i % 4)) % 4)) 0

/-- Column mix with the first row of a circulant matrix. -/
def mixCols (m : List Nat) (s : List Byte) : List Byte :=
  (List.range 16).map fun i =>
    let c := 4 * (i / 4)
    let r := i % 4
    (List.range 4).foldl (fun x j => x ^^^ aesMul (m.getD ((j + 4 - r) % 4) 0) (s.getD (c + j) 0)) 0#8

/-- Encryption rounds after the first key addition. -/
def encRounds : List (List Byte) → List Byte → List Byte
  | [], s => s
  | [k], s => xorBytes (shiftRows 1 (s.map (subByte aesSbox))) k
  | k :: ks, s => encRounds ks (xorBytes (mixCols [2, 3, 1, 1] (shiftRows 1 (s.map (subByte aesSbox)))) k)

/-- Decryption rounds after the first key addition, with the round keys in reverse. -/
def decRounds : List (List Byte) → List Byte → List Byte
  | [], s => s
  | [k], s => xorBytes ((shiftRows 3 s).map (subByte aesInvSbox)) k
  | k :: ks, s => decRounds ks (mixCols [14, 11, 13, 9] (xorBytes ((shiftRows 3 s).map (subByte aesInvSbox)) k))

/-- One block encrypted under expanded keys. -/
def aesEnc (ks : List (List Byte)) (b : List Byte) : List Byte := encRounds ks.tail (xorBytes b (ks.headD []))

/-- One block decrypted under expanded keys. -/
def aesDec (ks : List (List Byte)) (b : List Byte) : List Byte :=
  let rk := ks.reverse
  decRounds rk.tail (xorBytes b (rk.headD []))

/-- Multiplication in the field of GCM, bit 127 of a number being the first bit of a block. -/
def ghashMulN : Nat → Nat → Nat → Nat → Nat
  | 0, _, _, z => z
  | n + 1, x, v, z =>
    ghashMulN n x (if v % 2 = 1 then Nat.xor (v / 2) (0xE1 * 2 ^ 120) else v / 2) (if x.testBit n then Nat.xor z v else z)

/-- GHASH over blocks. -/
def ghash (h : Nat) (blocks : List (List Byte)) : Nat :=
  blocks.foldl (fun y b => ghashMulN 128 (Nat.xor y (beNat (sliceD 0 b 0 16))) h 0) 0

/-- Key stream of counter mode: `n` blocks from a counter value on. -/
def ctrStream (ks : List (List Byte)) (iv : List Byte) : Nat → Nat → List Byte
  | 0, _ => []
  | n + 1, c => aesEnc ks (iv ++ beBytes 4 c) ++ ctrStream ks iv n (c + 1)

/-- Text exclusive-ored with the key stream; it is its own inverse. -/
def ctrText (ks : List (List Byte)) (iv text : List Byte) : List Byte := xorBytes text (ctrStream ks iv (ceilDiv text.length 16) 2)

/-- The tag of a ciphertext and its additional data. -/
def gcmTag (ks : List (List Byte)) (iv aad ct : List Byte) : List Byte :=
  let h := beNat (aesEnc ks (List.replicate 16 0))
  let blocks := chunks 16 (aad.length + 1) aad ++ chunks 16 (ct.length + 1) ct ++ [beBytes 8 (8 * aad.length) ++ beBytes 8 (8 * ct.length)]
  xorBytes (beBytes 16 (ghash h blocks)) (aesEnc ks (iv ++ beBytes 4 1))

/-- GCM encryption: ciphertext and tag. -/
def gcmSeal (key iv aad pt : List Byte) : List Byte × List Byte :=
  let ks := roundKeys key
  let ct := ctrText ks iv pt
  (ct, gcmTag ks iv aad ct)

/-- GCM decryption: none where the tag differs. -/
def gcmOpen (key iv aad ct tag : List Byte) : Option (List Byte) :=
  let ks := roundKeys key
  if gcmTag ks iv aad ct = tag then some (ctrText ks iv ct) else none

/-- Multiplication of an XTS tweak by x, little-endian. -/
def tweakNext (t : List Byte) : List Byte :=
  let n := leNat t
  leBytes 16 (if n.testBit 127 then Nat.xor (2 * n % 2 ^ 128) 0x87 else 2 * n)

/-- XTS over whole blocks with the tweak of the first. -/
def xtsBlocks (f : List Byte → List Byte) : Nat → List Byte → List Byte → List Byte
  | 0, _, _ => []
  | n + 1, t, bs => xorBytes (f (xorBytes (bs.take 16) t)) t ++ xtsBlocks f n (tweakNext t) (bs.drop 16)

/-- XTS of one data unit (IEEE 1619): the key holds key 1 and key 2, the tweak is the LBA as a 128-bit little-endian value. -/
def xtsUnit (enc : Bool) (key : List Byte) (lba : Nat) (unit : List Byte) : List Byte :=
  let n := key.length / 2
  let k1 := roundKeys (key.take n)
  let t := aesEnc (roundKeys (key.drop n)) (leBytes 16 lba)
  xtsBlocks (if enc then aesEnc k1 else aesDec k1) (unit.length / 16) t unit

end Sys2Proof.Machine
end

