-- ==== Sys2Proof/Machine/Crypto.lean ====
section
/-! DEFINITION. SHA-512 (FIPS 180-4), HMAC-SHA-512 (FIPS 198-1), and the curve P-521 with the ECDSA check and the ECDH point (FIPS
186-5, SEC 1), as R392, R403, R416, R419 and R424 use them. -/

namespace Sys2Proof.Machine

/-- The 64-bit words of numbers that hold four each, the first word highest. -/
def shaWords (l : List Nat) : List DWord := l.flatMap fun x => (chunks 8 4 (beBytes 32 x)).map fun w => BitVec.ofNat 64 (beNat w)

/-- The 80 round constants of SHA-512 (FIPS 180-4), four to a number. -/
def shaK : List DWord := shaWords
  [0x428a2f98d728ae227137449123ef65cdb5c0fbcfec4d3b2fe9b5dba58189dbbc,
   0x3956c25bf348b53859f111f1b605d019923f82a4af194f9bab1c5ed5da6d8118,
   0xd807aa98a303024212835b0145706fbe243185be4ee4b28c550c7dc3d5ffb4e2,
   0x72be5d74f27b896f80deb1fe3b1696b19bdc06a725c71235c19bf174cf692694,
   0xe49b69c19ef14ad2efbe4786384f25e30fc19dc68b8cd5b5240ca1cc77ac9c65,
   0x2de92c6f592b02754a7484aa6ea6e4835cb0a9dcbd41fbd476f988da831153b5,
   0x983e5152ee66dfaba831c66d2db43210b00327c898fb213fbf597fc7beef0ee4,
   0xc6e00bf33da88fc2d5a79147930aa72506ca6351e003826f142929670a0e6e70,
   0x27b70a8546d22ffc2e1b21385c26c9264d2c6dfc5ac42aed53380d139d95b3df,
   0x650a73548baf63de766a0abb3c77b2a881c2c92e47edaee692722c851482353b,
   0xa2bfe8a14cf10364a81a664bbc423001c24b8b70d0f89791c76c51a30654be30,
   0xd192e819d6ef5218d69906245565a910f40e35855771202a106aa07032bbd1b8,
   0x19a4c116b8d2d0c81e376c085141ab532748774cdf8eeb9934b0bcb5e19b48a8,
   0x391c0cb3c5c95a634ed8aa4ae3418acb5b9cca4f7763e373682e6ff3d6b2b8a3,
   0x748f82ee5defb2fc78a5636f43172f6084c87814a1f0ab728cc702081a6439ec,
   0x90befffa23631e28a4506cebde82bde9bef9a3f7b2c67915c67178f2e372532b,
   0xca273eceea26619cd186b8c721c0c207eada7dd6cde0eb1ef57d4f7fee6ed178,
   0x06f067aa72176fba0a637dc5a2c898a6113f9804bef90dae1b710b35131c471b,
   0x28db77f523047d8432caab7b40c724933c9ebe0a15c9bebc431d67c49c100d4c,
   0x4cc5d4becb3e42b6597f299cfc657e2a5fcb6fab3ad6faec6c44198c4a475817]

/-- The initial hash value of SHA-512, four words to a number: the words that a round takes for a sum, and those it takes for a choice. -/
def shaFirst : Nat × Nat :=
  (0x6a09e667f3bcc908bb67ae8584caa73b3c6ef372fe94f82ba54ff53a5f1d36f1,
   0x510e527fade682d19b05688c2b3e6c1f1f83d9abfb41bd6b5be0cd19137e2179)

/-- Exclusive or of a word's rotations to the right. -/
def shaTurn (rs : List Nat) (x : DWord) : DWord := rs.foldl (fun y r => y ^^^ x.rotateRight r) 0

/-- SHA-512 between two rounds: the last four words of the two sequences that the rounds make, newest first, and the next 16 words of the
message schedule, oldest first. -/
structure ShaRun where
  sums : List DWord
  picks : List DWord
  win : List DWord
  deriving DecidableEq, Repr

/-- One round of SHA-512. Both sequences grow by a word and lose their oldest one; so does the schedule. -/
def shaRound (r : ShaRun) (k : DWord) : ShaRun :=
  let s (i : Nat) : DWord := r.sums.getD i 0
  let p (i : Nat) : DWord := r.picks.getD i 0
  let w (i : Nat) : DWord := r.win.getD i 0
  let t := k + w 0 + p 3 + (p 2 ^^^ (p 0 &&& (p 1 ^^^ p 2))) + shaTurn [14, 18, 41] (p 0)
  let m := (s 0 &&& (s 1 ||| s 2)) ||| (s 1 &&& s 2)
  let next := w 0 + w 9 + (shaTurn [1, 8] (w 1) ^^^ w 1 >>> 7) + (shaTurn [19, 61] (w 14) ^^^ w 14 >>> 6)
  { sums := (m + t + shaTurn [28, 34, 39] (s 0)) :: r.sums.take 3, picks := (t + s 3) :: r.picks.take 3, win := r.win.drop 1 ++ [next] }

/-- One block of 128 bytes: 80 rounds, then each word is added to the one before. -/
def shaBlock (h : List DWord) (b : List Byte) : List DWord :=
  let r := shaK.foldl shaRound ⟨h.take 4, h.drop 4, (chunks 8 16 b).map fun x => BitVec.ofNat 64 (beNat x)⟩
  List.zipWith (· + ·) h (r.sums ++ r.picks)

/-- SHA-512 of a byte string: 64 bytes. -/
def sha512 (m : List Byte) : List Byte :=
  let z := (239 - m.length % 128) % 128
  let p := m ++ [0x80#8] ++ List.replicate z 0 ++ beBytes 16 (8 * m.length)
  ((chunks 128 (p.length / 128) p).foldl shaBlock (shaWords [shaFirst.1, shaFirst.2])).flatMap fun w => beBytes 8 w.toNat

/-- HMAC-SHA-512 under a key of at most 128 bytes. -/
def hmac512 (key m : List Byte) : List Byte :=
  let k := key ++ List.replicate (128 - key.length) 0
  sha512 (k.map (· ^^^ 0x5C#8) ++ sha512 (k.map (· ^^^ 0x36#8) ++ m))

/-! ### P-521 -/

/-- The field prime 2^521 - 1. -/
def ecP : Nat := 2 ^ 521 - 1

/-- The order of the base point. -/
def ecN : Nat :=
  0x1fffffffffffffffffffffffffffffffffffffffffffffffffffffffffffffffffa51868783bf2f966b7fcc0148f709a5d03bb5c9b8899c47aebb6fb71e91386409

/-- The coefficient b of the curve; a is -3. -/
def ecB : Nat :=
  0x51953eb9618e1c9a1f929a21a0b68540eea2da725b99b315f3b8b489918ef109e156193951ec7e937b1652c0bd3bb1bf073573df883d2c34f1ef451fd46b503f00

/-- The base point. -/
def ecG : Nat × Nat :=
  (0xc6858e06b70404e9cd9e3ecb662395b4429c648139053fb521f828af606b4d3dbaa14b5e77efe75928fe1dc127a2ffa8de3348b3c1856a429bf97e7e31c2e5bd66,
   0x11839296a789a3bc0045c8a5fb42c7d1bd998f54449579b446817afbd17273e662c97ee72995ef42640c550b9013fad0761353c7086a272c24088be94769fd16650)

/-- `b ^ e` modulo `m`, by the `n` low bits of `e` from the top. -/
def powModN (m b e : Nat) : Nat → Nat → Nat
  | 0, acc => acc
  | n + 1, acc =>
    let s := acc * acc % m
    powModN m b e n (if e.testBit n then s * b % m else s)

/-- Inverse modulo an odd prime of 521 bits. -/
def invMod (m a : Nat) : Nat := powModN m (a % m) (m - 2) 521 1

/-- Sum of two points; none is the point at infinity. -/
def ecAdd : Option (Nat × Nat) → Option (Nat × Nat) → Option (Nat × Nat)
  | none, q => q
  | p, none => p
  | some (x1, y1), some (x2, y2) =>
    if x1 = x2 ∧ (y1 + y2) % ecP = 0 then none
    else
      let l :=
        if x1 = x2 then (3 * x1 * x1 + ecP - 3) * invMod ecP (2 * y1) % ecP
        else (y2 + ecP - y1) * invMod ecP (x2 + ecP - x1) % ecP
      let x := (l * l + 2 * ecP - x1 - x2) % ecP
      some (x, (l * (x1 + ecP - x) + ecP - y1) % ecP)

/-- `k` times a point, by the `n` low bits of `k` from the top. -/
def ecMulN (k : Nat) (p : Option (Nat × Nat)) : Nat → Option (Nat × Nat) → Option (Nat × Nat)
  | 0, acc => acc
  | n + 1, acc =>
    let s := ecAdd acc acc
    ecMulN k p n (if k.testBit n then ecAdd s p else s)

/-- `k` times a point. -/
def ecMul (k : Nat) (p : Nat × Nat) : Option (Nat × Nat) := ecMulN k (some p) 521 none

/-- Whether a pair is a point of the curve. -/
def ecOn (p : Nat × Nat) : Bool :=
  decide (p.1 < ecP) && decide (p.2 < ecP) && decide (p.2 * p.2 % ecP = (p.1 * p.1 * p.1 + (ecP - 3) * p.1 + ecB) % ecP)

/-- A point in the encoding of R392: the uncompressed form of SEC 1 in 133 bytes, then 3 zero bytes. -/
def ecBytes (p : Nat × Nat) : List Byte := 4#8 :: beBytes 66 p.1 ++ beBytes 66 p.2 ++ [0, 0, 0]

/-- The point that 136 bytes spell. -/
def ecPoint (b : List Byte) : Option (Nat × Nat) :=
  let p := (beNat (sliceD 0 b 1 66), beNat (sliceD 0 b 67 66))
  if b.length = 136 ∧ b.getD 0 0 = 4 ∧ b.drop 133 = [0, 0, 0] ∧ ecOn p then some p else none

/-- ECDSA check of a signature over a SHA-512 digest: r and s in 66 bytes each, then 4 zero bytes (R392). -/
def ecdsaOk (pub : Nat × Nat) (digest sig : List Byte) : Bool :=
  let r := beNat (sliceD 0 sig 0 66)
  let s := beNat (sliceD 0 sig 66 66)
  if sig.length ≠ 136 ∨ sig.drop 132 ≠ [0, 0, 0, 0] ∨ r = 0 ∨ s = 0 ∨ ecN ≤ r ∨ ecN ≤ s then false
  else
    let w := invMod ecN s
    let e := beNat digest
    match ecAdd (ecMul (e * w % ecN) ecG) (ecMul (r * w % ecN) pub) with
    | some q => decide (q.1 % ecN = r)
    | none => false

/-- The signature of a SHA-512 digest with a private key and a per-signature secret `k`. -/
def ecdsaSign (priv k : Nat) (digest : List Byte) : List Byte :=
  match ecMul (k % ecN) ecG with
  | none => List.replicate 136 0
  | some q =>
    let r := q.1 % ecN
    beBytes 66 r ++ beBytes 66 (invMod ecN k * ((beNat digest + r * priv) % ecN) % ecN) ++ List.replicate 4 0

end Sys2Proof.Machine
end

