-- ==== Sys2Proof/Machine/Cipher.lean ====
section
/-! DEFINITION. Cipher clusters and key usage (chapter 12): associations in HBM and in the key cache, the state array, fills,
counters and leases, ingress decryption, egress protection, and the association commands. -/

namespace Sys2Proof.Machine

/-! ### Associations -/

/-- Byte 0 of an association in HBM (R340, Table 21-3). -/
def saBase (i : Nat) : Nat := 0xBC0000000 + 256 * i

/-- A field of an association as HBM holds it (Table 12-4). -/
def saF (d : Dev) (i off n : Nat) : Nat := leNat (memRdN d.hbm (saBase i + off) n)

/-- Bytes of an association as HBM holds them. -/
def saBytes (d : Dev) (i off n : Nat) : List Byte := memRdN d.hbm (saBase i + off) n

/-- Write a field of an association. -/
def saWr (d : Dev) (i off : Nat) (bs : List Byte) : Dev := { d with hbm := memWrN d.hbm (saBase i + off) bs }

/-- CTL bits of an association (Table 12-4). -/
def saCtl (d : Dev) (i lo len : Nat) : Nat := saF d i 0 4 / 2 ^ lo % 2 ^ len

/-- MODE, PORT, DOMAIN, SOFT and HARD of an association, and whether it is VALID and for egress. -/
def saMode (d : Dev) (i : Nat) : Nat := saCtl d i 0 3
def saPort (d : Dev) (i : Nat) : Nat := saCtl d i 7 2
def saDomain (d : Dev) (i : Nat) : Nat := saCtl d i 16 8
def saSoft (d : Dev) (i : Nat) : Nat := saF d i 0x28 8
def saHard (d : Dev) (i : Nat) : Nat := saF d i 0x30 8
def saValid (d : Dev) (i : Nat) : Bool := decide (saCtl d i 9 1 = 1)
def saEgress (d : Dev) (i : Nat) : Bool := decide (saCtl d i 4 1 = 1)

/-- State of an association in the state array (Table 12-5). -/
def saState (d : Dev) (i : Nat) : Nat := mget d.ci.st i 0

/-- The state it has once the changes under way have been made. -/
def saNext (d : Dev) (i : Nat) : Nat :=
  match (d.ci.stPend.reverse).find? fun e => e.1 = i with
  | some e => e.2
  | none => saState d i

/-- A change of the state array at the next boundary (R342). -/
def saSet (d : Dev) (i st : Nat) : Dev := { d with ci := { d.ci with stPend := d.ci.stPend ++ [(i, st)] } }

/-- A resident association. -/
def keyOf (d : Dev) (i : Nat) : Option KeyEnt := mget d.ci.cache i none

/-- Store a resident association. -/
def putKey (d : Dev) (i : Nat) (k : Option KeyEnt) : Dev := { d with ci := { d.ci with cache := mput d.ci.cache i k none } }

/-- The entry has been used: the newest of its domain. -/
def touchKey (d : Dev) (i : Nat) (k : KeyEnt) : Dev :=
  putKey { d with ci := { d.ci with stamp := d.ci.stamp + 1 } } i (some { k with used := d.ci.stamp + 1 })

/-- One more cluster event (Table 12-18). -/
def ciCount (d : Dev) (c k : Nat) : Dev := count d .ciDropCnt c k

/-- Queue a rekey notice (R347): with 256 in the queue it is lost; the queue going non-empty raises CI_REKEY. -/
def rekeyNotice (d : Dev) (i : Nat) (hard : Bool) : Dev :=
  if 256 ≤ d.ci.rekey.length then flag d .ciRekeyQ 0 0 30 true
  else
    let d := if d.ci.rekey.isEmpty then raise d 15 else d
    { d with ci := { d.ci with rekey := d.ci.rekey ++ [(i, hard)] } }

/-- SA_COUNT_LIMIT (R343): COUNT of a resident association has become `v`. -/
def saCounted (d : Dev) (i v : Nat) : Dev :=
  let d := if saSoft d i ≤ v ∧ saNext d i = 1 then rekeyNotice (saSet d i 2) i false else d
  if saHard d i ≤ v ∧ saNext d i ≠ 3 then rekeyNotice (saSet d i 3) i true else d

/-- Write COUNT, HIGHEST and BITMAP of a resident association back to HBM (R346). -/
def saWriteBack (d : Dev) (i : Nat) (k : KeyEnt) : Dev :=
  saWr (saWr d i 0x20 (leBytes 8 k.count)) i 0x40 (leBytes 8 k.highest ++ leBytes 32 k.bitmap)

/-- The ESP association of a copy: its attachment, toward D0-D15 and D25-D28 (R120). -/
def espOut (c : Copy) : Option Nat := if c.dest < 16 ∨ (25 ≤ c.dest ∧ c.dest ≤ 28) then c.catt else none

/-- Associations that a copy taken by an egress cluster names: its attachment, and the TX_SA it was taken with (R355, R356). -/
def copySas (c : Copy) : List Nat := (espOut c).toList ++ (c.tx.map (·.1)).toList

/-! ### Frames at ingress -/

/-- Network port of a fabric input or destination of a cluster: inputs and destinations 0-15 by fours, D25-D28 by one (Table 12-1). -/
def clusterPort (p : Nat) : Nat := if p < 16 then p / 4 else p - 25

/-- The SecTAG of a frame (IEEE 802.1AE): TCI and AN, short length, PN, explicit SCI, its length with the EtherType. -/
structure SecTag where
  tci : Nat
  sl : Nat
  pn : Nat
  sci : Nat
  len : Nat
  deriving DecidableEq, Repr

/-- EtherType after the source address. -/
def etypeOf (bs : List Byte) : Nat := beNat (sliceD 0 bs 12 2)

/-- The SecTAG after the source address, if there is one. -/
def secTagOf (bs : List Byte) : Option SecTag :=
  if etypeOf bs ≠ 0x88E5 ∨ bs.length < 20 then none
  else
    let tci := (bs.getD 14 0).toNat
    some ⟨tci, (bs.getD 15 0).toNat % 64, beNat (sliceD 0 bs 16 4), beNat (sliceD 0 bs 20 8), if tci.testBit 5 then 16 else 8⟩

/-- Entry `n` of a sub-port's receive-SC table (Table 12-8): bytes at an offset, as a little-endian number. -/
def rxscF (d : Dev) (s n word : Nat) : Nat := (cfg d .ciRxsc s (8 * n + word)).toNat

/-- SCI of an entry. -/
def rxscSci (d : Dev) (s n : Nat) : Nat := rxscF d s n 0 + 2 ^ 32 * rxscF d s n 1

/-- Whether an EtherType passes unprotected (Table 12-13). -/
def bypassed (d : Dev) (et : Nat) : Bool :=
  (cfgB d .ciBypass0 0 0 31 && decide (cfgF d .ciBypass0 0 0 0 16 = et)) ||
    (List.range 3).any fun k => cfgB d .ciBypass k 0 31 && decide (cfgF d .ciBypass k 0 0 16 = et)

/-- Whether a resident or stored association may be used at a cluster's port: VALID, of one of the modes, of the direction and port, and
not DISABLED. -/
def saUsable (d : Dev) (i : Nat) (modes : List Nat) (egress : Bool) (x : Nat) : Bool :=
  saValid d i && decide (saMode d i ∈ modes) && (saEgress d i == egress) && decide (saPort d i = x) && decide (saState d i ≠ 3)

/-- How MACsec reception decides a frame (R351): it is dropped with an event, passes unprotected, or is protected by an association,
found in an entry of the receive-SC table. -/
inductive MsIn where
  | drop (k : Nat)
  | pass
  | sa (i entry : Nat)
  deriving DecidableEq, Repr

/-- MACsec reception on sub-port `s` (R351); an association in state INVALID is invalid too. -/
def macsecIn (d : Dev) (s : Nat) (bs : List Byte) : MsIn :=
  if bypassed d (etypeOf bs) then .pass
  else match secTagOf bs with
    | none => .drop 5
    | some t =>
      let sc := t.tci.testBit 5
      let es := t.tci.testBit 6
      let sci := if sc then t.sci else 65536 * beNat (sliceD 0 bs 6 6) + 1
      let entry : Option Nat :=
        if !sc && !es then some 0
        else (List.range 32).find? fun n => (rxscF d s n 7).testBit 0 && decide (rxscSci d s n = sci)
      match entry with
      | none => .drop 4
      | some n =>
        let w := rxscF d s n (2 + t.tci % 4)
        let i := w % 2 ^ 20
        if (rxscF d s n 7).testBit 0 && w.testBit 31 && saUsable d i [2, 3] false (s / 4) && decide (saState d i ≠ 0) then .sa i n else .drop 4

/-- The packet number of a received frame: for XPN recovered from its low 32 bits and the next expected number (IEEE 802.1AE). -/
def pnOf (xpn : Bool) (highest pn : Nat) : Nat :=
  if !xpn then pn
  else
    let nx := highest + 1
    let hi := nx / 2 ^ 32
    let up := decide (pn < nx % 2 ^ 32) && nx.testBit 31 && !pn.testBit 31
    (if up then hi + 1 else hi) * 2 ^ 32 + pn

/-- IV of a MACsec frame: SCI and PN, or for XPN the salt exclusive-ored with SSCI and the 64-bit PN (IEEE 802.1AE). -/
def macsecIv (d : Dev) (i sci pn : Nat) : List Byte :=
  if saMode d i = 3 then xorBytes (saBytes d i 0x10 12) (beBytes 4 (saF d i 4 4) ++ beBytes 8 pn)
  else beBytes 8 sci ++ beBytes 4 pn

/-- Bytes between a SecTAG and its ICV (IEEE 802.1AE): the short length where it is not 0, else all that the frame has. -/
def macsecLen (t : SecTag) (bs : List Byte) : Nat := if t.sl = 0 then bs.length - (12 + t.len) - 16 else t.sl

/-- Remove MACsec from a frame without its FCS: its bytes without SecTAG and ICV; none where the tag fails. Frames with TCI.E = 0 are
checked for integrity only. -/
def macsecOpen (d : Dev) (i : Nat) (key : List Byte) (sci pn : Nat) (t : SecTag) (bs : List Byte) : Option (List Byte) :=
  let n := macsecLen t bs
  if bs.length < 12 + t.len + n + 16 then none
  else
    let head := bs.take (12 + t.len)
    let body := (bs.drop (12 + t.len)).take n
    let tag := (bs.drop (12 + t.len + n)).take 16
    let iv := macsecIv d i sci pn
    if t.tci.testBit 3 then (gcmOpen key iv head body tag).map fun p => bs.take 12 ++ p
    else (gcmOpen key iv (head ++ body) [] tag).map fun _ => bs.take 12 ++ body

/-- Position of the ESP header of a frame that R171 hands to a cluster, and the end of the IP packet. -/
def espPos (bs : List Byte) : Option (Nat × Nat) :=
  let (et, o) := l3Pos bs
  let g (k : Nat) : Nat := (bs.getD (o + k) 0).toNat
  let w (k : Nat) : Nat := 256 * g k + g (k + 1)
  if et = 0x0800 ∧ g 0 = 0x45 ∧ w 6 % 0x4000 = 0 ∧ g 9 = 50 ∧ o + 28 ≤ bs.length then some (o + 20, o + w 2)
  else if et = 0x86DD ∧ g 0 / 16 = 6 ∧ g 6 = 50 ∧ o + 48 ≤ bs.length then some (o + 40, o + 40 + w 4)
  else none

/-- Whether a frame's input hands ESP to the cluster (R171). -/
def espEn (d : Dev) (i : Nat) : Bool := decide (i < 16) && cfgB d .swPgInput i 0 30

/-- The association of an ESP frame (R352): none where it has no association. -/
def espSa (d : Dev) (x : Nat) (bs : List Byte) (o : Nat) : Option Nat :=
  let spi := beNat (sliceD 0 bs o 4)
  let i := spi % 2 ^ 20
  if saUsable d i [1] false x && decide (saF d i 4 4 = spi) then some i else none

/-- The sequence number of an ESP frame: with ESN its 32 high bits as in RFC 4303 Appendix A, modulo 2^32, with the window of the
association. -/
def espSeq (d : Dev) (i highest low : Nat) : Nat :=
  if saCtl d i 5 1 = 0 then low
  else
    let w := max 1 (32 * saF d i 0x1D 1)
    let th := highest / 2 ^ 32
    let tl := highest % 2 ^ 32
    if w - 1 ≤ tl then (if tl + 1 - w ≤ low then th else (th + 1) % 2 ^ 32) * 2 ^ 32 + low
    else (if 2 ^ 32 + tl + 1 - w ≤ low then (th + 2 ^ 32 - 1) % 2 ^ 32 else th) * 2 ^ 32 + low

/-- Additional data of ESP (RFC 4106). -/
def espAad (d : Dev) (i seq : Nat) : List Byte :=
  beBytes 4 (saF d i 4 4) ++ (if saCtl d i 5 1 = 1 then beBytes 8 seq else beBytes 4 seq)

/-- Remove ESP from a frame without its FCS (R171): the outer headers and the ESP header stay, IV, padding, trailer and ICV go. The
answer holds the trailer's Next Header; none where the tag fails. -/
def espOpen (d : Dev) (i : Nat) (key : List Byte) (seq : Nat) (bs : List Byte) (o fin : Nat) : Option (List Byte × Nat) :=
  let fin := min fin bs.length
  if fin < o + 34 then none
  else
    let iv := sliceD 0 bs (o + 8) 8
    let ct := (bs.drop (o + 16)).take (fin - (o + 16) - 16)
    let tag := (bs.drop (fin - 16)).take 16
    match gcmOpen key (saBytes d i 0x10 4 ++ iv) (espAad d i seq) ct tag with
    | none => none
    | some p =>
      let nh := (p.getD (p.length - 1) 0).toNat
      let pad := (p.getD (p.length - 2) 0).toNat
      some (bs.take (o + 8) ++ p.take (p.length - 2 - pad), nh)

/-- Whether a sequence number is below the window or already marked (R352). -/
def espReplay (win highest bitmap seq : Nat) : Bool :=
  decide (win ≠ 0) && decide (seq ≤ highest) && (decide (32 * win ≤ highest - seq) || bitmap.testBit (highest - seq))

/-- Mark a sequence number. -/
def espMark (highest bitmap seq : Nat) : Nat × Nat :=
  if highest < seq then (seq, (bitmap <<< (seq - highest) ||| 1) % 2 ^ 256)
  else (highest, bitmap ||| 2 ^ (highest - seq))

/-! ### The key cache -/

/-- The plaintext of a frame's MACsec layer, whether or not its tag holds: the ESP header is read from it as the frame arrives. -/
def macsecText (d : Dev) (i : Nat) (k : KeyEnt) (entry s : Nat) (bs : List Byte) : List Byte :=
  match secTagOf bs with
  | none => bs
  | some t =>
    let body := (bs.drop (12 + t.len)).take (macsecLen t bs)
    let pn := pnOf (decide (saMode d i = 3)) k.highest t.pn
    let sci := if t.tci.testBit 5 then t.sci else if t.tci.testBit 6 then 65536 * beNat (sliceD 0 bs 6 6) + 1 else rxscSci d s entry
    bs.take 12 ++ (if t.tci.testBit 3 then ctrText (roundKeys k.key) (macsecIv d i sci pn) body else body)

/-- Associations that a frame at an ingress cluster names, from the outside in (R351, R352): the ESP header under MACsec is read with a
resident key. -/
def inNames (d : Dev) (s : Nat) (bs : List Byte) : List Nat :=
  let esp (bs : List Byte) : List Nat :=
    ((if espEn d s then espPos bs else none).bind fun o => espSa d (s / 4) bs o.1).toList
  if !cfgB d .ciSpCfg s 0 31 then esp bs
  else match macsecIn d s bs with
    | .drop _ => []
    | .pass => esp bs
    | .sa i n => i :: (match keyOf d i with
      | some k => esp (macsecText d i k n s bs)
      | none => [])

/-- Whether an association is pinned (R349): a frame in a hold buffer, or a copy that an egress cluster has taken and not yet protected,
names it. -/
def saPinned (d : Dev) (i : Nat) : Bool :=
  (d.ci.eq.any fun e => e.2.any fun c => match copyOf d c with
    | some c => decide (i ∈ copySas c)
    | none => false) ||
  (d.ci.holds.any fun e => match e.2, frameOf d e.1 with
    | some _, some f => decide (i ∈ inNames d f.input (noFcs f.bytes))
    | _, _ => false)

/-- Entries of a domain in the cache. -/
def domKeys (d : Dev) (dm : Nat) : List (Nat × KeyEnt) :=
  d.ci.cache.filterMap fun e => match e.2 with
    | some k => if k.dom = dm then some (e.1, k) else none
    | none => none

/-- Resident associations of the whole device, of which there may be 16,384 (R3, R348). -/
def cacheFill (d : Dev) : Nat := (d.ci.cache.filter fun e => e.2.isSome).length

/-- SHARE of a domain. -/
def domShare (d : Dev) (dm : Nat) : Nat := cfgF d .ciCacheShare dm 0 0 15

/-- Take an association out of the cache; its state is written back (R346). -/
def evictKey (d : Dev) (i : Nat) : Dev :=
  match keyOf d i with
  | some k => putKey (saWriteBack d i k) i none
  | none => d

/-- Ask for a fill. -/
def askFill (d : Dev) (i : Nat) : Dev :=
  if d.ci.fills.any fun e => e.1 = i then d else { d with ci := { d.ci with fills := d.ci.fills ++ [(i, false)] } }

/-- The least recently used unpinned entry of a domain. -/
def oldestKey (d : Dev) (dm : Nat) : Option Nat :=
  ((domKeys d dm).filter fun e => !saPinned d e.1).foldl (fun (b : Option (Nat × KeyEnt)) e =>
    match b with
    | none => some e
    | some o => if e.2.used < o.2.used then some e else some o) none |>.map (·.1)

/-- One served fill at a boundary: the first domain after the one served last that has a fill waiting. -/
def serveFill (d : Dev) : Dev :=
  let wait := d.ci.fills.filter fun e => !e.2
  let dist (i : Nat) : Nat := (saDomain d i + 512 - d.ci.fillDom - 1) % 256
  match wait.foldl (fun (b : Option Nat) e => match b with
      | none => some e.1
      | some o => if dist e.1 < dist o then some e.1 else some o) none with
  | none => d
  | some i =>
    { d with ci := { d.ci with fills := d.ci.fills.map fun e => if e.1 = i then (i, true) else e, fillDom := saDomain d i } }

/-- The unwrapped key of an association (R341). -/
def unwrapKey (d : Dev) (dk : List Byte) (i : Nat) : Option (List Byte) :=
  gcmOpen dk (saBytes d i 0x80 12) (leBytes 4 i ++ saBytes d i 0 0x20) (saBytes d i 0x90 64) (saBytes d i 0xD0 16)

/-- Bytes of an association's key: one GCM key, or two for XTS. -/
def keyLen (d : Dev) (i : Nat) : Nat := (if saCtl d i 3 1 = 1 then 32 else 16) * (if saMode d i = 4 then 2 else 1)

/-- KEY_FILL_DONE (R349, R341): a served fill completes. Where the domain's share or the whole cache is full it takes the place of the
domain's least recently used unpinned entry, and waits while there is none (DEDUCED for the whole cache, log entry 296). An entry whose
unwrap fails is disabled. -/
def keyFill (dk : List Byte) (i : Nat) (d : Dev) : Dev :=
  if (i, true) ∉ d.ci.fills then d
  else
    let drop (d : Dev) : Dev := { d with ci := { d.ci with fills := d.ci.fills.filter fun e => e.1 ≠ i } }
    if (keyOf d i).isSome ∨ !saValid d i then drop d
    else match unwrapKey d dk i with
      | none => raise (ciCount (saSet (drop d) i 3) 0 13) 14
      | some key =>
        let dm := saDomain d i
        let n := (domKeys d dm).length
        let ent : KeyEnt := { dom := dm, key := key.take (keyLen d i), count := saF d i 0x20 8, highest := saF d i 0x40 8,
                              bitmap := saF d i 0x48 32, leased := none, leasing := none, used := 0, fresh := 0 }
        if n < domShare d dm ∧ cacheFill d < 16384 then touchKey (drop d) i ent
        else match oldestKey d dm with
          | none => d
          | some o => touchKey (drop (evictKey d o)) i ent

/-! ### Hold buffer -/

/-- A frame in a hold buffer. -/
def holdOf (d : Dev) (f : Nat) : Option HoldF := mget d.ci.holds f none

/-- Store it. -/
def putHold (d : Dev) (f : Nat) (h : Option HoldF) : Dev := { d with ci := { d.ci with holds := mput d.ci.holds f h none } }

/-- Cells of a cluster's hold buffer in use: 2 MiB are 8,192 cells of 256 B (R353, R354). -/
def holdUse (d : Dev) (c : Nat) : Nat :=
  d.ci.holds.foldl (fun n e => match e.2, frameOf d e.1 with
    | some h, some f => if f.input / 4 = c then n + h.cells else n
    | _, _ => n) 0

/-- A frame is dropped at an ingress cluster. -/
def holdDrop (d : Dev) (id c k : Nat) : Dev := putHold (putFrame (ciCount d c k) id none) id none

/-- What protects a frame at ingress, from the outside in: MACsec with the entry that names it, then ESP. `key` answers a resident key,
so that the ESP header under MACsec can be read. -/
inductive InPlan where
  | drop (k : Nat)
  | wait (i : Nat)
  | go (ms : Option (Nat × Nat)) (esp : Option Nat) (noSa : Bool)
  deriving DecidableEq, Repr

/-- The plan of a frame (R351, R352); `bs` is without its FCS. -/
def inPlan (d : Dev) (s : Nat) (bs : List Byte) : InPlan :=
  let x := s / 4
  let esp (ms : Option (Nat × Nat)) (bs : List Byte) : InPlan :=
    match (if espEn d s then espPos bs else none) with
    | none => .go ms none false
    | some o => match espSa d x bs o.1 with
      | none => if cfgB d .ciSpCfg s 0 28 then .go ms none true else .drop 6
      | some i => if (keyOf d i).isSome then .go ms (some i) false else .wait i
  if !cfgB d .ciSpCfg s 0 31 then esp none bs
  else match macsecIn d s bs with
    | .drop k => .drop k
    | .pass => esp none bs
    | .sa i n => match keyOf d i with
      | none => .wait i
      | some k => esp (some (i, n)) (macsecText d i k n s bs)

/-- INGRESS_DECRYPT (R351 to R354): the cluster takes a frame that port receive handed to it, while its hold buffer has RXMAX cells
free; the frame is dropped, waits for a fill, or its plaintext goes into the hold buffer. -/
def ingressDecrypt (id : Nat) (d : Dev) : Dev :=
  match frameOf d id with
  | none => d
  | some f =>
    let c := f.input / 4
    if f.st ≠ .cipher ∨ (mget d.ci.resetTill c none).isSome then d
    else
      let taken := holdOf d id
      if taken = none ∧ 8192 < holdUse d c + rxmaxOf d f.input then putFrame (ciCount d c 2) id none
      else
        let h : HoldF := taken.getD ⟨cellsOf f.bytes.length, none, false⟩
        if h.ready then d
        else match inPlan d f.input (f.bytes.take (f.bytes.length - 4)) with
          | .drop k => holdDrop d id c k
          | .wait i => askFill (putHold d id (some { h with since := some (h.since.getD d.tick) })) i
          | .go _ _ _ => putHold d id (some { h with since := none, ready := true })

/-- One frame more has passed an ingress association: COUNT, HIGHEST and BITMAP (R343, R346). -/
def inAccept (d : Dev) (i : Nat) (k : KeyEnt) (highest bitmap : Nat) : Dev :=
  let k := { k with count := k.count + 1, highest := highest, bitmap := bitmap, fresh := k.fresh + 1 }
  let d := if k.fresh = 65536 then saWriteBack d i k else d
  saCounted (touchKey d i { k with fresh := k.fresh % 65536 }) i k.count

/-- Remove the MACsec layer: the frame's bytes, or the event it is dropped with. -/
def inMacsec (d : Dev) (s i entry : Nat) (bs : List Byte) : Dev × Sum Nat (List Byte) :=
  match keyOf d i, secTagOf bs with
  | some k, some t =>
    let pn := pnOf (decide (saMode d i = 3)) k.highest t.pn
    let sci := if t.tci.testBit 5 then t.sci else if t.tci.testBit 6 then 65536 * beNat (sliceD 0 bs 6 6) + 1 else rxscSci d s entry
    match macsecOpen d i k.key sci pn t bs with
    | none => (d, .inl 0)
    | some p =>
      if (rxscF d s entry 7).testBit 1 ∧ pn + rxscF d s entry 6 < k.highest + 1 then (d, .inl 1)
      else if saHard d i ≤ k.count then (d, .inl 7)
      else (inAccept d i k (max k.highest pn) k.bitmap, .inr p)
  | _, _ => (d, .inl 4)

/-- Remove the ESP layer. -/
def inEsp (d : Dev) (i : Nat) (bs : List Byte) : Dev × Sum Nat (List Byte × Nat) :=
  match keyOf d i, espPos bs with
  | some k, some (o, fin) =>
    let seq := espSeq d i k.highest (beNat (sliceD 0 bs (o + 4) 4))
    match espOpen d i k.key seq bs o fin with
    | none => (d, .inl 0)
    | some p =>
      if espReplay (saF d i 0x1D 1) k.highest k.bitmap seq then (d, .inl 1)
      else if saHard d i ≤ k.count then (d, .inl 7)
      else
        let m := espMark k.highest k.bitmap seq
        (inAccept d i k m.1 m.2, .inr p)
  | _, _ => (d, .inl 6)

/-- The frame that leaves the cluster is presented to the packet buffer under R223: a frame that port receive found bad stays bad, and one
longer than RXMAX is truncated and bad. -/
def inPresent (d : Dev) (id : Nat) (f : Frame) : Dev :=
  let d := putHold d id none
  if canTake d f.input then putFrame d id (some (rxCut d { f with st := .receiving, whole := true, got := cellsOf f.bytes.length }))
  else count (putFrame d id none) .swInRxdrop f.input 0

/-- INGRESS_TAG_VERIFY (R353): the tags of a frame in the hold buffer are verified, then the replay checks are made; a frame that
passes is presented to the packet buffer without its SecTAG, IV, padding, trailers and ICVs. -/
def ingressVerify (id : Nat) (d : Dev) : Dev :=
  match frameOf d id, holdOf d id with
  | some f, some h =>
    if !h.ready then d
    else
      let c := f.input / 4
      let f := { f with bad := f.bad || !fcsGood f.bytes }
      let bs := noFcs f.bytes
      match inPlan d f.input bs with
      | .drop k => holdDrop d id c k
      | .wait i => askFill (putHold d id (some { h with since := some d.tick, ready := false })) i
      | .go ms esp noSa =>
        let r : Dev × Sum Nat (List Byte) := match ms with
          | none => (d, .inr bs)
          | some (i, n) => inMacsec d f.input i n bs
        match r with
        | (d, .inl k) => holdDrop d id c k
        | (d, .inr bs1) =>
          let d := if noSa then ciCount d c 12 else d
          match esp with
          | none =>
            if ms = none then inPresent d id f
            else inPresent d id { f with bytes := bs1 ++ fcsOf bs1, macsec := true }
          | some i => match inEsp d i bs1 with
            | (d, .inl k) => holdDrop d id c k
            | (d, .inr p) => inPresent d id { f with bytes := p.1 ++ fcsOf p.1, macsec := ms.isSome, esp := some p.2 }
  | _, _ => d

/-! ### Egress -/

/-- Where ESP protection of a frame begins (R355): the position of its first IP header, of the payload, and whether it is IPv6. -/
def espPlace (bs : List Byte) : Option (Nat × Nat × Bool) :=
  let (et, o) := l3Pos bs
  let g (k : Nat) : Nat := (bs.getD (o + k) 0).toNat
  if et = 0x0800 ∧ g 0 = 0x45 ∧ (256 * g 6 + g 7) % 0x4000 = 0 ∧ o + 20 ≤ bs.length then some (o, o + 20, false)
  else if et = 0x86DD ∧ g 0 / 16 = 6 ∧ g 6 ∉ [0, 43, 44, 60] ∧ o + 40 ≤ bs.length then some (o, o + 40, true)
  else none

/-- Bytes of ESP padding. -/
def espPad (n : Nat) : Nat := (4 - (n + 2) % 4) % 4

/-- Protect a frame with ESP (R355). -/
def espSeal (d : Dev) (i : Nat) (key : List Byte) (seq : Nat) (bs : List Byte) (o p : Nat) (v6 : Bool) : List Byte :=
  let at_ := if v6 then o + 6 else o + 9
  let nh := bs.getD at_ 0
  let pay := bs.drop p
  let n := espPad pay.length
  let text := pay ++ (List.range n).map (fun k => BitVec.ofNat 8 (k + 1)) ++ [BitVec.ofNat 8 n, nh]
  let iv := beBytes 8 seq
  let r := gcmSeal key (saBytes d i 0x10 4 ++ iv) (espAad d i seq) text
  let out := overwrite (bs.take p) at_ [50#8] ++ beBytes 4 (saF d i 4 4) ++ beBytes 4 seq ++ iv ++ r.1 ++ r.2
  if v6 then overwrite out (o + 4) (beBytes 2 (out.length - p))
  else
    let out := overwrite out (o + 2) (beBytes 2 (out.length - o))
    overwrite out (o + 10) (beBytes 2 (ipv4Csum out o))

/-- Length of a frame after ESP. -/
def espGrow (bs : List Byte) (p : Nat) : Nat := bs.length + 16 + espPad (bs.length - p) + 2 + 16

/-- Protect a frame with MACsec (R356). The ES bit of a SecTAG without SCI is not stated. -/
def macsecSeal (d : Dev) (i : Nat) (key : List Byte) (pn : Nat) (sc : Bool) (bs : List Byte) : List Byte :=
  let sci := saF d i 8 8
  let conf := decide (saCtl d i 6 1 = 1)
  let data := bs.drop 12
  let es := !sc && Config.secTagEs sci (beNat (sliceD 0 bs 6 6))
  let tci := (if es then 64 else 0) + (if sc then 32 else 0) + (if conf then 12 else 0) + saF d i 0x1C 1 % 4
  let sl := if data.length < 48 then data.length else 0
  let head := bs.take 12 ++ beBytes 2 0x88E5 ++ [BitVec.ofNat 8 tci, BitVec.ofNat 8 sl] ++ beBytes 4 pn
    ++ (if sc then beBytes 8 sci else [])
  let iv := macsecIv d i sci pn
  if conf then
    let r := gcmSeal key iv head data
    head ++ r.1 ++ r.2
  else head ++ data ++ (gcmSeal key iv (head ++ data) []).2

/-- Whether an egress association may protect its next frame (R343, R346). -/
inductive Lease where
  | ok (v : Nat)
  | hard
  | wait
  deriving DecidableEq, Repr

/-- The lease that R346 asks for before the first frame after a fill, and once COUNT has passed LEASE - 32,768. -/
def leaseWant (d : Dev) (i : Nat) (k : KeyEnt) : KeyEnt :=
  let due := match k.leased with
    | none => true
    | some l => decide (l < k.count + 32768) && decide (l < saHard d i)
  if due && k.leasing.isNone then { k with leasing := some (min (k.count + 65536) (saHard d i)) } else k

/-- Whether the next value may be taken. -/
def leaseAsk (d : Dev) (i : Nat) (k : KeyEnt) : Lease :=
  if saHard d i ≤ k.count then .hard
  else match k.leased with
    | some l => if k.count + 1 ≤ l then .ok (k.count + 1) else .wait
    | none => .wait

/-- Take the next value (R343). -/
def takeValue (d : Dev) (i : Nat) (k : KeyEnt) (v : Nat) : Dev :=
  saCounted (touchKey d i (leaseWant d i { k with count := v })) i v

/-- LEASE_WRITE_DONE (R346). -/
def leaseDone (i : Nat) (d : Dev) : Dev :=
  match keyOf d i with
  | none => d
  | some k => match k.leasing with
    | none => d
    | some l => putKey (saWr d i 0x38 (leBytes 8 l)) i (some (leaseWant d i { k with leased := some l, leasing := none }))

/-- Cluster that protects toward a destination. -/
def outCluster (dst : Nat) : Nat := 4 + clusterPort dst

/-- Copies waiting in an egress cluster. -/
def eqOf (d : Dev) (c : Nat) : List Nat := mget d.ci.eq c []

/-- Store them. -/
def putEq (d : Dev) (c : Nat) (l : List Nat) : Dev := { d with ci := { d.ci with eq := mput d.ci.eq c l [] } }

/-- MACsec transmission of a sub-port with TX_EN (R356): TX_SA, and whether the SecTAG carries the SCI. -/
def txSa (d : Dev) (dst : Nat) : Option (Nat × Bool) :=
  if dst < 16 ∧ cfgB d .ciSpCfg dst 0 30 then some (cfgF d .ciSpCfg dst 0 0 20, cfgB d .ciSpCfg dst 0 29) else none

/-- What a cluster decides for one association of an egress frame: the event it is dropped with, a wait, or its next value. -/
def outCheck (d : Dev) (i : Nat) (modes : List Nat) (x : Nat) : Sum Nat (Option (KeyEnt × Nat)) :=
  if !(decide (saMode d i ∈ modes) && saEgress d i && decide (saPort d i = x)) then .inl 8
  else if saState d i = 3 then .inl 7
  else match keyOf d i with
    | none => .inr none
    | some k => match leaseAsk d i k with
      | .hard => .inl 7
      | .wait => .inr none
      | .ok v => .inr (some (k, v))

/-- A wait at the cluster input asks for the fill or the lease it needs. -/
def outWait (d : Dev) (i : Nat) : Dev :=
  match keyOf d i with
  | none => askFill d i
  | some k => putKey d i (some (leaseWant d i k))

/-- EGRESS_PROTECT (R345, R355 to R357) on one frame without FCS: waits, is dropped with an event, or the bytes that leave. Values are taken
after every check. -/
def protectBytes (d : Dev) (c : Copy) (bs : List Byte) : Dev × Sum (Option Nat) (List Byte) :=
  let x := clusterPort c.dest
  let place := espPlace bs
  let e := espOut c
  let m := c.tx.map (·.1)
  let sc := match c.tx with | some t => t.2 | none => false
  let eChk : Sum Nat (Option (KeyEnt × Nat)) := match e with
    | none => .inr none
    | some i => outCheck d i [1] x
  let mChk : Sum Nat (Option (KeyEnt × Nat)) := match m with
    | none => .inr none
    | some i => outCheck d i [2, 3] x
  let len1 := match e, place with
    | some _, some p => espGrow bs p.2.1
    | _, _ => bs.length
  let len2 := match m with
    | some _ => len1 + 8 + (if sc then 8 else 0) + 16
    | none => len1
  match e, place, eChk, m, mChk with
  | some _, _, .inl 8, _, _ => (d, .inl (some 8))
  | _, _, _, some _, .inl 8 => (d, .inl (some 8))
  | some _, none, _, _, _ => (d, .inl (some 9))
  | _, _, _, _, _ =>
    if c.dest < 16 ∧ cfgF d .ciSpMaxlen c.dest 0 0 14 < len2 + 4 then (d, .inl (some 10))
    else match eChk, mChk with
      | .inl k, _ => (d, .inl (some k))
      | _, .inl k =>
        let i := m.getD 0
        let d := if i ∈ d.ci.txDown then d else raise { d with ci := { d.ci with txDown := d.ci.txDown ++ [i] } } 16
        (d, .inl (some k))
      | .inr ev, .inr mv =>
        match e, ev, m, mv with
        | some i, none, _, _ => (outWait d i, .inl none)
        | _, _, some i, none => (outWait d i, .inl none)
        | _, _, _, _ =>
          let r1 : Dev × List Byte := match e, ev, place with
            | some i, some (k, v), some (o, p, v6) => (takeValue d i k v, espSeal d i k.key v bs o p v6)
            | _, _, _ => (d, bs)
          let d := r1.1
          match m, mv with
          | some i, some (k, v) => (takeValue d i k v, .inr (macsecSeal d i k.key v sc r1.2))
          | _, _ => (d, .inr r1.2)

/-- The associations that a copy still waits for before the editor takes it: not resident (R350), or toward a cluster that is not AWAKE
(R440). -/
def outMissing (d : Dev) (c : Copy) : List Nat :=
  ((match espOut c with | some i => [i] | none => []) ++ (match txSa d c.dest with | some t => [t.1] | none => [])).filter
    fun i => ((keyOf d i).isNone || !awake d (33 + outCluster c.dest)) && decide (saState d i ≠ 3)

/-! ### Association commands -/

/-- SA_READ, SA_DISABLE, SA_SET_SOFT, SA_EVICT: a write of CI_SA_CMD (Table 12-15). -/
def saStart (op sa : Nat) (d : Dev) : Dev :=
  if bit (cur d .ciSaCmd 0 0) 31 then flag d .ciSaCmd 0 0 30 true
  else
    let w := setFld (setFld (cur d .ciSaCmd 0 0) 23 3 op) 0 20 sa
    if op = 0 then setCur d .ciSaCmd 0 0 w
    else
      let d := setCur d .ciSaCmd 0 0 (setBit w 31 true)
      { d with ci := { d.ci with saOp := some (op, sa) } }

/-- READ: bytes 0x00-0x7F with COUNT, HIGHEST and BITMAP current, STATE in the last word. -/
def saReadData (d : Dev) (i : Nat) : Dev :=
  let bs := saBytes d i 0 0x80
  let bs := match keyOf d i with
    | none => bs
    | some k => overwrite (overwrite bs 0x20 (leBytes 8 k.count)) 0x40 (leBytes 8 k.highest ++ leBytes 32 k.bitmap)
  (List.range 32).foldl (fun d w =>
    let v : Word := BitVec.ofNat 32 (leNat (sliceD 0 bs (4 * w) 4))
    setCur d .ciSaData w 0 (if w = 31 then setFld v 0 4 (saState d i) else v)) d

/-- The association command that waits, performed at the boundary. -/
def saPerform (d : Dev) : Dev :=
  match d.ci.saOp with
  | none => d
  | some (op, i) =>
    let d := { d with ci := { d.ci with saOp := none } }
    let fin (d : Dev) (st : Nat) : Dev := setCur d .ciSaCmd 0 0 (setBit (setFld (cur d .ciSaCmd 0 0) 26 4 st) 31 false)
    if 4 < op then fin d 0
    else if !saValid d i then fin d 2
    else match op with
      | 1 => fin (saReadData d i) 0
      | 2 => fin (rekeyNotice (saSet d i 3) i true) 0
      | 3 =>
        let soft := (cur d .ciSaData 10 0).toNat + 2 ^ 32 * (cur d .ciSaData 11 0).toNat
        if saHard d i < soft ∨ soft = 0 then fin d 2
        else
          let d := saWr d i 0x28 (leBytes 8 soft)
          let cnt := match keyOf d i with | some k => k.count | none => saF d i 0x20 8
          fin (if soft ≤ cnt ∧ saNext d i = 1 then rekeyNotice (saSet d i 2) i false else d) 0
      | _ => if saPinned d i then fin d 2 else fin (evictKey d i) 0

/-- CI_REKEY_Q_READ (R347): the word read; the oldest notice is removed and LOST is cleared. -/
def rekeyRead (d : Dev) : Dev × Word :=
  let lost := bit (cur d .ciRekeyQ 0 0) 30
  let d := setCur d .ciRekeyQ 0 0 0
  match d.ci.rekey with
  | [] => (d, setBit 0 30 lost)
  | (i, hard) :: rest =>
    ({ d with ci := { d.ci with rekey := rest } }, setFld (setBit (setBit (setBit 0 31 true) 30 lost) 20 hard) 0 20 i)

/-- The changes of the state array that a boundary makes (R342); an association installed again may raise MACSEC_TX_DOWN again. -/
def saBoundary (d : Dev) : Dev :=
  let d := d.ci.stPend.foldl (fun d e =>
    { d with ci := { d.ci with st := mput d.ci.st e.1 e.2 0,
                               txDown := if e.2 = 3 then d.ci.txDown else d.ci.txDown.filter fun x => x ≠ e.1 } }) d
  { d with ci := { d.ci with stPend := [] } }

/-- CI_CACHE_USE at a boundary (Table 12-14). -/
def cacheUse (d : Dev) : Dev :=
  let doms := ((d.ci.cache.filterMap fun e => e.2.map (·.dom)) ++ (List.range 256).filter fun n => cur d .ciCacheUse n 0 ≠ 0).eraseDups
  doms.foldl (fun d n =>
    let ks := domKeys d n
    setCur d .ciCacheUse n 0 (setFld (setFld 0 0 15 ks.length) 16 15 (ks.filter fun e => saPinned d e.1).length)) d

/-- CI_COMMIT's check (R348): the shares may not sum to more than 16,384 while STRICT is 1. -/
def ciShareOk (d : Dev) : Bool :=
  decide ((List.range 256).foldl (fun n k => n + fld (cur d .ciCacheShare k 0) 0 15) 0 ≤ 16384)

end Sys2Proof.Machine
end

