-- ==== Sys2Proof/Machine/Flags.lean ====
section
/-! DEFINITION. The arithmetic of the Whorl instructions: operating width (R81), results and FLAGS of Table 3-7 and Table 3-8
(R80, R82, R83, R84), conditions (R79) and bit fields (R86). FLAGS holds [3] N, [2] Z, [1] C, [0] V (Table 3-2). -/

namespace Sys2Proof.Machine

/-- The operating width in bits: 64 with W = 0, 32 with W = 1 (R81). -/
def opWidth (w : Bool) : Nat := if w then 32 else 64

/-- FLAGS from its four bits. -/
def packFlags (n z c v : Bool) : BitVec 4 := BitVec.ofNat 4 (8 * b2n n + 4 * b2n z + 2 * b2n c + b2n v)

/-- Whether an integer lies outside the signed numbers of `n` bits. -/
def signedOut (n : Nat) (i : Int) : Bool := decide (i < -(2 ^ (n - 1) : Nat) ∨ (2 ^ (n - 1) : Nat) ≤ i)

/-- FLAGS of a result `r` at width `n` with the given C and V (R80). -/
def flagsOf (n r : Nat) (c v : Bool) : BitVec 4 := packFlags (decide (2 ^ (n - 1) ≤ r)) (decide (r = 0)) c v

/-- C of an addition (Table 3-6): the carry out of the most significant bit. -/
def addC (n a b : Nat) : Bool := decide (2 ^ n ≤ a + b)

/-- V of an addition (Table 3-6): signed overflow. -/
def addV (n a b : Nat) : Bool := signedOut n (sextInt n a + sextInt n b)

/-- C of a subtraction (Table 3-6): 1 when no borrow occurs. -/
def subC (a b : Nat) : Bool := decide (b ≤ a)

/-- V of a subtraction (Table 3-6): signed overflow. -/
def subV (n a b : Nat) : Bool := signedOut n (sextInt n a - sextInt n b)

/-- The sum of the 16-bit parts of a value, `k` parts (R83). -/
def sum16 : Nat → Nat → Nat
  | 0, _ => 0
  | k + 1, v => v % 65536 + sum16 k (v / 65536)

/-- Fold a sum: add any carry above bit 15 back into bits [15:0] until none remains (R83); three folds suffice for the sum of
eight parts. -/
def fold16 (s : Nat) : Nat :=
  let f := fun x : Nat => x % 65536 + x / 65536
  f (f (f s))

/-- Rotate left within `n` bits. -/
def rolNat (n a s : Nat) : Nat := (a <<< s ||| a >>> (n - s)) % 2 ^ n

/-- Shift left within `n` bits. -/
def shlNat (n a s : Nat) : Nat := (a <<< s) % 2 ^ n

/-- Shift right within `n` bits with the sign in. -/
def sarNat (n a s : Nat) : Nat := intMod n (sextInt n a / (2 ^ s : Nat))

/-- Subtraction modulo `2 ^ n`. -/
def subNat (n a b : Nat) : Nat := (a + 2 ^ n - b) % 2 ^ n

/-- AND of `a` with NOT `b` within `n` bits. -/
def andnNat (n a b : Nat) : Nat := a &&& (2 ^ n - 1 - b)

/-- The result of a register instruction at width `n`, its operands already cut to that width (Table 3-7). CMP computes
A - B and TST A AND B. -/
def aluVal (op : AluOp) (n a b : Nat) : Nat :=
  match op with
  | .add => (a + b) % 2 ^ n
  | .sub | .cmp => subNat n a b
  | .and | .tst => a &&& b
  | .or => a ||| b
  | .xor => a ^^^ b
  | .andn => andnNat n a b
  | .shl => shlNat n a (b % n)
  | .shr => a >>> (b % n)
  | .sar => sarNat n a (b % n)
  | .rol => rolNat n a (b % n)
  | .minu => min a b
  | .maxu => max a b
  | .mul => (a * b) % 2 ^ n
  | .csum => fold16 (sum16 (n / 16) a + sum16 (n / 16) b)

/-- FLAGS of a register instruction (R80, Table 3-6). -/
def aluFlags (op : AluOp) (n a b : Nat) : BitVec 4 :=
  match op with
  | .add => flagsOf n (aluVal op n a b) (addC n a b) (addV n a b)
  | .sub | .cmp => flagsOf n (aluVal op n a b) (subC a b) (subV n a b)
  | _ => flagsOf n (aluVal op n a b) false false

/-- CMP and TST write FLAGS always and no register (R82). -/
def aluNoDest : AluOp → Bool
  | .cmp | .tst => true
  | _ => false

/-- Count of 1 bits in the low `n` bits. -/
def popNat : Nat → Nat → Nat
  | 0, _ => 0
  | n + 1, v => v % 2 + popNat n (v / 2)

/-- Count of leading zeros within `n` bits. -/
def clzNat : Nat → Nat → Nat
  | 0, _ => 0
  | n + 1, v => if v.testBit n then 0 else 1 + clzNat n v

/-- The result of a unary instruction at width `n` (Table 3-7). -/
def unVal (op : UnOp) (n a : Nat) : Nat :=
  match op with
  | .clz => clzNat n a
  | .popc => popNat n a
  | .bswap => leNat (leBytes (n / 8) a).reverse

/-- IMM as the instruction uses it at width `n`: sign-extended for ADDI, SUBI and CMPI, zero-extended otherwise (R84). -/
def immVal (op : ImmOp) (n : Nat) (imm : BitVec 12) : Nat :=
  match op with
  | .addi | .subi | .cmpi => intMod n (sextInt 12 imm.toNat)
  | _ => imm.toNat

/-- The register operation that an immediate instruction performs (Table 3-8). -/
def immAlu : ImmOp → AluOp
  | .addi => .add | .subi => .sub | .andi => .and | .ori => .or | .xori => .xor | .shli => .shl
  | .shri => .shr | .sari => .sar | .roli => .rol | .cmpi => .cmp | .tsti => .tst

/-- Whether a condition holds on FLAGS (Table 3-5). COND 0xF is illegal and never evaluated. -/
def condHolds (c : BitVec 4) (f : BitVec 4) : Bool :=
  let n := bit f 3; let z := bit f 2; let cy := bit f 1; let v := bit f 0
  match c.toNat with
  | 0 => true
  | 1 => z
  | 2 => !z
  | 3 => !cy
  | 4 => cy
  | 5 => n != v
  | 6 => n == v
  | 7 => !cy || z
  | 8 => cy && !z
  | 9 => z || n != v
  | 10 => !z && n == v
  | 11 => n
  | 12 => !n
  | 13 => v
  | 14 => !v
  | _ => false

/-- The field [pos + len - 1 : pos] of a 64-bit value, zero-extended (R86). -/
def extNat (v pos len : Nat) : Nat := (v >>> pos) % 2 ^ len

/-- `old` with the field [pos + len - 1 : pos] replaced by the low `len` bits of `v` (R86). -/
def insNat (old v pos len : Nat) : Nat :=
  old - extNat old pos len * 2 ^ pos + (v % 2 ^ len) * 2 ^ pos

end Sys2Proof.Machine
end

