-- ==== Sys2Proof/Machine/Operands.lean ====
section
/-! DEFINITION. Operand forms and encodings of the Whorl instructions: operand specifiers (R77), instruction words (Table 3-3,
Table 4-2), the word decoder of R78 that gives an instruction or the cause of its fault (Table 3-11, Table 4-13), and the
legality of each instruction's fields. -/

namespace Sys2Proof.Machine

/-- Operand specifiers 0-31 select G0-G31, 32-39 P0-P7, 40-63 are reserved (R77). -/
def specOk (x : BitVec 6) : Bool := decide (x.toNat < 40)

/-- A G register; G0 reads 0 (Table 3-1). -/
def gRd (t : Thread) (i : Nat) : DWord := if i = 0 then 0 else mget t.g i 0

/-- Write a G register; a write of G0 is discarded (Table 3-1). -/
def gWr (t : Thread) (i : Nat) (v : DWord) : Thread := if i = 0 then t else { t with g := mput t.g i v 0 }

/-- The value an operand specifier selects. -/
def specRd (t : Thread) (x : BitVec 6) : DWord :=
  if x.toNat < 32 then gRd t x.toNat else mget t.p (x.toNat - 32) 0

/-- A header-window register. -/
def hRd (t : Thread) (i : Nat) : Word := mget t.h i 0

/-- The 64-bit value V that EXTH reads: Hn in [63:32] and Hn+1 in [31:0], which are 0 for n = 31 (R86). -/
def hPair (t : Thread) (i : Nat) : Nat := (hRd t i).toNat * 2 ^ 32 + (if i = 31 then 0 else (hRd t (i + 1)).toNat)

/-- Opcode of a register instruction (Table 3-7). -/
def aluCode : AluOp → Nat
  | .add => 0x08 | .sub => 0x09 | .and => 0x0A | .or => 0x0B | .xor => 0x0C | .andn => 0x0D | .shl => 0x0E | .shr => 0x0F
  | .sar => 0x10 | .rol => 0x11 | .minu => 0x12 | .maxu => 0x13 | .mul => 0x14 | .csum => 0x15 | .cmp => 0x16 | .tst => 0x17

/-- Opcode of a unary instruction (Table 3-7). -/
def unCode : UnOp → Nat
  | .clz => 0x18 | .popc => 0x19 | .bswap => 0x1A

/-- Opcode of an immediate instruction (Table 3-8). -/
def immCode : ImmOp → Nat
  | .addi => 0x20 | .subi => 0x21 | .andi => 0x22 | .ori => 0x23 | .xori => 0x24 | .shli => 0x25 | .shri => 0x26
  | .sari => 0x27 | .roli => 0x28 | .cmpi => 0x29 | .tsti => 0x2A

/-- Opcode of a bit-field instruction (Table 3-9). -/
def bfCode : BfOp → Nat
  | .ext => 0x30 | .exts => 0x31 | .ins => 0x32 | .exth => 0x33 | .insh => 0x34

/-- Opcode of a local-memory instruction (R87). -/
def lmCode : LmOp → Nat
  | .ld => 0x38 | .ldsx => 0x39 | .st => 0x3A

/-- Opcode and SUB of a posted operation (Tables 4-1, 4-4, 4-5, 4-6, R122, R123). -/
def popCode : POp → Nat × Nat
  | .lkpMacDst => (0x62, 1) | .lkpMacSrc => (0x62, 2) | .lkpLpm4 => (0x62, 3) | .lkpLpm6 => (0x62, 4) | .lkpTun => (0x62, 5)
  | .flowFind => (0x63, 1) | .flowFindIns => (0x63, 2) | .flowUpdate => (0x63, 3) | .flowDelete => (0x63, 4)
  | .cntAdd => (0x64, 1) | .cntRead => (0x64, 2)
  | .mtr p => (0x65, p.toNat) | .hash k => (0x66, k.toNat)
  | .lockAcq => (0x67, 1) | .lockTry => (0x67, 2) | .lockRel => (0x67, 3) | .lockPoll => (0x67, 4)
  | .chanOpen => (0x68, 1) | .chanWrite w => (0x68, 0x10 + w.val) | .chanCommit => (0x68, 0x20) | .chanRead => (0x68, 0x30)
  | .cattAttach => (0x69, 1) | .cattDetach => (0x69, 2)
  | .mrd => (0x6A, 0) | .mwr s => (0x6B, s.toNat)
  | .matAdd => (0x6C, 0) | .matSwap => (0x6C, 0x10) | .matCas => (0x6C, 0x20) | .matOr => (0x6C, 0x30) | .matAnd => (0x6C, 0x40)
  | .frmAlloc => (0x6D, 1) | .frmSend => (0x6D, 2) | .frmFree => (0x6D, 3)

/-- Opcode of a verdict (Table 4-1). -/
def verdictCode : VKind → Nat
  | .fwd => 0x70 | .mcast => 0x71 | .host => 0x72 | .punt => 0x73 | .recirc => 0x74 | .block => 0x75 | .drop => 0x76

/-- The instruction word (Table 3-3, Table 4-2). -/
def whorlWord (i : Whorl) : Word :=
  let mk (op d r : Nat) : Word := BitVec.ofNat 32 (op * 2 ^ 25 + d * 2 ^ 20 + r)
  match i with
  | .nop => mk 0x01 0 0
  | .alu op d a b w f => mk (aluCode op) d.toNat (a.toNat * 2 ^ 14 + b.toNat * 2 ^ 8 + b2n w * 2 ^ 7 + b2n f * 2 ^ 6)
  | .un op d a w f => mk (unCode op) d.toNat (a.toNat * 2 ^ 14 + b2n w * 2 ^ 7 + b2n f * 2 ^ 6)
  | .sel d a b w c => mk 0x1B d.toNat (a.toNat * 2 ^ 14 + b.toNat * 2 ^ 8 + b2n w * 2 ^ 7 + c.toNat * 2 ^ 2)
  | .imm op d a w f im => mk (immCode op) d.toNat (a.toNat * 2 ^ 14 + b2n w * 2 ^ 13 + b2n f * 2 ^ 12 + im.toNat)
  | .movi d hw k im => mk 0x2C d.toNat (hw.toNat * 2 ^ 18 + b2n k * 2 ^ 17 + im.toNat)
  | .bf op d a p l => mk (bfCode op) d.toNat (a.toNat * 2 ^ 14 + p.toNat * 2 ^ 8 + l.toNat * 2 ^ 2)
  | .lm op d a sz off => mk (lmCode op) d.toNat (a.toNat * 2 ^ 14 + sz.toNat * 2 ^ 12 + off.toNat)
  | .mfs d srn => mk 0x3C d.toNat (srn.toNat * 2 ^ 10)
  | .mts d srn => mk 0x3D d.toNat (srn.toNat * 2 ^ 10)
  | .bc c back off => mk 0x40 (c.toNat * 2 + b2n back) off.toNat
  | .brc c a b off => mk 0x41 (c.toNat * 2) (a.toNat * 2 ^ 15 + b.toNat * 2 ^ 9 + off.toNat)
  | .loop c l => mk 0x42 (c.toNat * 2) (l.toNat * 2 ^ 15)
  | .jal back off => mk 0x43 (b2n back) off.toNat
  | .jr a => mk 0x44 0 (a.toNat * 2 ^ 14)
  | .stage => mk 0x60 0 0
  | .wait a b => mk 0x61 0 (a.toNat * 2 ^ 14 + b.toNat * 2 ^ 8)
  | .post op pr n a b =>
    BitVec.ofNat 32 ((popCode op).1 * 2 ^ 25 + pr.toNat * 2 ^ 22 + n.toNat * 2 ^ 19 + a.toNat * 2 ^ 13 + b.toNat * 2 ^ 7 + (popCode op).2)
  | .edit e a im => mk 0x6E e.toNat (a.toNat * 2 ^ 14 + im.toNat)
  | .verdict k a b im => mk (verdictCode k) 0 (a.toNat * 2 ^ 14 + b.toNat * 2 ^ 8 + im.toNat)

/-- What the word decoder gives: an instruction, or the cause of the fault (Table 3-11, Table 4-13). -/
inductive Dec where
  | ok (i : Whorl)
  | bad (cause : Nat)
  deriving DecidableEq, Repr

/-- The posted operation of an opcode and SUB; a reserved SUB value gives none (cause 0x13). -/
def popOf (op sub : Nat) : Option POp :=
  match op with
  | 0x62 => match sub with
    | 1 => some .lkpMacDst | 2 => some .lkpMacSrc | 3 => some .lkpLpm4 | 4 => some .lkpLpm6 | 5 => some .lkpTun | _ => none
  | 0x63 => match sub with
    | 1 => some .flowFind | 2 => some .flowFindIns | 3 => some .flowUpdate | 4 => some .flowDelete | _ => none
  | 0x64 => match sub with
    | 1 => some .cntAdd | 2 => some .cntRead | _ => none
  | 0x65 => if sub < 4 then some (.mtr (BitVec.ofNat 2 sub)) else none
  | 0x66 => if sub < 4 then some (.hash (BitVec.ofNat 2 sub)) else none
  | 0x67 => match sub with
    | 1 => some .lockAcq | 2 => some .lockTry | 3 => some .lockRel | 4 => some .lockPoll | _ => none
  | 0x68 =>
    if h : 0x10 ≤ sub ∧ sub ≤ 0x16 then some (.chanWrite ⟨sub - 0x10, by omega⟩)
    else if sub = 1 then some .chanOpen else if sub = 0x20 then some .chanCommit
    else if sub = 0x30 then some .chanRead else none
  | 0x69 => match sub with
    | 1 => some .cattAttach | 2 => some .cattDetach | _ => none
  | 0x6A => if sub = 0 then some .mrd else none
  | 0x6B => if sub < 4 then some (.mwr (BitVec.ofNat 2 sub)) else none
  | 0x6C => if sub = 0 then some .matAdd else if sub = 0x10 then some .matSwap else if sub = 0x20 then some .matCas
    else if sub = 0x30 then some .matOr else if sub = 0x40 then some .matAnd else none
  | 0x6D => match sub with
    | 1 => some .frmAlloc | 2 => some .frmSend | 3 => some .frmFree | _ => none
  | _ => none

/-- Operand specifiers that an operation of format Q does not use and that no table gives as G0: reserved fields (R76; DEDUCED, log entry
277). The pair says whether A, and whether B, is one. -/
def popUnused : POp → Bool × Bool
  | .lkpMacDst | .lkpLpm4 | .lkpTun | .frmFree => (false, true)
  | .frmAlloc => (true, true)
  | _ => (false, false)

/-- Whether B is an operand given as G0 (Tables 4-4 to 4-6, R122; FRM gives no B for ALLOC and FREE). -/
def popBIsG0 : POp → Bool
  | .lkpMacSrc | .flowFind | .flowDelete | .cntRead | .lockTry | .lockRel | .lockPoll | .chanOpen | .chanRead
  | .cattAttach | .cattDetach | .mrd => true
  | _ => false

/-- Whether A is an operand given as G0 (CATT DETACH). -/
def popAIsG0 : POp → Bool
  | .cattDetach => true
  | _ => false

/-- Whether A names a register pair Gn, Gn+1 (R112, R114). -/
def popAPair : POp → Bool
  | .lkpLpm6 | .flowFind | .flowFindIns | .flowUpdate | .flowDelete => true
  | _ => false

/-- Whether B names a register pair (MAT CAS, R122). -/
def popBPair : POp → Bool
  | .matCas => true
  | _ => false

/-- A register-pair specifier must name G1-G30 (R101). -/
def pairOk (x : BitVec 6) : Bool := decide (1 ≤ x.toNat ∧ x.toNat ≤ 30)

/-- Edit operations that are defined (R125, Table 6-7). -/
def eopOk (e : BitVec 5) : Bool := decide (1 ≤ e.toNat ∧ e.toNat ≤ 0x0B)

/-- Edit operations whose A is given as G0 (Table 6-7: STRIP, DEC_TTL, FIXLEN). -/
def eopAIsG0 (e : BitVec 5) : Bool := decide (e.toNat = 0x01 ∨ e.toNat = 0x08 ∨ e.toNat = 0x0A)

/-- Verdicts whose B is given as G0 (Table 4-8). -/
def verdictBIsG0 : VKind → Bool
  | .host | .recirc => false
  | _ => true

/-- Whether a verdict's IMM8 is one that Tables 4-8 and 4-9 give: bit 0 is 0 for FWD, MCAST, HOST and RECIRC, all of it for BLOCK, and a
DROP's reason is a program's. Any other is illegal when the verdict issues, as Table 4-8 says of DROP (DESIGN CHOICE for the others, log
entry 278). -/
def verdictImmOk (k : VKind) (imm : BitVec 8) : Bool :=
  match k with
  | .fwd | .mcast | .host | .recirc => !bit imm 0
  | .punt => true
  | .block => decide (imm = 0)
  | .drop => decide (imm.toNat = 0 ∨ 0x40 ≤ imm.toNat)

/-- Special registers that Table 3-2 lists. -/
def srnListed (n : BitVec 10) : Bool :=
  decide (n.toNat ≤ 0x006 ∨ n.toNat = 0x008 ∨ (0x010 ≤ n.toNat ∧ n.toNat ≤ 0x017))

/-- The immediate shifts and the rotate. -/
def immIsShift : ImmOp → Bool
  | .shli | .shri | .sari | .roli => true
  | _ => false

/-- CMPI and TSTI name no destination. -/
def immNoDest : ImmOp → Bool
  | .cmpi | .tsti => true
  | _ => false

/-- The fault cause of an instruction's own fields, 0 where they are legal (R77, R79, R82, R84, R86, R75, R101, R107, R127;
Table 3-11, Table 4-13). Where several causes apply the first in this order is taken (DESIGN CHOICE, log entry 12). -/
def whorlCause (i : Whorl) : Nat :=
  match i with
  | .nop | .movi _ _ _ _ | .loop _ _ | .jal _ _ | .stage => 0
  | .alu op d a b _ _ => if aluNoDest op && d ≠ 0 then 0x02 else if specOk a && specOk b then 0 else 0x03
  | .un _ _ a _ _ => if specOk a then 0 else 0x03
  | .sel _ a b _ c => if specOk a && specOk b && c ≠ 0xF#4 then 0 else 0x03
  | .imm op d a w _ im =>
    if immNoDest op && d ≠ 0 then 0x02
    else if immIsShift op && decide (64 ≤ im.toNat) then 0x02
    else if !specOk a then 0x03
    else if immIsShift op && w && decide (32 ≤ im.toNat) then 0x03 else 0
  | .bf op _ a p l =>
    if op = .exth then (if decide (32 ≤ a.toNat) || decide (64 < p.toNat + (l.toNat + 1)) then 0x03 else 0)
    else if !specOk a then 0x03
    else if decide ((if op = .insh then 32 else 64) < p.toNat + (l.toNat + 1)) then 0x03 else 0
  | .lm _ _ a _ _ => if specOk a then 0 else 0x03
  | .mfs _ srn => if srnListed srn then 0 else 0x06
  | .mts _ srn => if srn = 1#10 then 0 else 0x06
  | .bc c _ _ => if c = 0xF#4 then 0x03 else 0
  | .brc c a b _ => if specOk a && specOk b && c ≠ 0xF#4 then 0 else 0x03
  | .jr a => if specOk a then 0 else 0x03
  | .wait a b => if specOk a && specOk b then 0 else 0x03
  | .post op pr n a b =>
    if ((popUnused op).1 && a ≠ 0) || ((popUnused op).2 && b ≠ 0) then 0x02
    else if (popBIsG0 op && b ≠ 0) || (popAIsG0 op && a ≠ 0) then 0x13
    else if (popAPair op && !pairOk a) || (popBPair op && !pairOk b) then 0x13
    else if !(specOk a && specOk b) then 0x03
    else if 7 < pr.toNat + n.toNat then 0x13
    else if op = .mtr 3 then 0x13 else 0
  | .edit e a _ => if !eopOk e || (eopAIsG0 e && a ≠ 0) then 0x13 else if specOk a then 0 else 0x03
  | .verdict k a b im =>
    if (verdictBIsG0 k && b ≠ 0) || (k = .drop && a ≠ 0) then 0x13
    else if !(specOk a && specOk b) then 0x03
    else if verdictImmOk k im then 0 else 0x13

/-- The cause an instruction has in the kind of thread that issues it (R94, R100): 0x04 for a service-only instruction in a
packet thread, 0x11 for a packet-only instruction in a service thread. -/
def kindCause (service : Bool) (i : Whorl) : Nat :=
  match i with
  | .jal _ _ | .jr _ | .wait _ _ => if service then 0 else 0x04
  | .bc _ back _ => if back && !service then 0x04 else 0
  | .post op _ _ _ _ =>
    match op with
    | .frmAlloc | .frmSend | .frmFree => if service then 0 else 0x04
    | .cattAttach | .cattDetach => if service then 0x11 else 0
    | _ => 0
  | .edit _ _ _ | .verdict _ _ _ _ => if service then 0x11 else 0
  | _ => 0

/-- Whether an instruction is illegal inside a LOOP body (R94). -/
def loopBanned : Whorl → Bool
  | .loop _ _ | .stage | .wait _ _ | .verdict _ _ _ _ => true
  | _ => false

/-- Decode an instruction word (R76 to R78, R100, R101): opcode, reserved fields, then the instruction with its fields. A JAL whose COND is
not AL gives cause 0x03 (DESIGN CHOICE, log entry 279). -/
def decodeWhorl (w : Word) : Dec :=
  let x := w.toNat
  let op := x / 2 ^ 25
  let d : BitVec 5 := BitVec.ofNat 5 (x / 2 ^ 20)
  let a : BitVec 6 := BitVec.ofNat 6 (x / 2 ^ 14)
  let b : BitVec 6 := BitVec.ofNat 6 (x / 2 ^ 8)
  let fW := (x / 2 ^ 7) % 2 = 1
  let fF := (x / 2 ^ 6) % 2 = 1
  let cond : BitVec 4 := BitVec.ofNat 4 (x / 2 ^ 2)
  let rA := x % 4
  let alu (o : AluOp) : Dec := if rA ≠ 0 ∨ cond ≠ 0 then .bad 0x02 else .ok (.alu o d a b fW fF)
  let un (o : UnOp) : Dec := if rA ≠ 0 ∨ cond ≠ 0 ∨ b ≠ 0 then .bad 0x02 else .ok (.un o d a fW fF)
  let imm (o : ImmOp) : Dec := .ok (.imm o d a ((x / 2 ^ 13) % 2 = 1) ((x / 2 ^ 12) % 2 = 1) (BitVec.ofNat 12 x))
  let bf (o : BfOp) : Dec := if rA ≠ 0 then .bad 0x02 else .ok (.bf o d a b (BitVec.ofNat 6 (x / 2 ^ 2)))
  let lm (o : LmOp) : Dec := .ok (.lm o d a (BitVec.ofNat 2 (x / 2 ^ 12)) (BitVec.ofNat 12 x))
  let condJ : BitVec 4 := BitVec.ofNat 4 (x / 2 ^ 21)
  let dir := (x / 2 ^ 20) % 2 = 1
  let verdict (k : VKind) : Dec := if d ≠ 0 then .bad 0x02 else .ok (.verdict k a b (BitVec.ofNat 8 x))
  match op with
  | 0x01 => if x % 2 ^ 25 ≠ 0 then .bad 0x02 else .ok .nop
  | 0x08 => alu .add | 0x09 => alu .sub | 0x0A => alu .and | 0x0B => alu .or | 0x0C => alu .xor | 0x0D => alu .andn
  | 0x0E => alu .shl | 0x0F => alu .shr | 0x10 => alu .sar | 0x11 => alu .rol | 0x12 => alu .minu | 0x13 => alu .maxu
  | 0x14 => alu .mul | 0x15 => alu .csum | 0x16 => alu .cmp | 0x17 => alu .tst
  | 0x18 => un .clz | 0x19 => un .popc | 0x1A => un .bswap
  | 0x1B => if rA ≠ 0 ∨ fF then .bad 0x02 else .ok (.sel d a b fW cond)
  | 0x20 => imm .addi | 0x21 => imm .subi | 0x22 => imm .andi | 0x23 => imm .ori | 0x24 => imm .xori | 0x25 => imm .shli
  | 0x26 => imm .shri | 0x27 => imm .sari | 0x28 => imm .roli | 0x29 => imm .cmpi | 0x2A => imm .tsti
  | 0x2C => if (x / 2 ^ 16) % 2 = 1 then .bad 0x02 else
      .ok (.movi d (BitVec.ofNat 2 (x / 2 ^ 18)) ((x / 2 ^ 17) % 2 = 1) (BitVec.ofNat 16 x))
  | 0x30 => bf .ext | 0x31 => bf .exts | 0x32 => bf .ins | 0x33 => bf .exth | 0x34 => bf .insh
  | 0x38 => lm .ld | 0x39 => lm .ldsx | 0x3A => lm .st
  | 0x3C => if x % 2 ^ 10 ≠ 0 then .bad 0x02 else .ok (.mfs d (BitVec.ofNat 10 (x / 2 ^ 10)))
  | 0x3D => if x % 2 ^ 10 ≠ 0 then .bad 0x02 else .ok (.mts d (BitVec.ofNat 10 (x / 2 ^ 10)))
  | 0x40 => if (x / 2 ^ 16) % 16 ≠ 0 then .bad 0x02 else .ok (.bc condJ dir (BitVec.ofNat 16 x))
  | 0x41 => .ok (.brc condJ (BitVec.ofNat 6 (x / 2 ^ 15)) (BitVec.ofNat 6 (x / 2 ^ 9)) (BitVec.ofNat 9 x))
  | 0x42 => if x % 2 ^ 15 ≠ 0 then .bad 0x02 else .ok (.loop condJ (BitVec.ofNat 6 (x / 2 ^ 15)))
  | 0x43 => if (x / 2 ^ 16) % 16 ≠ 0 then .bad 0x02 else if condJ ≠ 0 then .bad 0x03 else .ok (.jal dir (BitVec.ofNat 16 x))
  | 0x44 => if x % 2 ^ 14 ≠ 0 ∨ d ≠ 0 then .bad 0x02 else .ok (.jr a)
  | 0x60 => if x % 2 ^ 25 ≠ 0 then .bad 0x02 else .ok .stage
  | 0x61 => if d ≠ 0 ∨ x % 2 ^ 8 ≠ 0 then .bad 0x02 else .ok (.wait a b)
  | 0x6E => .ok (.edit d a (BitVec.ofNat 14 x))
  | 0x70 => verdict .fwd | 0x71 => verdict .mcast | 0x72 => verdict .host | 0x73 => verdict .punt
  | 0x74 => verdict .recirc | 0x75 => verdict .block | 0x76 => verdict .drop
  | _ =>
    if 0x62 ≤ op ∧ op ≤ 0x6D then
      match popOf op (x % 2 ^ 7) with
      | some o => .ok (.post o (BitVec.ofNat 3 (x / 2 ^ 22)) (BitVec.ofNat 3 (x / 2 ^ 19)) (BitVec.ofNat 6 (x / 2 ^ 13))
          (BitVec.ofNat 6 (x / 2 ^ 7)))
      | none => .bad 0x13
    else .bad 0x01

/-- The cause of an illegal word, whatever thread issues it, 0 for a legal one (R78). -/
def wordCause (w : Word) : Nat :=
  match decodeWhorl w with
  | .bad c => c
  | .ok i => whorlCause i

end Sys2Proof.Machine
end

