-- ==== Sys2Proof/Machine/Spindle.lean ====
section
/-! DEFINITION. The issue of one Whorl instruction by one thread (chapters 2, 3 and 4): readiness (R32), breakpoints (R59), the
legality checks (R78, R94, R100), and the effect of every instruction on its thread; posted operations go into the list of the
tick in progress and are performed at the boundary (R104, R108). The debug unit's halt, step and resume (R58 to R64). -/

namespace Sys2Proof.Machine

/-- Whether an enabled breakpoint selects the thread at an address (Table 2-13); breakpoints act only while debug is enabled
(R58). -/
def brkHit (d : Dev) (k pc : Nat) : Bool :=
  d.ct.debugEn && (List.range 8).any fun i =>
    let w := cfg d .rlBrk (k / 64) i
    decide (fld w 0 16 = pc) && bit w (16 + k % 64 / 8) && bit w (24 + k % 8)

/-- The bytes of a frame in the packet buffer. -/
def frameBytes (d : Dev) (id : Nat) : List Byte :=
  match mget d.sw.frames id none with
  | some f => f.bytes
  | none => []

/-- Copy a DEBUG_HELD skein into the capture buffer when CAPTURE is 1 and one of the 64 entries is free (R60, R63). -/
def captureSkein (d : Dev) (k : Nat) : Dev :=
  let t := thrOf d k
  match t.skein with
  | none => d
  | some sk =>
    if bit (cur d .rlDbgCtl (k / 64) (k % 64)) 3 && decide (d.rl.capture.length < 64) then
      { d with rl := { d.rl with capture := d.rl.capture ++
          [⟨d.tick, k, t.pc, t.flags, sk, t.h, t.g, t.p, (frameBytes d sk.frame).take 2048⟩] } }
    else d

/-- Halt a thread before its next instruction (R59 to R61): cause 1 HALT write, 2 breakpoint. A packet thread that holds a skein
ends it with DEBUG_HELD (0x05). -/
def haltThread (d : Dev) (k cause : Nat) : Dev :=
  let t := thrOf d k
  if t.dbg.halted || t.dbg.faulted then d
  else
    let b := { t.dbg with halted := true, cause := cause, step := false, seen := true,
                          passed := if cause = 2 then some t.pc else t.dbg.passed }
    let d := putThr d k { t with dbg := b }
    if !isService d k && holdsSkein t then endSkein (captureSkein d k) k (.devDrop 0x05) true else d

/-- The program counter after an instruction that does not branch (R91, R92): the next address, or the first body instruction
when the active LOOP has passes left. -/
def nextPc (t : Thread) : Thread :=
  let np := t.pc + 1
  match t.loop with
  | none => { t with pc := np }
  | some l =>
    if np = l.start + l.len then
      if l.left = 0 then { t with pc := np, loop := none }
      else { t with pc := l.start, loop := some { l with left := l.left - 1, idx := l.idx + 1 } }
    else { t with pc := np }

/-- A taken branch (R93): inside the active body it continues in the same pass, outside it ends the loop. -/
def jumpTo (t : Thread) (target : Nat) : Thread :=
  match t.loop with
  | none => { t with pc := target }
  | some l =>
    if l.start ≤ target ∧ target < l.start + l.len then { t with pc := target } else { t with pc := target, loop := none }

/-- The target of a branch, counted from the instruction that follows it (R91); none outside 0-65,535. -/
def branchTarget (pc : Nat) (back : Bool) (off : Nat) : Option Nat :=
  if back then (if off ≤ pc + 1 then some (pc + 1 - off) else none)
  else (if pc + 1 + off ≤ 65535 then some (pc + 1 + off) else none)

/-- What a special register reads (Table 3-2). A service thread reads every SK_ register, STAGE_NO and STAGE_CNT as 0 (R74). -/
def mfsVal (d : Dev) (k : Nat) (t : Thread) (n : Nat) : DWord :=
  let sk (f : Skein → Nat) : DWord := match t.skein with
    | some s => BitVec.ofNat 64 (f s)
    | none => 0
  match n with
  | 0x000 => BitVec.ofNat 64 t.pc
  | 0x001 => t.flags.zeroExtend 64
  | 0x002 => BitVec.ofNat 64 (k / 64 * 256 + k % 64)
  | 0x003 => BitVec.ofNat 64 (if isService d k then 0 else t.stageNo)
  | 0x004 => BitVec.ofNat 64 (if isService d k then 0 else t.stageCnt)
  | 0x005 => BitVec.ofNat 64 (match t.loop with | some l => l.idx | none => 0)
  | 0x006 => BitVec.ofNat 64 ((thrCfg d k).lmSize * 1024)
  | 0x008 => BitVec.ofNat 64 d.tick
  | 0x010 => sk (·.input)
  | 0x011 => sk (·.len)
  | 0x012 => sk (·.cls)
  | 0x013 => sk (·.bucket)
  | 0x014 => sk (·.sel)
  | 0x015 => sk fun s => Config.seqFirst + s.seq
  | 0x016 => sk (·.pflags.toNat)
  | 0x017 => sk (·.md.toNat)
  | _ => 0

/-- The effect of a bit-field instruction (Table 3-9); EXTH and INSH act on the header window only (R73). -/
def bfEffect (op : BfOp) (t : Thread) (d a : Nat) (av : DWord) (pos len : Nat) : Thread :=
  match op with
  | .ext => gWr t d (BitVec.ofNat 64 (extNat av.toNat pos len))
  | .exts => gWr t d (BitVec.ofNat 64 (intMod 64 (sextInt len (extNat av.toNat pos len))))
  | .ins => gWr t d (BitVec.ofNat 64 (insNat (gRd t d).toNat av.toNat pos len))
  | .exth => gWr t d (BitVec.ofNat 64 (extNat (hPair t a) pos len))
  | .insh => { t with h := mput t.h d (BitVec.ofNat 32 (insNat (hRd t d).toNat av.toNat pos len)) 0 }

/-- Where byte 0 of a thread's local-memory window lies in `Reel.lmem` (R38). -/
def lmOrigin (d : Dev) (k : Nat) : Nat := 65536 * (k % 64 / 8) + (thrCfg d k).lmBase * 1024

/-- The issue cycle of a thread's spindle. -/
def cycleOf (d : Dev) (k : Nat) : Cycle := mget d.rl.cycles (k / 8) Cycle.none

/-- Store it. -/
def putCycle (d : Dev) (k : Nat) (c : Cycle) : Dev := { d with rl := { d.rl with cycles := mput d.rl.cycles (k / 8) c Cycle.none } }

/-- A thread's turn in its spindle's cycle, counted round the circle from the thread whose turn comes first (R31). -/
def turnOf (c : Cycle) (k : Nat) : Nat := (k % 8 + 8 - c.start) % 8

/-- The thread of a cycle whose turn came last. -/
def lastTurn (c : Cycle) : Option Nat :=
  c.issued.foldl (fun m k => match m with
    | none => some k
    | some j => if turnOf c j < turnOf c k then some k else m) none

/-- The cycle after one (R31): it begins with the thread that follows the last to issue. -/
def nextCycle (c : Cycle) : Cycle :=
  match lastTurn c with
  | none => { c with issued := [], wrote := [] }
  | some k => ⟨(k % 8 + 1) % 8, [], []⟩

/-- A thread issues (R31): in the cycle in progress while fewer than 4 threads have issued in it and this one has not, else in the next
(DESIGN CHOICE, log entry 21). -/
def noteIssue (k : Nat) (d : Dev) : Dev :=
  let c := cycleOf d k
  let c := if k ∈ c.issued ∨ 4 ≤ c.issued.length then nextCycle c else c
  putCycle d k { c with issued := c.issued ++ [k] }

/-- Every spindle's cycle ends with the tick; the circular order goes on (R31). -/
def cyclesEnd (d : Dev) : Dev := { d with rl := { d.rl with cycles := d.rl.cycles.map fun e => (e.1, nextCycle e.2) } }

/-- Bytes of local memory as a load of the cycle reads them: as they were before any store of that cycle (R89). -/
def lmBefore (c : Cycle) (r : Reel) (base w : Nat) : List Byte :=
  (List.range w).map fun i => match mget c.wrote (base + i) none with
    | some x => x.1
    | none => mget r.lmem (base + i) 0

/-- A store's bytes (R89): where two stores of a cycle write one byte, the one whose thread's turn is later stands. -/
def lmStore (k : Nat) : List Byte → Nat → Cycle × Reel → Cycle × Reel
  | [], _, x => x
  | b :: bs, a, (c, r) =>
    let t := turnOf c k
    match mget c.wrote a none with
    | some x =>
      if t < x.2 then lmStore k bs (a + 1) (c, r)
      else lmStore k bs (a + 1) ({ c with wrote := mput c.wrote a (some (x.1, t)) none }, { r with lmem := mput r.lmem a b 0 })
    | none =>
      lmStore k bs (a + 1) ({ c with wrote := mput c.wrote a (some (mget r.lmem a 0, t)) none }, { r with lmem := mput r.lmem a b 0 })

/-- A local-memory access (R87 to R89): the thread after a load, the reel after a store; an access outside the window faults with
cause 0x08, its WORD the byte address, and changes nothing. -/
def lmEffect (dv : Dev) (k : Nat) (op : LmOp) (t : Thread) (rd : Nat) (ea sz : Nat) : Dev :=
  let w := 2 ^ sz
  if (thrCfg dv k).lmSize * 1024 < ea + w then faultThread dv k 0x08 t.pc (BitVec.ofNat 32 ea)
  else
    let r := reelOf dv (k / 64)
    let base := lmOrigin dv k + ea
    let bytes := lmBefore (cycleOf dv k) r base w
    match op with
    | .ld => putThr dv k (nextPc (gWr t rd (BitVec.ofNat 64 (leNat bytes))))
    | .ldsx => putThr dv k (nextPc (gWr t rd (BitVec.ofNat 64 (intMod 64 (sextInt (8 * w) (leNat bytes))))))
    | .st =>
      let x := lmStore k (leBytes w (gRd t rd).toNat) base (cycleOf dv k, r)
      putThr (putReel (putCycle dv k x.1) (k / 64) x.2) k (nextPc t)

/-- A verdict instruction's verdict: its operand values, edit list, final header vector (R126), attachment and the colour that
COLOUR 0b11 stands for (R128). -/
def verdictOf (t : Thread) (v : VKind) (a b : BitVec 6) (imm : BitVec 8) : Verdict :=
  .prog v (specRd t a) (specRd t b) imm (t.mtr.getD 0) t.edits t.h t.catt

/-- Issue a posted operation (R105, R107): it joins the operations of the tick; a ninth of the stage is not performed and faults
the thread with cause 0x10. A cipher attachment follows the state array in the tick of issue (R120), so that a verdict of the same
stage carries it (R109). -/
def postOp (dv : Dev) (k : Nat) (t : Thread) (i : Whorl) (op : POp) (pr n : Nat) (a b : BitVec 6) (stepping : Bool) : Dev :=
  if 8 ≤ t.posted then faultThread dv k 0x10 t.pc (whorlWord i)
  else
    let p : Posted :=
      { who := k, no := t.posted, op := op, pr := pr, n := n + 1, a := specRd t a, a2 := gRd t (a.toNat + 1), b := specRd t b,
        b2 := gRd t (b.toNat + 1), stepped := stepping, pc := t.pc, word := whorlWord i,
        skein := if isService dv k then none else t.skein }
    let catt := match op with
      | .cattAttach =>
        let sa := fld (specRd t a) 0 20
        if cattStatus dv sa = 0 ∨ cattStatus dv sa = 0x10 then some sa else none
      | .cattDetach => none
      | _ => t.catt
    let catt := if stepping && !isService dv k then t.catt else catt
    let dv := putThr dv k (nextPc { t with posted := t.posted + 1, catt := catt })
    { dv with rl := { dv.rl with posted := dv.rl.posted ++ [p] } }

/-- The effect of a legal instruction on its thread. A BC, BRC or JAL with offset 0 falls through at every address (Table 3-11), at 65,535
too: its next instruction then lies at 65,536, and the fault of R91 comes when that would issue (DESIGN CHOICE, log entry 275). -/
def whorlEffect (dv : Dev) (k : Nat) (i : Whorl) (stepping : Bool) : Dev :=
  let t := thrOf dv k
  let flt (c : Nat) : Dev := faultThread dv k c t.pc (whorlWord i)
  match i with
  | .nop => putThr dv k (nextPc t)
  | .alu op d a b w f =>
    let n := opWidth w
    let x := (specRd t a).toNat % 2 ^ n
    let y := (specRd t b).toNat % 2 ^ n
    let t1 := if aluNoDest op then t else gWr t d.toNat (BitVec.ofNat 64 (aluVal op n x y))
    let t2 := if aluNoDest op || f then { t1 with flags := aluFlags op n x y } else t1
    putThr dv k (nextPc t2)
  | .un op d a w f =>
    let n := opWidth w
    let r := unVal op n ((specRd t a).toNat % 2 ^ n)
    let t1 := gWr t d.toNat (BitVec.ofNat 64 r)
    putThr dv k (nextPc (if f then { t1 with flags := flagsOf n r false false } else t1))
  | .sel d a b w c =>
    let v := if condHolds c t.flags then specRd t a else specRd t b
    putThr dv k (nextPc (gWr t d.toNat (BitVec.ofNat 64 (v.toNat % 2 ^ opWidth w))))
  | .imm op d a w f im =>
    let n := opWidth w
    let x := (specRd t a).toNat % 2 ^ n
    let y := immVal op n im
    let o := immAlu op
    let t1 := if aluNoDest o then t else gWr t d.toNat (BitVec.ofNat 64 (aluVal o n x y))
    let t2 := if aluNoDest o || f then { t1 with flags := aluFlags o n x y } else t1
    putThr dv k (nextPc t2)
  | .movi d hw keep im =>
    let old := if keep then (gRd t d.toNat).toNat else 0
    putThr dv k (nextPc (gWr t d.toNat (BitVec.ofNat 64 (insNat old im.toNat (16 * hw.toNat) 16))))
  | .bf op d a p l => putThr dv k (nextPc (bfEffect op t d.toNat a.toNat (specRd t a) p.toNat (l.toNat + 1)))
  | .lm op d a sz off => lmEffect dv k op t d.toNat (((specRd t a).toNat + off.toNat) % 2 ^ 64) sz.toNat
  | .mfs d n => putThr dv k (nextPc (gWr t d.toNat (mfsVal dv k t n.toNat)))
  | .mts d _ => putThr dv k (nextPc { t with flags := (gRd t d.toNat).truncate 4 })
  | .bc c back off =>
    if off = 0 then putThr dv k (nextPc t)
    else match branchTarget t.pc back off.toNat with
      | none => flt 0x07
      | some x => if condHolds c t.flags then putThr dv k (jumpTo t x) else putThr dv k (nextPc t)
  | .brc c a b off =>
    if off = 0 then putThr dv k (nextPc t)
    else match branchTarget t.pc false off.toNat with
      | none => flt 0x07
      | some x =>
        if condHolds c (aluFlags .cmp 64 (specRd t a).toNat (specRd t b).toNat) then putThr dv k (jumpTo t x)
        else putThr dv k (nextPc t)
  | .loop c l =>
    let len := l.toNat + 1
    if 65535 < t.pc + len then flt 0x07
    else putThr dv k { t with pc := t.pc + 1, loop := some ⟨t.pc + 1, len, c.toNat, 0⟩ }
  | .jal back off =>
    if off = 0 then putThr dv k (nextPc (gWr t 31 (BitVec.ofNat 64 (t.pc + 1))))
    else match branchTarget t.pc back off.toNat with
      | none => flt 0x07
      | some x => putThr dv k (jumpTo (gWr t 31 (BitVec.ofNat 64 (t.pc + 1))) x)
  | .jr a => putThr dv k (jumpTo t ((specRd t a).toNat % 65536))
  | .stage =>
    if isService dv k then putThr dv k { nextPc t with run := .staged }
    else if stepping then putThr dv k (nextPc t)
    else if t.stageCnt ≤ t.stageNo then flt 0x12
    else putThr dv k { nextPc t with run := .staged }
  | .wait a b =>
    let tmo := (specRd t b).toNat % 2 ^ 32
    putThr dv k { nextPc t with run := .waiting (specRd t a) (if tmo = 0 then none else some (dv.tick + 1 + tmo)) }
  | .post op pr n a b => postOp dv k t i op pr.toNat n.toNat a b stepping
  | .edit e a im =>
    if 16 ≤ t.edits.length then flt 0x15
    else putThr dv k (nextPc { t with edits := t.edits ++ [⟨e, specRd t a, im⟩] })
  | .verdict v a b im =>
    if stepping then putThr dv k (nextPc t)
    else endSkein dv k (verdictOf t v a b im) false

/-- Issue an instruction at the thread's program counter: a thread whose next instruction would lie at 65,536 faults with cause
0x07, PC 0xFFFF and WORD 0 (R91); an illegal instruction faults (R78, R94, R100); a legal one has its effect. -/
def whorlStep (dv : Dev) (k : Nat) (i : Whorl) (stepping : Bool) : Dev :=
  let t := thrOf dv k
  if 65536 ≤ t.pc then faultThread dv k 0x07 0xFFFF 0
  else
    let c := whorlCause i
    let c := if c = 0 then kindCause (isService dv k) i else c
    let c := if c = 0 && t.loop.isSome && loopBanned i then 0x05 else c
    if c ≠ 0 then faultThread dv k c t.pc (whorlWord i) else whorlEffect dv k i stepping

/-- A word as an instruction: an undecodable one faults with its cause (R78). -/
def wordStep (dv : Dev) (k : Nat) (w : Word) (stepping : Bool) : Dev :=
  let t := thrOf dv k
  if 65536 ≤ t.pc then faultThread dv k 0x07 0xFFFF 0
  else match decodeWhorl w with
    | .bad c => faultThread dv k c t.pc w
    | .ok i => whorlStep dv k i stepping

/-- A thread is ready while it may issue: a packet thread that holds a skein and has not ended its stage, a service thread neither in
WAIT nor halted nor faulted (R32). -/
def threadReady (t : Thread) : Bool := decide (t.run = .ready) && !t.dbg.halted && !t.dbg.faulted

/-- Forget the breakpoint that a resumed thread may pass once an instruction has issued (R59). -/
def clearPassed (dv : Dev) (k : Nat) : Dev :=
  let t := thrOf dv k
  putThr dv k { t with dbg := { t.dbg with passed := none } }

/-- One turn of a thread (R31, R32, R59): a thread that is not ready issues nothing; one at a breakpoint halts before the
instruction issues, unless it was halted there and resumed; any other issues. -/
def issueWith (k : Nat) (f : Dev → Dev) (dv : Dev) : Dev :=
  let t := thrOf dv k
  if !threadReady t then dv
  else if brkHit dv k t.pc && t.dbg.passed != some t.pc then haltThread dv k 2
  else f (noteIssue k (clearPassed dv k))

/-- A thread's turn with an instruction. -/
def issue (t : Tid) (i : Whorl) (dv : Dev) : Dev := issueWith (tkey t) (fun x => whorlStep x (tkey t) i false) dv

/-- A thread's turn with a word. -/
def issueWord (t : Tid) (w : Word) (dv : Dev) : Dev := issueWith (tkey t) (fun x => wordStep x (tkey t) w false) dv

/-- The word at a thread's program counter in its reel's instruction memory. -/
def fetchWord (dv : Dev) (k : Nat) : Word := mget (reelOf dv (k / 64)).imem (thrOf dv k).pc 0

/-- Issue one instruction of a halted thread and halt it again with HALT_CAUSE = step (R62); a service thread that faults shows
FAULTED and not HALTED (R56). -/
def doStep (dv : Dev) (k : Nat) : Dev :=
  let dv := wordStep (noteIssue k (clearPassed dv k)) k (fetchWord dv k) true
  let t := thrOf dv k
  if t.dbg.faulted then dv
  else putThr dv k { t with dbg := { t.dbg with halted := true, cause := 3, step := false, seen := true } }

/-- STEP (R62): a halted thread issues one instruction; for a service thread that is not ready the step is held until it is. -/
def stepThread (dv : Dev) (k : Nat) : Dev :=
  let t := thrOf dv k
  if !t.dbg.halted || t.dbg.faulted || decide (t.run = .off) then dv
  else if isService dv k && t.run != .ready then putThr dv k { t with dbg := { t.dbg with step := true } }
  else doStep dv k

/-- RESUME (R64): a halted thread returns to service; no effect on a FAULTED thread. -/
def resumeThread (dv : Dev) (k : Nat) : Dev :=
  let t := thrOf dv k
  if !t.dbg.halted || t.dbg.faulted then dv
  else flag (putThr dv k { t with dbg := { t.dbg with halted := false, cause := 0, step := false } })
    .rlDbgCtl (k / 64) (k % 64) 0 false

/-- A write to RL_DBG_CTL (R58, R64, Table 2-12): no effect while debug is disabled; CAPTURE is stored; of HALT, STEP and RESUME one
alone acts. -/
def writeDbgCtl (k : Nat) (halt step resume capture : Bool) (dv : Dev) : Dev :=
  if !dv.ct.debugEn then dv
  else
    let dv := flag dv .rlDbgCtl (k / 64) (k % 64) 3 capture
    match halt, step, resume with
    | true, false, false => haltThread (flag dv .rlDbgCtl (k / 64) (k % 64) 0 true) k 1
    | false, true, false => stepThread dv k
    | false, false, true => resumeThread dv k
    | _, _, _ => dv

end Sys2Proof.Machine
end

