-- ==== Sys2Proof/Machine/Sync.lean ====
section
/-! DEFINITION. Service order (R134), the lock unit (R135 to R144), channels (R145 to R152), event lines and punt queues (R153 to
R156), wait groups and the doldrums detector (R157 to R161), and the delivery of posted results (R104, R106, R107). -/

namespace Sys2Proof.Machine

/-- The result of a posted operation: status, summary, data words (R107, Table 4-3). -/
structure PRes where
  st : Nat
  sum : Nat
  data : List DWord
  deriving DecidableEq, Repr

/-- A result that is only a status. -/
def rStat (st : Nat) : PRes := ⟨st, 0, []⟩

/-- Put an element into a list ordered by a number, after the equal ones. -/
def insertBy {α : Type} (f : α → Nat) (x : α) : List α → List α
  | [] => [x]
  | y :: ys => if f x < f y then x :: y :: ys else y :: insertBy f x ys

/-- Sort by a number, keeping the order of equal ones. -/
def sortBy {α : Type} (f : α → Nat) (l : List α) : List α := l.foldl (fun acc x => insertBy f x acc) []

/-- The position of a thread in service order, counted from the start of the circle of 2,112 positions (R134). -/
def svcPos (d : Dev) (k : Nat) : Nat := (k + 2112 - d.dr.svc) % 2112

/-- The P registers that a result fills: status and summary, then data words, then 0 (R107). -/
def spanWords (r : PRes) (n : Nat) : List DWord :=
  sliceD (0 : DWord) (BitVec.ofNat 64 (r.st * 2 ^ 56 + r.sum % 2 ^ 56) :: r.data) 0 n

/-- Put a result's words into P registers from `r` on; a register that holds the result of an operation issued later keeps it (R104). The
pair is the registers and, by register, one more than the place of the operation whose result it holds. -/
def putSpan (no : Nat) : List DWord → Nat → SMap DWord × SMap Nat → SMap DWord × SMap Nat
  | [], _, x => x
  | w :: ws, r, x =>
    putSpan no ws (r + 1) (if mget x.2 r 0 ≤ no + 1 then (mput x.1 r w 0, mput x.2 r (no + 1) 0) else x)

/-- A result reaches its thread (R104, R106, R109, R62): a service thread's and a packet thread's are visible when the next stage
begins; a stepped packet thread's at once; one of a skein that has ended is discarded. The colour of an MTR is kept for
COLOUR 0b11 (R128). -/
def deliver (d : Dev) (p : Posted) (r : PRes) : Dev :=
  let t := thrOf d p.who
  let x := putSpan p.no (spanWords r p.n) p.pr (if p.stepped && !isService d p.who then t.p else t.pnext, t.pby)
  if t.dbg.faulted || decide (t.run = .off) then d
  else if isService d p.who then putThr d p.who { t with pnext := x.1, pby := x.2 }
  else if p.stepped then putThr d p.who { t with p := x.1, pby := x.2 }
  else if decide (t.skein = p.skein) && holdsSkein t then
    let m := match p.op with
      | .mtr _ => if r.st = 0 then some (r.sum % 4) else t.mtr
      | _ => t.mtr
    putThr d p.who { t with pnext := x.1, pby := x.2, mtr := m }
  else d

/-- Operations that change state outside the thread, which a stepped packet thread does not perform (R62). -/
def changesState : POp → Bool
  | .lkpMacDst | .lkpLpm4 | .lkpLpm6 | .lkpTun | .flowFind | .cntRead | .hash _ | .mrd => false
  | _ => true

/-- Whether an operation returns DEBUG_SUPPRESSED instead of being performed (R62). -/
def suppressed (d : Dev) (p : Posted) : Bool := p.stepped && !isService d p.who && changesState p.op

/-! ### The lock unit -/

/-- A lock that nobody holds. -/
def Lock.free : Lock := ⟨none, false, []⟩

/-- A lock. -/
def lockOf (d : Dev) (l : Nat) : Lock := mget d.dr.locks l Lock.free

/-- Store a lock. -/
def putLock (d : Dev) (l : Nat) (x : Lock) : Dev := { d with dr := { d.dr with locks := mput d.dr.locks l x Lock.free } }

/-- A thread's queued request. -/
def reqOf (d : Dev) (k : Nat) : Option LockReq := mget d.dr.reqs k none

/-- Store a thread's queued request. -/
def putReq (d : Dev) (k : Nat) (r : Option LockReq) : Dev := { d with dr := { d.dr with reqs := mput d.dr.reqs k r none } }

/-- The rank of a lock: none for an unranked one (R135). -/
def lockRank (d : Dev) (l : Nat) : Option Nat :=
  let w := cfg d .drLockCfg l 0
  if bit w 8 then some (fld w 0 8) else none

/-- The locks a thread holds. -/
def heldLocks (d : Dev) (k : Nat) : List Nat :=
  d.dr.locks.filterMap fun e => if e.2.holder = some k then some e.1 else none

/-- Free a lock; a poisoned release sets the poisoned flag and is counted (R143). -/
def freeLock (d : Dev) (l : Nat) (poison : Bool) : Dev :=
  let x := lockOf d l
  let d := putLock d l { x with holder := none, poison := x.poison || poison }
  if poison then count d .drLockEvtCnt 2 0 else d

/-- Withdraw a thread's queued request (R139, R143). -/
def withdrawReq (d : Dev) (k : Nat) : Dev :=
  match reqOf d k with
  | none => d
  | some q =>
    let x := lockOf d q.lock
    putReq (putLock d q.lock { x with queue := x.queue.filter (· != k) }) k none

/-- Release all locks of a thread and withdraw its request (R119, R143). -/
def releaseAll (d : Dev) (k : Nat) (poison : Bool) : Dev :=
  withdrawReq ((heldLocks d k).foldl (fun d l => freeLock d l poison) d) k

/-- Status of a grant: POISONED when the flag is set (R138, R143). -/
def grantStatus (x : Lock) : Nat := if x.poison then 0x07 else 0x00

/-- Signal the lines of one service thread that are bound to a type (Table 5-9, type 0x4); packet threads have no lines (R153). -/
def signalThread (d : Dev) (k ty : Nat) (w : DWord) : Dev :=
  if !isService d k then d
  else (List.range 64).foldl (fun d l => if (bindOf d k l).1 = ty then setPend d k l w none else d) d

/-- REL (R138, R143): the holder frees the lock, and the poisoned flag of one it received poisoned is cleared; any other thread is
DENIED. -/
def lockRel (d : Dev) (k l : Nat) : Dev × PRes :=
  let x := lockOf d l
  if x.holder = some k then (putLock d l { x with holder := none, poison := false }, rStat 0x00) else (d, rStat 0x0D)

/-- Grant a free lock to the first live request of its queue (R137 step 2, R138). -/
def grantNext (now : Nat) (d : Dev) (l : Nat) : Dev :=
  let x := lockOf d l
  if x.holder.isSome then d
  else match x.queue.find? (fun k => match reqOf d k with | some q => decide (now ≤ q.deadline) | none => false) with
    | none => d
    | some k =>
      let d := putLock d l { x with holder := some k, queue := x.queue.filter (· != k) }
      signalThread (putReq d k none) k 4 (BitVec.ofNat 64 (grantStatus x * 2 ^ 56 + l))

/-- Whether a thread still has its skein or, for a service thread, still runs: only then does a rank violation fault it (R118). -/
def canFault (d : Dev) (p : Posted) : Bool :=
  let t := thrOf d p.who
  if isService d p.who then !t.dbg.faulted && decide (t.run ≠ .off) else decide (t.skein = p.skein) && holdsSkein t

/-- Whether an ACQ or TRY asks for a ranked lock whose rank is not higher than that of every lock the thread holds (R118, R135). -/
def rankBad (d : Dev) (p : Posted) : Bool :=
  match lockRank d (p.a.toNat % 4096) with
  | none => false
  | some r => (heldLocks d p.who).any fun h => match lockRank d h with | some rh => decide (r ≤ rh) | none => false

/-- ACQ and TRY (R118, R138 to R142) at boundary `now`; a rank violation is refused and counted. -/
def lockAcq (now : Nat) (d : Dev) (p : Posted) (tryOnly : Bool) : Dev × PRes :=
  let k := p.who
  let l := p.a.toNat % 4096
  let x := lockOf d l
  if rankBad d p then (count d .drLockEvtCnt 3 0, rStat 0x0D)
  else match x.holder with
    | none => (putLock d l { x with holder := some k }, rStat (grantStatus x))
    | some y =>
      if tryOnly then (d, rStat 0x03)
      else if y = k then (count d .drLockEvtCnt 0 0, rStat 0x06)
      else
        let circle := match reqOf d y with
          | some q => decide (now < q.deadline) && decide ((lockOf d q.lock).holder = some k)
          | none => false
        if circle then (count d .drLockEvtCnt 0 0, rStat 0x06)
        else
          let d := withdrawReq d k
          let x := lockOf d l
          let d := putLock d l { x with queue := x.queue ++ [k] }
          (putReq d k (some ⟨l, now + orIf0 (p.b.toNat % 65536) 65535⟩), rStat 0x04)

/-- POLL (R138): the state after step 4. -/
def lockPoll (now : Nat) (d : Dev) (k l : Nat) : PRes :=
  let x := lockOf d l
  if x.holder = some k then rStat (grantStatus x)
  else match reqOf d k with
    | some q => if q.lock = l ∧ now < q.deadline then rStat 0x04 else rStat 0x05
    | none => rStat 0x05

/-- Perform one operation and deliver its result. -/
def perform (f : Dev → Posted → Dev × PRes) (d : Dev) (p : Posted) : Dev :=
  if suppressed d p then deliver d p (rStat 0x0F)
  else
    let r := f d p
    deliver r.1 p r.2

/-- Apply the releases of skeins and reels that ended (R119, R143). -/
def applyEndings (d : Dev) (es : List (Nat × Bool)) : Dev := es.foldl (fun d e => releaseAll d e.1 e.2) d

/-- LOCK_REQUEST_EXPIRY (R140): a queued request whose timeout has run out is removed, counted at k = 1, and the thread's lock line
becomes pending with TIMEOUT. -/
def lockExpire (k : Nat) (d : Dev) : Dev :=
  match reqOf d k with
  | none => d
  | some q =>
    if d.tick < q.deadline then d
    else signalThread (count (withdrawReq d k) .drLockEvtCnt 1 0) k 4 (BitVec.ofNat 64 (0x05 * 2 ^ 56 + q.lock))

/-- Step 4 of R137 for one operation: new requests in service order. A rank violation that faults its thread (R118) is noted in the list; it
and what the thread asks for after it take no effect. -/
def askLocks (now : Nat) (x : Dev × List Posted) (p : Posted) : Dev × List Posted :=
  let (d, fs) := x
  let isTry := decide (p.op = .lockTry)
  if (p.op ≠ .lockAcq ∧ p.op ≠ .lockTry) ∨ fs.any (fun q => decide (q.who = p.who)) then x
  else if !suppressed d p && rankBad d p && canFault d p then (d, fs ++ [p])
  else (perform (fun d p => lockAcq now d p isTry) d p, fs)

/-- Steps 1 to 4 of R137 at boundary `now`, with the requests of the threads in `out` left out: the device, and the rank violations that
fault a thread. The operations of an ending stage take effect and its end releases them too (R109, R119, R143). -/
def lockSteps (now : Nat) (ops : List Posted) (out : List Nat) (d : Dev) : Dev × List Posted :=
  let es := d.dr.endings
  let d := { d with dr := { d.dr with endings := [] } }
  let d := (ops.filter (fun p => p.op = .lockRel)).foldl
    (perform fun d p => lockRel d p.who (p.a.toNat % 4096)) d
  let d := applyEndings d es
  let d := (mkeys d.dr.locks).foldl (grantNext now) d
  let d := (mkeys d.dr.reqs).foldl (fun d k => lockExpire k d) d
  let r := (ops.filter fun p => decide (p.who ∉ out)).foldl (askLocks now) (d, [])
  (applyEndings r.1 es, r.2)

/-- The faults of rank violations (R118, R141): each is counted, and the thread's end is one of the tick that ends here. -/
def rankFaults (fs : List Posted) (d : Dev) : Dev :=
  fs.foldl (fun d p => faultThread (count d .drLockEvtCnt 3 0) p.who 0x14 p.pc p.word) d

/-- All rank violations of a boundary: a fault frees locks in step 1, which may give other threads locks and with them violations. -/
def findFaults (now : Nat) (ops : List Posted) (d : Dev) : Nat → List Posted → List Posted
  | 0, fs => fs
  | n + 1, fs =>
    let gs := (lockSteps now ops (fs.map (·.who)) (rankFaults fs d)).2
    if gs.isEmpty then fs else findFaults now ops d n (ops.filter fun p => decide (p ∈ fs ∨ p ∈ gs))

/-- The lock unit at boundary `now` (R137): releases, grants, expiries, then new requests in service order, then POLL. The poisoned releases
of a rank fault of the boundary belong to step 1, as its tick is the one that ends there (R118, R143; DEDUCED, log entry 31). -/
def lockBoundary (now : Nat) (ops : List Posted) (d : Dev) : Dev :=
  let fs := findFaults now ops d (ops.length + 1) []
  let d := (lockSteps now ops (fs.map (·.who)) (rankFaults fs d)).1
  (ops.filter (fun p => p.op = .lockPoll)).foldl
    (perform fun d p => (d, lockPoll now d p.who (p.a.toNat % 4096))) d

/-! ### Channels -/

/-- A channel without slots. -/
def Chan.empty : Chan := ⟨0, 0, [], 0⟩

/-- A channel. -/
def chanOf (d : Dev) (c : Nat) : Chan := mget d.dr.chans c Chan.empty

/-- Store a channel. -/
def putChan (d : Dev) (c : Nat) (x : Chan) : Dev := { d with dr := { d.dr with chans := mput d.dr.chans c x Chan.empty } }

/-- Whether a channel is enabled. -/
def chanEn (d : Dev) (c : Nat) : Bool := cfgB d .drChanCfg0 c 0 31

/-- Slots of a channel's ring. -/
def chanDepth (d : Dev) (c : Nat) : Nat := 2 ^ cfgF d .drChanCfg0 c 0 0 4

/-- The area of an enabled channel in hank memory: first byte and size (R145). -/
def chanArea (d : Dev) (c : Nat) : Nat × Nat := (cfgF d .drChanCfg0 c 0 6 20 * 64, 64 * chanDepth d c)

/-- The publish timeout in ticks (R149). -/
def pubTimeout (d : Dev) (c : Nat) : Nat := orIf0 (cfgF d .drChanCfg1 c 0 0 16) 1

/-- The reserved slot that a handle names: its sequence number modulo 2^20, not past its publish timeout (R147, R149). -/
def handleSlot (d : Dev) (c h : Nat) : Option (Nat × Slot) :=
  (chanOf d c).slots.findSome? fun e => match e.2 with
    | some s => if e.1 % 2 ^ 20 = h ∧ s.st = .reserved ∧ s.ticks ≤ pubTimeout d c then some (e.1, s) else none
    | none => none

/-- Store a slot. -/
def putSlot (x : Chan) (q : Nat) (s : Option Slot) : Chan := { x with slots := mput x.slots q s none }

/-- The 64 bytes of a slot in hank memory (R145, R146): its seven data words, little-endian, each in a place that is free, and 8 bytes more
that are free (log entry 286). -/
def slotBytes (s : Slot) : List Byte :=
  let rest := Config.slotRest (match s.st with | .reserved => 0 | .published => 1 | .void => 2) s.count
  (List.range 8).flatMap fun p =>
    match (List.range 7).find? fun i => decide (Config.slotPlace i % 8 = p) with
    | some i => leBytes 8 (mget s.words i 0).toNat
    | none => leBytes 8 rest.toNat

/-- The slot with sequence number `q` as it stands in hank memory (R145, R146). -/
def showSlot (d : Dev) (c q : Nat) (s : Slot) : Dev :=
  let a := chanArea d c
  { d with hank := memWrN d.hank (a.1 + 64 * (q % chanDepth d c)) (slotBytes s) }

/-- OPEN (R146). -/
def chanOpen (d : Dev) (p : Posted) : Dev × PRes :=
  let c := p.a.toNat % 4096
  let x := chanOf d c
  if !chanEn d c then (d, rStat 0x0C)
  else if chanDepth d c ≤ x.slots.length then (d, rStat 0x02)
  else
    let s : Slot := ⟨.reserved, 0, [], p.who, 0⟩
    let x' := { putSlot x x.next (some s) with next := x.next + 1 }
    (showSlot (putChan d c x') c x.next s, ⟨0x00, c + x.next % 2 ^ 20 * 4096, []⟩)

/-- WRITE of data word `i` (R147). -/
def chanWrite (d : Dev) (p : Posted) (i : Nat) : Dev × PRes :=
  let c := p.a.toNat % 4096
  if !chanEn d c then (d, rStat 0x0C)
  else match handleSlot d c (p.a.toNat / 4096 % 2 ^ 20) with
    | none => (d, rStat 0x08)
    | some (q, s) =>
      let s := { s with words := mput s.words i p.b 0 }
      (showSlot (putChan d c (putSlot (chanOf d c) q (some s))) c q s, rStat 0x00)

/-- COMMIT (R147). -/
def chanCommit (d : Dev) (p : Posted) : Dev × PRes :=
  let c := p.a.toNat % 4096
  if !chanEn d c then (d, rStat 0x0C)
  else match handleSlot d c (p.a.toNat / 4096 % 2 ^ 20) with
    | none => (d, rStat 0x08)
    | some (q, s) =>
      let n := p.b.toNat % 8
      if n = 0 then (d, rStat 0x0C)
      else
        let s := { s with st := .published, count := n }
        (showSlot (putChan d c (putSlot (chanOf d c) q (some s))) c q s, rStat 0x00)

/-- READ (R148): READs of a tick see the slots readable at the boundary that began it. -/
def chanRead (d : Dev) (p : Posted) : Dev × PRes :=
  let c := p.a.toNat % 4096
  let x := chanOf d c
  if !chanEn d c then (d, rStat 0x0C)
  else if x.readable = 0 then (d, rStat 0x0A)
  else match mget x.slots x.oldest none with
    | none => (d, rStat 0x0A)
    | some s =>
      let x' := { putSlot x x.oldest none with oldest := x.oldest + 1, readable := x.readable - 1 }
      if s.st = .void then (putChan d c x', rStat 0x09)
      else (putChan d c x', ⟨0x00, s.count, mrange s.words 0 0 s.count⟩)

/-- Readable slots: the published slots that run contiguously from the oldest unread one (R148). -/
def readableFrom (x : Chan) : Nat → Nat → Nat
  | _, 0 => 0
  | q, n + 1 =>
    match mget x.slots q none with
    | some s => if s.st = .reserved then 0 else 1 + readableFrom x (q + 1) n
    | none => 0

/-- Bring READABLE of a channel up to date; where it rises above `old` the lines bound to the channel become pending (R148,
Table 5-9). -/
def chanRefresh (old : Nat) (d : Dev) (c : Nat) : Dev :=
  let x := chanOf d c
  let n := readableFrom x x.oldest x.slots.length
  let d := putChan d c { x with readable := n }
  if old < n then signalLines d 3 c (BitVec.ofNat 64 (c + n * 65536)) else d

/-- Count a boundary toward the publish timeouts of a channel's reserved slots; with DEBUG_HOLD a boundary does not count when the
writer was halted at any time in the tick (R149, R150). -/
def chanAge (d : Dev) (c : Nat) : Dev :=
  let x := chanOf d c
  let hold := d.ct.debugEn && cfgB d .drChanCfg1 c 0 16
  putChan d c { x with slots := x.slots.map fun e => (e.1, e.2.map fun s =>
    let t := thrOf d s.writer
    if s.st = .reserved && !(hold && (t.dbg.halted || t.dbg.seen)) then { s with ticks := s.ticks + 1 } else s) }

/-- Publish as VOID every slot of a channel whose publish timeout has run out, and count them (R149). -/
def chanVoid (c : Nat) (d : Dev) : Dev :=
  let x := chanOf d c
  let due (s : Slot) : Bool := decide (s.st = .reserved) && decide (pubTimeout d c ≤ s.ticks)
  let ds := x.slots.filterMap fun e => match e.2 with | some s => if due s then some (e.1, { s with st := .void }) else none | none => none
  let n := ds.length
  countN (ds.foldl (fun d e => showSlot d c e.1 e.2) (putChan d c { x with slots := x.slots.map fun e =>
    (e.1, e.2.map fun s => if due s then { s with st := .void } else s) })) .drChanVoidCnt 0 0 n

/-- CHAN_PUBLISH_TIMEOUT (R149): every slot of the channel whose timeout has run out is published as VOID and counted. -/
def chanTimeout (c : Nat) (d : Dev) : Dev := chanRefresh (chanOf d c).readable (chanVoid c d) c

/-- One channel operation. -/
def chanOp (d : Dev) (p : Posted) : Dev :=
  match p.op with
  | .chanOpen => perform chanOpen d p
  | .chanWrite i => perform (fun d p => chanWrite d p i.val) d p
  | .chanCommit => perform chanCommit d p
  | .chanRead => perform chanRead d p
  | _ => d

/-- The channels at a boundary: timeouts count, the tick's operations take effect in service order, READABLE is brought up to
date (R146 to R149). -/
def chanBoundary (ops : List Posted) (d : Dev) : Dev :=
  let off := d.dr.chanOff
  let d := off.foldl (fun d c => putChan d c Chan.empty) { d with dr := { d.dr with chanOff := [] } }
  let d := (mkeys d.dr.chans).foldl chanAge d
  let before := d.dr.chans
  let d := ops.foldl chanOp d
  let d := (mkeys d.dr.chans).foldl (fun d c => chanVoid c d) d
  (mkeys d.dr.chans).foldl (fun d c => chanRefresh (mget before c Chan.empty).readable d c) d

/-! ### Events, punt queues, wait groups -/

/-- The lowest group with an undelivered raise for a recovery thread. -/
def pendingRaise (d : Dev) (k : Nat) : Option (Nat × DWord) :=
  d.dr.raises.findSome? fun e => match e.2 with
    | some w => if e.1 ∈ recGroups d k then some (e.1, w) else none
    | none => none

/-- The lines on which a waiting thread takes an event: bit 63 of a recovery thread's mask acts as 1 (R160). -/
def inMask (d : Dev) (k : Nat) (mask : DWord) (l : Nat) : Bool :=
  bit mask l || (decide (l = 63) && !(recGroups d k).isEmpty)

/-- The event a thread would take: the lowest-numbered pending line in its mask, with its event word (R131, R160). -/
def nextEvent (d : Dev) (k : Nat) (mask : DWord) : Option (Nat × DWord) :=
  (List.range 64).findSome? fun l =>
    if !inMask d k mask l then none
    else if l = 63 then
      match pendingRaise d k with
      | some (_, w) => some (63, w)
      | none => (mget d.dr.pend (lineKey k l) none).map fun p => (l, p.word)
    else (mget d.dr.pend (lineKey k l) none).map fun p => (l, p.word)

/-- A thread becomes ready after STAGE or WAIT: its P registers take the results that have arrived, and a new interval of posted
operations begins (R104, R106). -/
def startInterval (t : Thread) : Thread := { t with run := .ready, p := t.pnext, pnext := [], pby := [], posted := 0 }

/-- A thread wakes with a line number and an event word (R131). -/
def wakeWith (d : Dev) (k line : Nat) (w : DWord) : Dev :=
  let t := startInterval (thrOf d k)
  putThr d k (gWr (gWr t 30 (BitVec.ofNat 64 line)) 29 w)

/-- Take the event of a line: its pending bit clears, a doldrums raise of the lowest group is delivered, and the raise count of a
fault-tree line begins again (R131, R160, R470). -/
def takeEvent (d : Dev) (k line : Nat) : Dev :=
  let d := { d with ft := { d.ft with lineCnt := mput d.ft.lineCnt (lineKey k line) 0 0 } }
  if line = 63 then
    match pendingRaise d k with
    | some (g, _) => { d with dr := { d.dr with raises := mput d.dr.raises g none none } }
    | none => clrPend d k line
  else clrPend d k line

/-- A halted thread in WAIT takes no event unless a STEP is held (R130, R62). -/
def mayWake (t : Thread) : Bool := !t.dbg.faulted && (!t.dbg.halted || t.dbg.step)

/-- WAIT_WAKE (R131): a waiting thread with a pending line in its mask wakes. -/
def waitWake (d : Dev) (k : Nat) : Dev :=
  let t := thrOf d k
  match t.run with
  | .waiting mask _ =>
    if !mayWake t then d
    else match nextEvent d k mask with
      | some (l, w) => wakeWith (takeEvent d k l) k l w
      | none => d
  | _ => d

/-- WAIT_TIMEOUT (R130, R131): the timeout has run out and no line in the mask is pending: line number 64, event word 0. -/
def waitExpire (k : Nat) (d : Dev) : Dev :=
  let t := thrOf d k
  match t.run with
  | .waiting mask (some dl) =>
    if mayWake t && decide (dl ≤ d.tick) then
      match nextEvent d k mask with
      | some (l, w) => wakeWith (takeEvent d k l) k l w
      | none => wakeWith d k 64 0
    else d
  | _ => d

/-- Whether a waiting thread becomes ready at this boundary: a line in its mask is pending, or its timeout has run out (R130). -/
def wakesNow (d : Dev) (k : Nat) (mask : DWord) (dl : Option Nat) : Bool :=
  mayWake (thrOf d k) && ((nextEvent d k mask).isSome || (match dl with | some t => decide (t ≤ d.tick) | none => false))

/-- Whether a thread may be handed a punt or waft entry on a line at a boundary (R155): it waits with the line in its mask, or is ready
from this boundary on, as those of `ws` are. A thread that is halted or FAULTED in WAIT still waits with its mask (DESIGN CHOICE, log
entry 281). -/
def mayTakeEntry (ws : List Nat) (d : Dev) (k l : Nat) : Bool :=
  let t := thrOf d k
  !linePending d k l && (match t.run with
    | .waiting mask _ => inMask d k mask l || decide (k ∈ ws)
    | .ready | .staged => !t.dbg.halted && !t.dbg.faulted
    | _ => false)

/-- Hand the oldest entries of a source to its bound threads in service order, one per thread (R155). -/
def handOff (ws : List Nat) (src ty ix : Nat) (get : Dev → List DWord) (put : Dev → List DWord → Dev) (d : Dev) : Dev :=
  let lines := sortBy (fun kl : Nat × Nat => svcPos d kl.1) (boundLines d ty ix)
  (lines.foldl (fun (acc : Dev × List Nat) kl =>
    let d := acc.1
    match get d with
    | [] => acc
    | w :: rest =>
      if kl.1 ∈ acc.2 || !mayTakeEntry ws d kl.1 kl.2 then acc
      else (setPend (put d rest) kl.1 kl.2 w (some src), kl.1 :: acc.2)) (d, [])).1

/-- An empty punt queue. -/
def PuntQ.empty : PuntQ := ⟨0, []⟩

/-- A punt queue. -/
def puntOf (d : Dev) (q : Nat) : PuntQ := mget d.dr.punt q PuntQ.empty

/-- Store a punt queue. -/
def putPunt (d : Dev) (q : Nat) (x : PuntQ) : Dev := { d with dr := { d.dr with punt := mput d.dr.punt q x PuntQ.empty } }

/-- Whether no punt queue and not the waft holds an entry. -/
def noEntries (d : Dev) : Bool := d.dr.waft.entries.isEmpty && d.dr.punt.all fun e => e.2.entries.isEmpty

/-- EVENT_HANDOFF (R155): punt and waft entries go to bound threads; `ws` are the waiting threads that are ready from this boundary on. -/
def eventHandoff (ws : List Nat) (d : Dev) : Dev :=
  let d := (mkeys d.dr.punt).foldl (fun d q =>
    handOff ws q 1 q (fun d => (puntOf d q).entries) (fun d ws => putPunt d q { puntOf d q with entries := ws }) d) d
  handOff ws 256 2 0 (fun d => d.dr.waft.entries) (fun d ws => { d with dr := { d.dr with waft := { d.dr.waft with entries := ws } } }) d

/-- The members of a wait group: service threads that name it in RL_EVT_CFG, on reels that are ADMITTED or DRAINING (R157). -/
def groupMembers (d : Dev) (g : Nat) : List Nat :=
  d.regs.act.filterMap fun e => match locateIn e.1 .rlEvtCfg with
    | some l =>
      let k := 64 * l.i + l.j
      let st := (reelOf d l.i).st
      if bit e.2 8 && decide (fld e.2 0 8 = g) && isService d k && (st == .admitted || st == .draining) then some k else none
    | none => none

/-- Whether a line of a member of group `g` is armed (R158, Table 5-9). -/
def lineArmed (d : Dev) (g k l : Nat) : Bool :=
  let b := bindOf d k l
  match b.1 with
    | 1 | 2 | 5 | 6 | 7 | 8 => true
    | 3 =>
      let w := cfg d .drChanCfg1 (b.2 % 4096) 0
      !(bit w 17 && decide (fld w 24 8 = g))
    | 4 => (reqOf d k).isSome
    | _ => false

/-- Whether a member waits with nothing armed (R158, R159): in WAIT with no armed line and no timeout, and no event at
this boundary, or faulted; not halted. -/
def memberStuck (d : Dev) (g k : Nat) : Bool :=
  let t := thrOf d k
  if t.dbg.faulted then true
  else if t.dbg.halted then false
  else match t.run with
    | .waiting mask dl => dl.isNone && !wakesNow d k mask dl && (List.range 64).all fun l => !(bit mask l && lineArmed d g k l)
    | _ => false

/-- DOLDRUMS_TEST (R159) of one group: the count of consecutive boundaries in the doldrums rises to WINDOW, or returns to 0. -/
def doldrumsTest (d : Dev) (g : Nat) : Dev :=
  let ms := groupMembers d g
  let w := orIf0 (cfgF d .tkWgCfg g 0 0 16) 1
  let stuck := cfgB d .tkWgCfg g 0 31 && !ms.isEmpty && ms.all (memberStuck d g)
  let n := if stuck then min (mget d.dr.dold g 0 + 1) w else 0
  { d with dr := { d.dr with dold := mput d.dr.dold g n 0, members := mput d.dr.members g ms.length 0 } }

/-- DOLDRUMS (R160): a group that has been in the doldrums for WINDOW boundaries raises DOLDRUMS (class 4), RAISED rises, and line
63 of its recovery thread becomes pending; the count restarts at 0. A raise that is not yet delivered is replaced by the newer one, and a
member count above 255 is kept modulo 256 (DESIGN CHOICE, log entries 283 and 282). -/
def doldrumsAct (g : Nat) (d : Dev) : Dev :=
  let win := cfgF d .tkWgCfg g 0 0 16
  if !cfgB d .tkWgCfg g 0 31 || decide (mget d.dr.dold g 0 < orIf0 win 1) then d
  else
    let st := cur d .tkWgStatus g 0
    let d := raise (setCur d .tkWgStatus g 0 (setFld st 16 8 (min 255 (fld st 16 8 + 1)))) 4
    let w := g + win * 2 ^ 8 + mget d.dr.members g 0 % 256 * 2 ^ 24 + d.tick % 2 ^ 32 * 2 ^ 32
    { d with dr := { d.dr with dold := mput d.dr.dold g 0 0, raises := mput d.dr.raises g (some (BitVec.ofNat 64 w)) none } }

end Sys2Proof.Machine
end

