-- ==== Sys2Proof/Machine/Pool.lean ====
section
/-! DEFINITION. The frame-buffer pool (R123, R124), the rings in hank memory (R198, R371), and the frames that the device
originates through I29. -/

namespace Sys2Proof.Machine

/-- Whether the pool is enabled. -/
def poolEn (d : Dev) : Bool := cfgB d .tkFrmCfg 0 0 31

/-- Buffers of the pool. -/
def poolCount (d : Dev) : Nat := cfgF d .tkFrmCfg 0 0 0 14

/-- Hank-memory offset of a buffer. -/
def bufAddr (d : Dev) (n : Nat) : Nat := cfgF d .tkFrmBase 0 0 6 20 * 64 + 4160 * n

/-- Handle of a buffer (R123). -/
def bufHandle (d : Dev) (n : Nat) : Nat := 2 * 2 ^ 60 + bufAddr d n

/-- The buffer that a handle names. -/
def handleBuf (d : Dev) (h : Nat) : Option Nat :=
  let b := bufAddr d 0
  if h / 2 ^ 60 ≠ 2 ∨ h % 2 ^ 60 < b ∨ (h % 2 ^ 60 - b) % 4160 ≠ 0 then none
  else
    let n := (h % 2 ^ 60 - b) / 4160
    if n < poolCount d then some n else none

/-- The free buffer that is taken next: the lowest-numbered one. -/
def freeBuf (d : Dev) : Option Nat := if poolEn d then (List.range (poolCount d)).find? fun n => decide (n ∉ d.rl.held) else none

/-- Take a buffer; HELD_MAX follows (Table 4-19). -/
def takeBuf (d : Dev) : Dev × Option Nat :=
  match freeBuf d with
  | none => (d, none)
  | some n =>
    let d := { d with rl := { d.rl with held := n :: d.rl.held } }
    let w := cur d .tkFrmStatus 0 0
    (setCur d .tkFrmStatus 0 0 (setFld w 16 14 (max (fld w 16 14) d.rl.held.length)), some n)

/-- Return a buffer. -/
def giveBuf (d : Dev) (n : Nat) : Dev := { d with rl := { d.rl with held := d.rl.held.filter fun x => x ≠ n } }

/-- Bytes of a buffer. -/
def bufBytes (d : Dev) (n len : Nat) : List Byte := memRdN d.hank (bufAddr d n) len

/-- Fill a buffer. -/
def bufWrite (d : Dev) (n : Nat) (bs : List Byte) : Dev := { d with hank := memWrN d.hank (bufAddr d n) bs }

/-- A frame that the device originates through I29: it is taken under R223, or counted in SW_IN_RXDROP. The bytes are without
FCS. -/
def originate (d : Dev) (bs : List Byte) (cls bucket : Nat) (md : DWord) : Dev :=
  (takeFrame d { Frame.wholeFrame 29 (bs ++ fcsOf bs) with cls := some cls, bkt := some bucket, md := md }).1

/-- FRM operations (R123). The buffer of a frame returns to the pool once I29 has taken the frame, or has refused it. -/
def frmOp (d : Dev) (p : Posted) : Dev × PRes :=
  match p.op with
  | .frmAlloc => match takeBuf d with
    | (d, some n) => (d, ⟨0, bufHandle d n % 2 ^ 56, []⟩)
    | (d, none) => (d, rStat 0x02)
  | .frmFree => match handleBuf d p.a.toNat with
    | some n => if n ∈ d.rl.held then (giveBuf d n, rStat 0) else (d, rStat 0x0C)
    | none => (d, rStat 0x0C)
  | _ => match handleBuf d p.a.toNat with
    | some n =>
      let len := fld p.b 0 13
      if n ∉ d.rl.held ∨ len < 60 ∨ 4160 < len then (d, rStat 0x0C)
      else
        let md : DWord := BitVec.ofNat 64 (4 * 2 ^ 60)
        (giveBuf (originate d (bufBytes d n (len - 4)) (fld p.b 16 3) (fld p.b 20 12) md) n, rStat 0)
    | none => (d, rStat 0x0C)

/-- FREE at a boundary, and HELD_MAX, which is at least what is held (Table 4-19). -/
def poolStatus (d : Dev) : Dev :=
  let free := if poolEn d then poolCount d - d.rl.held.length else 0
  let w := cur d .tkFrmStatus 0 0
  setCur d .tkFrmStatus 0 0 (setFld (setFld w 0 14 free) 16 14 (max (fld w 16 14) d.rl.held.length))

/-! ### Rings in hank memory -/

/-- Entries of a ring whose configuration word is given (layout of LK_RING_CFG). -/
def ringDepth (w : Word) : Nat := 2 ^ (if 4 ≤ fld w 0 5 ∧ fld w 0 5 ≤ 16 then fld w 0 5 else 4)

/-- Whether a ring is enabled. -/
def ringEn (w : Word) : Bool := bit w 31

/-- Hank-memory address of an entry of `size` bytes at index `i`. -/
def ringAddr (w : Word) (size i : Nat) : Nat := fld w 6 20 * 64 + size * (i % ringDepth w)

/-- Whether a ring has room. -/
def ringRoom (w : Word) (prod cons : Nat) : Bool := ringEn w && decide ((prod + 2 ^ 32 - cons) % 2 ^ 32 < ringDepth w)

end Sys2Proof.Machine
end

