-- ==== Sys2Proof/Machine/Tcp.lean ====
section
/-! DEFINITION. The TCP engine of the block service (R365, R366): segments through I29, the checks of a received segment, and the
connection's byte streams under RFC 9293 with window scaling, timestamps and SACK, NewReno, RFC 6298 and ECN. The content of the
streams is the business of Block.lean. -/

namespace Sys2Proof.Machine

/-- A storage connection. -/
def connOf (d : Dev) (c : Nat) : Conn := mget d.bs.conns c Conn.reset

/-- Store a connection. -/
def putConn (d : Dev) (c : Nat) (k : Conn) : Dev := { d with bs := { d.bs with conns := mput d.bs.conns c k Conn.reset } }

/-- A field of a connection's entry (Table 13-5), little-endian. -/
def ceF (d : Dev) (c off n : Nat) : Nat := leNat (sliceD 0 (mget d.bs.centry c []) off n)

/-- Bytes of a connection's entry, in wire order. -/
def ceBytes (d : Dev) (c off n : Nat) : List Byte := sliceD 0 (mget d.bs.centry c []) off n

/-- A bit of CTL of a connection's entry. -/
def ceBit (d : Dev) (c b : Nat) : Bool := (ceF d c 0 4).testBit b

/-- One more block-service event (Table 13-16). -/
def bsCount (d : Dev) (k : Nat) : Dev := count d .bsEvtCnt k 0

/-- `a` is before `b` in sequence order. -/
def sqLt (a b : Nat) : Bool := let x := (b + 2 ^ 32 - a % 2 ^ 32) % 2 ^ 32; decide (0 < x) && decide (x < 2 ^ 31)

/-- Distance from `a` to `b` in sequence order. -/
def sqSub (b a : Nat) : Nat := (b + 2 ^ 32 - a % 2 ^ 32) % 2 ^ 32

/-- Ticks in a millisecond are 31,250; the engine's timestamps count milliseconds. -/
def tsNow (d : Dev) : Nat := d.tick / 31250 % 2 ^ 32

/-- RTO bounds in ticks (Table 13-10). -/
def rtoMin (d : Dev) : Nat := ceilDiv (125 * max 200 (cfgF d .bsTcpCfg 0 0 0 16)) 4
def rtoMax (d : Dev) : Nat := 31250 * orIf0 (cfgF d .bsTcpCfg 0 0 16 12) 1

/-- A retransmission timeout within its bounds. -/
def rtoClamp (d : Dev) (r : Nat) : Nat := max (rtoMin d) (min (rtoMax d) r)

/-- Room of the receive window: 262,144 bytes less what is held (R366). -/
def rcvRoom (k : Conn) : Nat := 262144 - k.inb.length

/-- Bytes of a pseudo header for the checksum. -/
def pseudoHdr (src dst : List Byte) (v6 : Bool) (len : Nat) : List Byte :=
  if v6 then src ++ dst ++ beBytes 4 len ++ [0, 0, 0, 6] else src ++ dst ++ [0, 6] ++ beBytes 2 len

/-- SACK blocks of the data received out of order, at most three. -/
def sackBlocks (k : Conn) : List Byte :=
  let bl := k.ooo.take 3
  if !k.sackOn || bl.isEmpty then []
  else [1#8, 1#8, 5#8, BitVec.ofNat 8 (2 + 8 * bl.length)] ++ bl.flatMap fun b => beBytes 4 b.1 ++ beBytes 4 ((b.1 + b.2.length) % 2 ^ 32)

/-- Options of a segment. -/
def tcpOpts (d : Dev) (c : Nat) (k : Conn) (syn : Bool) : List Byte :=
  if syn then [2#8, 4#8] ++ beBytes 2 (ceF d c 6 2) ++ [4#8, 2#8, 8#8, 10#8] ++ beBytes 4 (tsNow d) ++ beBytes 4 0 ++ [1#8, 3#8, 3#8, 3#8]
  else (if k.tsOn then [1#8, 1#8, 8#8, 10#8] ++ beBytes 4 (tsNow d) ++ beBytes 4 k.tsRecent else []) ++ sackBlocks k

/-- Send one segment (R365): the headers of the connection's entry around it. Flags: 1 FIN, 2 SYN, 4 RST, 8 PSH, 16 ACK, 64 ECE,
128 CWR. -/
def tcpSend (d : Dev) (c : Nat) (k : Conn) (seq flags : Nat) (data : List Byte) : Dev :=
  let v6 := ceBit d c 1
  let n := if v6 then 16 else 4
  let src := ceBytes d c 0x18 n
  let dst := ceBytes d c 0x28 n
  let syn := flags.testBit 1
  let opts := tcpOpts d c k syn
  let win := if syn then 65535 else rcvRoom k / (if k.wsOn then 8 else 1)
  let len := 20 + opts.length + data.length
  let hdr := beBytes 2 (ceF d c 0x14 2) ++ beBytes 2 (ceF d c 0x16 2) ++ beBytes 4 seq
    ++ beBytes 4 (if flags.testBit 4 then k.rcvNxt else 0) ++ [BitVec.ofNat 8 (16 * (5 + opts.length / 4)), BitVec.ofNat 8 flags]
    ++ beBytes 2 (min 65535 win) ++ [0, 0, 0, 0] ++ opts
  let seg := hdr ++ data
  let sum := 65535 - ocSum (pseudoHdr src dst v6 len ++ seg)
  let seg := overwrite seg 16 (beBytes 2 sum)
  let tos : Nat := if k.ecnOn && !data.isEmpty then 2 else 0
  let ip : List Byte :=
    if v6 then beBytes 4 (6 * 2 ^ 28 + tos * 2 ^ 20) ++ beBytes 2 len ++ [6#8, Config.ipTtl] ++ src ++ dst
    else
      let h := [0x45#8, BitVec.ofNat 8 tos] ++ beBytes 2 (20 + len) ++ beBytes 2 (Config.ipId d.bs.ipId) ++ [0x40#8, 0#8, Config.ipTtl, 6#8]
        ++ [0, 0] ++ src ++ dst
      overwrite h 10 (beBytes 2 (65535 - ocSum h))
  let eth := ceBytes d c 8 6 ++ ceBytes d c 0x0E 6
    ++ (if ceBit d c 4 then beBytes 2 0x8100 ++ beBytes 2 (ceF d c 4 2) else []) ++ beBytes 2 (if v6 then 0x86DD else 0x0800)
  let bs := eth ++ ip ++ seg
  let bs := bs ++ List.replicate (60 - bs.length) 0
  let d := { d with bs := { d.bs with ipId := d.bs.ipId + 1 } }
  originate d bs (ceF d c 0 4 / 32 % 8) (c % 4096) (BitVec.ofNat 64 (5 * 2 ^ 60 + c))

/-- Flags of an ordinary segment: ACK, an ECE echo, and CWR where it is due on data. -/
def ackFlags (k : Conn) (data : Bool) : Nat :=
  16 + (if k.echo then 64 else 0) + (if k.cwrDue && data then 128 else 0) + (if data then 8 else 0)

/-- Send an acknowledgement. -/
def tcpAck (d : Dev) (c : Nat) : Dev :=
  let k := connOf d c
  tcpSend d c k k.nxt (ackFlags k false) []

/-- Data bytes that a segment may carry. -/
def effMss (k : Conn) : Nat := max 1 (k.mss - (if k.tsOn then 12 else 0))

/-- Bytes in flight. -/
def flight (k : Conn) : Nat := sqSub k.nxt k.una

/-- Send what the windows allow (RFC 9293, RFC 5681), then FIN once CLOSE was given and nothing is left. -/
def tcpPump (c : Nat) : Nat → Dev → Dev
  | 0, d => d
  | fuel + 1, d =>
    let k := connOf d c
    let room := min k.cwnd k.wnd - flight k
    let n := min (effMss k) (min room k.outq.length)
    if k.ph = .syn ∨ k.finSent then d
    else if n = 0 then
      if k.outq.isEmpty && k.finDue then
        let s : Seg := ⟨k.nxt, [], false, true, d.tick, 0, false⟩
        let d := tcpSend d c k k.nxt (ackFlags k false + 1) []
        putConn d c { k with nxt := (k.nxt + 1) % 2 ^ 32, segs := k.segs ++ [s], finSent := true, timer := some (k.timer.getD d.tick) }
      else if k.outq.isEmpty || k.timer.isSome then d
      else putConn d c { k with timer := some d.tick }
    else
      let data := k.outq.take n
      let s : Seg := ⟨k.nxt, data, false, false, d.tick, 0, false⟩
      let d := tcpSend d c k k.nxt (ackFlags k true) data
      let d := putConn d c { k with nxt := (k.nxt + n) % 2 ^ 32, outq := k.outq.drop n, segs := k.segs ++ [s], cwrDue := false,
                                    timer := some (k.timer.getD d.tick) }
      tcpPump c fuel d

/-- Put bytes into a connection's stream. -/
def tcpWrite (d : Dev) (c : Nat) (bs : List Byte) : Dev :=
  let k := connOf d c
  let d := putConn d c { k with outq := k.outq ++ bs }
  tcpPump c ((k.outq ++ bs).length + 2) d

/-- Open actively (R368). -/
def tcpOpen (d : Dev) (c : Nat) : Dev :=
  let iss := Config.tcpIss d.bs.ipId % 2 ^ 32
  let k : Conn := { Conn.reset with st := .connecting, una := iss, nxt := (iss + 1) % 2 ^ 32, mss := ceF d c 6 2,
                                    cwnd := 0, ssthresh := 2 ^ 30, rto := rtoClamp d 31250000, timer := some d.tick,
                                    segs := [⟨iss, [], true, false, d.tick, 0, false⟩] }
  putConn (tcpSend d c k iss (2 + 64 + 128) []) c k

/-- Resend a segment. -/
def tcpResend (d : Dev) (c : Nat) (s : Seg) : Dev :=
  let k := connOf d c
  let flags := if s.syn then 2 + 64 + 128 else ackFlags k (!s.data.isEmpty) + (if s.fin then 1 else 0)
  let d := tcpSend d c k s.seq flags s.data
  putConn d c { k with segs := k.segs.map fun x => if x.seq = s.seq then { x with sent := d.tick, tries := x.tries + 1 } else x }

/-- TCP_RETRANSMIT_TIMEOUT's timer: whether it has run out (R366). -/
def rtoDue (d : Dev) (k : Conn) : Bool := match k.timer with
  | some t => decide (t + k.rto ≤ d.tick)
  | none => false

/-- The oldest segment is resent after a timeout, with the timeout doubled and the congestion window at one segment (RFC 6298, RFC
5681); a closed window is probed with one byte. The answer says that RETRIES are used up. -/
def tcpTimeout (d : Dev) (c : Nat) : Dev × Bool :=
  let k := connOf d c
  if !rtoDue d k then (d, false)
  else match k.segs with
    | s :: _ =>
      if orIf0 (cfgF d .bsTcpCfg 0 0 28 4) 1 ≤ s.tries then (d, true)
      else
        let m := effMss k
        let k := { k with rto := min (rtoMax d) (2 * k.rto), timer := some d.tick, cwnd := m, dup := 0, recover := none,
                          ssthresh := if s.tries = 0 then max (flight k / 2) (2 * m) else k.ssthresh }
        (tcpResend (putConn d c k) c s, false)
    | [] => match k.outq with
      | [] => (putConn d c { k with timer := none }, false)
      | b :: rest =>
        let s : Seg := ⟨k.nxt, [b], false, false, d.tick, 0, false⟩
        let d := tcpSend d c k k.nxt (ackFlags k true) [b]
        (putConn d c { k with nxt := (k.nxt + 1) % 2 ^ 32, outq := rest, segs := [s], timer := some d.tick,
                              rto := min (rtoMax d) (2 * k.rto) }, false)

/-! ### Received segments -/

/-- A received segment: header fields, options, data, and whether the packet carried CE. -/
structure TcpIn where
  seq : Nat
  ack : Nat
  flags : Nat
  wnd : Nat
  mss : Option Nat
  ws : Option Nat
  sackOk : Bool
  ts : Option (Nat × Nat)
  sacks : List (Nat × Nat)
  data : List Byte
  ce : Bool
  deriving DecidableEq, Repr

/-- Options of a received segment. -/
def readOpts : Nat → List Byte → TcpIn → TcpIn
  | 0, _, x => x
  | fuel + 1, o, x =>
    match o with
    | [] => x
    | k :: rest =>
      if k = 0 then x
      else if k = 1 then readOpts fuel rest x
      else
        let n := (rest.getD 0 0).toNat
        let b := (o.take n).drop 2
        let x := match k.toNat with
          | 2 => { x with mss := some (beNat (b.take 2)) }
          | 3 => { x with ws := some (min 14 (beNat (b.take 1))) }
          | 4 => { x with sackOk := true }
          | 5 => { x with sacks := (chunks 8 4 b).map fun e => (beNat (e.take 4), beNat (e.drop 4)) }
          | 8 => { x with ts := some (beNat (b.take 4), beNat (b.drop 4)) }
          | _ => x
        if n < 2 then x else readOpts fuel (o.drop n) x

/-- How a BLOCK segment meets its connection (R365): not of its 4-tuple, not a segment the engine supports, or a segment. -/
inductive SegIn where
  | mismatch | bad | ok (s : TcpIn)
  deriving DecidableEq, Repr

/-- The segment that a frame without FCS carries, for connection `c`. -/
def segIn (d : Dev) (c : Nat) (bs : List Byte) : SegIn :=
  let v6 := ceBit d c 1
  let (et, o) := l3Pos bs
  let n := if v6 then 16 else 4
  let g (i : Nat) : Nat := (bs.getD i 0).toNat
  let w (i : Nat) : Nat := beNat (sliceD 0 bs i 2)
  let isV6 := decide (et = 0x86DD)
  if (et ≠ 0x0800 ∧ et ≠ 0x86DD) ∨ isV6 ≠ v6 then .mismatch
  else
    let src := sliceD 0 bs (if v6 then o + 8 else o + 12) n
    let dst := sliceD 0 bs (if v6 then o + 24 else o + 16) n
    let plain := if v6 then decide (g (o + 6) = 6) else decide (g o = 0x45) && decide (w (o + 6) % 0x4000 = 0) && decide (g (o + 9) = 6)
    let t := if v6 then o + 40 else o + 20
    let len := if v6 then w (o + 4) else w (o + 2) - 20
    if src ≠ ceBytes d c 0x28 n ∨ dst ≠ ceBytes d c 0x18 n then .mismatch
    else if !plain then .bad
    else if w t ≠ ceF d c 0x16 2 ∨ w (t + 2) ≠ ceF d c 0x14 2 then .mismatch
    else
      let seg := (bs.drop t).take len
      let hl := 4 * (g (t + 12) / 16)
      if len < 20 ∨ seg.length < len ∨ hl < 20 ∨ len < hl ∨ ocSum (pseudoHdr src dst v6 len ++ seg) ≠ 65535 then .bad
      else
        let tos := if v6 then beNat (sliceD 0 bs o 4) / 2 ^ 20 % 256 else g (o + 1)
        let x : TcpIn := { seq := beNat (sliceD 0 seg 4 4), ack := beNat (sliceD 0 seg 8 4), flags := g (t + 13), wnd := w (t + 14),
                           mss := none, ws := none, sackOk := false, ts := none, sacks := [], data := seg.drop hl,
                           ce := decide (tos % 4 = 3) }
        .ok (readOpts 40 ((seg.take hl).drop 20) x)

/-- A round-trip sample (RFC 6298). -/
def rttSample (d : Dev) (k : Conn) (r : Nat) : Conn :=
  let k := match k.srtt with
    | none => { k with srtt := some r, rttvar := r / 2 }
    | some s =>
      let dev := if s < r then r - s else s - r
      { k with srtt := some ((7 * s + r) / 8), rttvar := (3 * k.rttvar + dev) / 4 }
  { k with rto := rtoClamp d (k.srtt.getD 0 + max 1 (4 * k.rttvar)) }

/-- Whether an acknowledgement covers a segment. -/
def segAcked (a : Nat) (s : Seg) : Bool :=
  let fin := (s.seq + s.data.length + b2n s.syn + b2n s.fin) % 2 ^ 32
  decide (fin = a) || sqLt fin a

/-- An acknowledgement of new data (RFC 5681, RFC 6298, RFC 6582); the answer holds the segment that a partial acknowledgement resends. -/
def newAck (d : Dev) (k : Conn) (a : Nat) : Conn × Option Seg :=
  let acked := sqSub a k.una
  let done := k.segs.filter (segAcked a)
  let k := match (done.filter fun s => s.tries = 0).getLast? with
    | some s => rttSample d k (d.tick - s.sent)
    | none => k
  let rest := k.segs.filter fun s => !segAcked a s
  let m := effMss k
  let k := { k with una := a, segs := rest, dup := 0, timer := if rest.isEmpty then none else some d.tick }
  match k.recover with
  | some r =>
    if sqLt a r then ({ k with cwnd := k.cwnd - min acked (k.cwnd - m) + m }, rest.head?)
    else ({ k with recover := none, cwnd := max m k.ssthresh }, none)
  | none =>
    let inc := if k.cwnd < k.ssthresh then min acked m else max 1 (m * m / max 1 k.cwnd)
    ({ k with cwnd := k.cwnd + inc }, none)

/-- Mark a segment that a SACK block covers (RFC 2018). -/
def sackMark (bl : List (Nat × Nat)) (s : Seg) : Seg :=
  if bl.any (fun b => !sqLt s.seq b.1 && !sqLt b.2 ((s.seq + s.data.length) % 2 ^ 32)) then { s with sacked := true } else s

/-- Take the acknowledgement part of a segment in an established connection. -/
def ackIn (d : Dev) (c : Nat) (x : TcpIn) : Dev :=
  let k := connOf d c
  if !x.flags.testBit 4 ∨ sqLt k.nxt x.ack then d
  else
    let m := effMss k
    let k := { k with segs := k.segs.map (sackMark x.sacks) }
    let ece := x.flags.testBit 6 && k.ecnOn && (match k.eceCut with | some e => sqLt e x.ack | none => true)
    let k := if ece then { k with ssthresh := max (flight k / 2) (2 * m), cwnd := max (flight k / 2) (2 * m), cwrDue := true, eceCut := some k.nxt }
             else k
    let wnd := x.wnd * (if k.wsOn then 2 ^ k.wscale else 1)
    if sqLt k.una x.ack then
      let r := newAck d { k with wnd := wnd } x.ack
      let d := putConn d c r.1
      match r.2 with
      | some s => if s.sacked then d else tcpResend d c s
      | none => d
    else if x.ack = k.una ∧ !k.segs.isEmpty ∧ x.data.isEmpty ∧ wnd = k.wnd ∧ x.flags % 4 = 0 then
      let k := { k with dup := k.dup + 1 }
      if k.dup = 3 ∧ k.recover = none then
        let half := max (flight k / 2) (2 * m)
        let k := { k with ssthresh := half, cwnd := half + 3 * m, recover := some k.nxt }
        match k.segs.find? fun s => !s.sacked with
        | some s => tcpResend (putConn d c k) c s
        | none => putConn d c k
      else putConn d c (if k.recover.isSome then { k with cwnd := k.cwnd + m } else k)
    else putConn d c { k with wnd := wnd }

/-- Move data received out of order into the stream where it now fits. -/
def oooIn : Nat → Conn → Conn
  | 0, k => k
  | fuel + 1, k =>
    match k.ooo.find? fun e => !sqLt k.rcvNxt e.1 with
    | none => k
    | some e =>
      let old := sqSub k.rcvNxt e.1
      let new := e.2.drop old
      oooIn fuel { k with ooo := k.ooo.filter (· ≠ e), inb := k.inb ++ new, rcvNxt := (k.rcvNxt + new.length) % 2 ^ 32 }

/-- Take the data and FIN of a segment; every segment that carries either is acknowledged. -/
def dataIn (d : Dev) (c : Nat) (x : TcpIn) : Dev :=
  let k := connOf d c
  let k := if x.ce && k.ecnOn then { k with echo := true } else if x.flags.testBit 7 then { k with echo := false } else k
  let fin := x.flags.testBit 0
  if x.data.isEmpty && !fin then putConn d c k
  else
    let room := rcvRoom k
    let ahead := sqSub x.seq k.rcvNxt
    let data := if ahead < 2 ^ 31 then x.data.take (room - ahead) else x.data
    let k := if data.isEmpty then k else oooIn (k.ooo.length + 2) { k with ooo := (x.seq, data) :: k.ooo }
    let endSeq := (x.seq + x.data.length) % 2 ^ 32
    let k := if fin && decide (k.rcvNxt = endSeq) && !k.peerFin then { k with peerFin := true, rcvNxt := (endSeq + 1) % 2 ^ 32 } else k
    tcpAck (putConn d c k) c

/-- What a segment meant for the connection as a whole. -/
inductive TcpEv where
  | none | opened | reset
  deriving DecidableEq, Repr

/-- A segment of connection `c` (RFC 9293): SYN-SENT waits for the SYN and ACK of its own SYN; later states take acknowledgement, data
and FIN. -/
def tcpIn (d : Dev) (c : Nat) (x : TcpIn) : Dev × TcpEv :=
  let k := connOf d c
  let rst := x.flags.testBit 2
  if k.ph = .syn then
    let good := x.flags.testBit 4 && decide (x.ack = k.nxt)
    if rst then (d, if good then .reset else .none)
    else if good && x.flags.testBit 1 then
      let k := match k.segs.head? with
        | some s => if s.tries = 0 then rttSample d k (d.tick - s.sent) else k
        | none => k
      let mss := min (ceF d c 6 2) (x.mss.getD 536)
      let k := { k with ph := .icResp, una := x.ack, segs := [], timer := none, rcvNxt := (x.seq + 1) % 2 ^ 32, wnd := x.wnd,
                        wsOn := x.ws.isSome, wscale := x.ws.getD 0, tsOn := x.ts.isSome, tsRecent := (x.ts.getD (0, 0)).1,
                        sackOn := x.sackOk, ecnOn := decide (x.flags / 64 % 4 = 1), mss := mss, cwnd := min (4 * mss) (max (2 * mss) 4380) }
      (tcpAck (putConn d c k) c, .opened)
    else (d, .none)
  else
    let off := sqSub x.seq k.rcvNxt
    let inWin := decide (off < max 1 (rcvRoom k)) || decide (sqSub k.rcvNxt x.seq ≤ x.data.length)
    let old := k.tsOn && (match x.ts with | some t => sqLt t.1 k.tsRecent | none => false)
    if rst then
      if off = 0 then (d, .reset) else if inWin then (tcpAck d c, .none) else (d, .none)
    else if old ∨ !inWin ∨ x.flags.testBit 1 then (tcpAck d c, .none)
    else
      let k := match x.ts with
        | some t => if k.tsOn && !sqLt k.rcvNxt x.seq then { k with tsRecent := t.1 } else k
        | none => k
      let d := dataIn (ackIn (putConn d c k) c x) c x
      (tcpPump c ((connOf d c).outq.length + 2) d, .none)

end Sys2Proof.Machine
end

