-- ==== Sys2Proof/Machine/Stripe.lean ====
section
/-! DEFINITION. Vdisk and shard entries, the placement of bytes on stripes (R362, R364, R373) and the Reed-Solomon code of R374. -/

namespace Sys2Proof.Machine

/-- A field of an entry, little-endian. -/
def entF (e : List Byte) (off n : Nat) : Nat := leNat (sliceD 0 e off n)

/-- Fields of a vdisk entry (Table 13-4). -/
def vdCtl (v : List Byte) (lo len : Nat) : Nat := entF v 0 4 / 2 ^ lo % 2 ^ len
def vdValid (v : List Byte) : Bool := decide (vdCtl v 0 1 = 1)
def vdBlock (v : List Byte) : Nat := if vdCtl v 1 1 = 1 then 4096 else 512
def vdXts (v : List Byte) : Bool := decide (vdCtl v 2 1 = 1)
def vdHome (v : List Byte) : Nat := vdCtl v 4 2
def vdK (v : List Byte) : Nat := entF v 4 1
def vdM (v : List Byte) : Nat := entF v 5 1
def vdUnit (v : List Byte) : Nat := 512 * 2 ^ (entF v 6 1 % 8)
def vdCap (v : List Byte) : Nat := entF v 8 8 % 2 ^ 48
def vdSa (v : List Byte) : Nat := entF v 0x10 4 % 2 ^ 20
def vdShard (v : List Byte) : Nat := entF v 0x14 4 % 65536
def vdN (v : List Byte) : Nat := vdK v + vdM v

/-- A range of one column of one stripe, and where its bytes lie in the command's data (R373). -/
structure Ext where
  stripe : Nat
  col : Nat
  o : Nat
  len : Nat
  off : Nat
  deriving DecidableEq, Repr

/-- The ranges of `len` bytes from byte `b` on, cut at units. -/
def extCut (k u : Nat) : Nat → Nat → Nat → Nat → List Ext
  | 0, _, _, _ => []
  | fuel + 1, b, len, off =>
    if len = 0 then []
    else
      let o := b % u
      let n := min len (u - o)
      ⟨b / (k * u), b % (k * u) / u, o, n, off⟩ :: extCut k u fuel (b + n) (len - n) (off + n)

/-- The ranges that a command's bytes take on a vdisk; a vdisk of one shard has one column without stripes. -/
def extents (v : List Byte) (start len : Nat) : List Ext :=
  if vdN v = 1 then [⟨0, 0, start, len, 0⟩] else extCut (vdK v) (vdUnit v) (len / vdUnit v + 2) start len 0

/-- Shard of a column of a stripe. -/
def shardOf (v : List Byte) (stripe col : Nat) : Nat := if vdN v = 1 then 0 else (col + stripe) % vdN v

/-- Target LBA of a unit offset of a stripe on a shard whose BASE is given. -/
def targetLba (v : List Byte) (base stripe o : Nat) : Nat :=
  if vdN v = 1 then base + o / vdBlock v else base + stripe * vdUnit v / vdBlock v + o / vdBlock v

/-! ### The code -/

/-- Multiplication over GF(2^8) with the polynomial 0x11D, by the `n` low bits of `b` from the top. -/
def gfMulN (a b : Nat) : Nat → Nat → Nat
  | 0, acc => acc
  | n + 1, acc =>
    let s := if 128 ≤ acc then Nat.xor (2 * acc) 0x11D else 2 * acc
    gfMulN a b n (if b.testBit n then Nat.xor s a else s)

/-- Product of two field elements. -/
def gfMul (a b : Nat) : Nat := gfMulN a b 8 0

/-- Inverse of a nonzero field element: its 254th power. -/
def gfInv (a : Nat) : Nat :=
  let a2 := gfMul a a; let a4 := gfMul a2 a2; let a8 := gfMul a4 a4; let a16 := gfMul a8 a8
  let a32 := gfMul a16 a16; let a64 := gfMul a32 a32; let a128 := gfMul a64 a64
  gfMul a128 (gfMul a64 (gfMul a32 (gfMul a16 (gfMul a8 (gfMul a4 a2)))))

/-- The coefficient g(i, j) of R374. -/
def rsCoef (i j : Nat) : Nat := gfMul (j + 4) (gfInv (Nat.xor i (j + 4)))

/-- A byte string times a field element, added to another. -/
def gfAxpy (g : Nat) (x acc : List Byte) : List Byte := xorBytes acc (x.map fun b => BitVec.ofNat 8 (gfMul g b.toNat))

/-- The sum of columns, each times its coefficient. -/
def gfCombine (len : Nat) (gs : List Nat) (cols : List (List Byte)) : List Byte :=
  (gs.zip cols).foldl (fun acc e => gfAxpy e.1 e.2 acc) (List.replicate len 0)

/-- Row of the code for a column: a unit vector for a data column, the coefficients for a parity column. -/
def rsRow (k col : Nat) : List Nat :=
  (List.range k).map fun j => if col < k then (if j = col then 1 else 0) else rsCoef (col - k) j

/-- Subtract `g` times one row from another. -/
def rowSub (g : Nat) (p r : List Nat) : List Nat := (r.zip p).map fun e => Nat.xor e.1 (gfMul g e.2)

/-- Gaussian elimination: columns `j` on, rows still to be used, rows done. Each row is followed by its combination. -/
def gfElim : Nat → Nat → List (List Nat) → List (List Nat) → List (List Nat)
  | 0, _, _, done => done
  | n + 1, j, todo, done =>
    match todo.find? fun r => r.getD j 0 ≠ 0 with
    | none => done
    | some r =>
      let inv := gfInv (r.getD j 0)
      let r' := r.map fun x => gfMul inv x
      let clear := fun x : List Nat => rowSub (x.getD j 0) r' x
      gfElim n (j + 1) ((todo.erase r).map clear) (done.map clear ++ [r'])

/-- The weights with which `k` columns that are there give data column `c` (R374: any K of the n columns determine the rest). -/
def rsWeights (k : Nat) (have_ : List Nat) (c : Nat) : List Nat :=
  let rows := have_.mapIdx fun i col => rsRow k col ++ (List.range k).map fun j => if j = i then 1 else 0
  ((gfElim k 0 rows []).getD c []).drop k

/-- Any column from `k` columns that are there. -/
def rsSolve (k len : Nat) (have_ : List (Nat × List Byte)) (c : Nat) : List Byte :=
  let cols := have_.map (·.1)
  let data := have_.map (·.2)
  if c < k then gfCombine len (rsWeights k cols c) data
  else gfCombine len (rsRow k c) ((List.range k).map fun j => gfCombine len (rsWeights k cols j) data)

end Sys2Proof.Machine
end

