-- ==== Sys2Proof/Machine/Block.lean ====
section
/-! DEFINITION. The block service (chapter 13): NVMe commands in their contexts, shard commands and NVMe/TCP PDUs, stripe sets, stripe
locks, sector encryption, admin rings, timeouts, and the commands of BS_CMD. -/

namespace Sys2Proof.Machine

/-! ### Tables -/

/-- A vdisk entry. -/
def vdOf (d : Dev) (v : Nat) : List Byte := mget d.bs.vd v []

/-- The VALID vdisk of a vport and NSID (R362). -/
def findVd (d : Dev) (p nsid : Nat) : Option Nat :=
  (d.bs.vd.find? fun e => vdValid e.2 && decide (vdCtl e.2 6 3 = p / 256) && decide (vdCtl e.2 16 8 = p % 256)
    && decide (vdCtl e.2 24 8 = nsid)).map (·.1)

/-- Commands of a vdisk in progress (Table 13-13). -/
def vdBusy (d : Dev) (v : Nat) : Nat := (d.bs.cmds.filter fun e => match e.2 with
  | some c => decide (c.vd = v) && !c.vent.isEmpty
  | none => false).length

/-- MISSING of a shard of a command's vdisk. -/
def missing (d : Dev) (c : Cmd) (j : Nat) : Bool := (entF (mget d.bs.shard (vdShard c.vent + j) []) 0 4).testBit 16

/-- Set MISSING of a shard entry; each new one is counted at k = 4. -/
def markShard (d : Dev) (i : Nat) : Dev :=
  let e := sliceD 0 (mget d.bs.shard i []) 0 16
  if (entF e 0 4).testBit 16 then d
  else bsCount { d with bs := { d.bs with shard := mput d.bs.shard i (overwrite e 2 [setBit (e.getD 2 0) 0 true]) [] } } 4

/-- A shard of a command is lost (R375, R377). -/
def markMissing (d : Dev) (c : Cmd) (j : Nat) : Dev := if missing d c j then d else raise (markShard d (vdShard c.vent + j)) 18

/-! ### PDUs to a target -/

/-- Common header of a PDU. -/
def pduHdr (ty flags hlen pdo plen : Nat) : List Byte :=
  [BitVec.ofNat 8 ty, BitVec.ofNat 8 flags, BitVec.ofNat 8 hlen, BitVec.ofNat 8 pdo] ++ leBytes 4 plen

/-- A PDU with its digests (R370): the header after the common 8 bytes, and its data. -/
def pduWith (hd dd : Bool) (ty flags : Nat) (hdr data : List Byte) : List Byte :=
  let hlen := 8 + hdr.length
  let dd := dd && !data.isEmpty
  let pdo := if data.isEmpty then 0 else hlen + (if hd then 4 else 0)
  let plen := hlen + (if hd then 4 else 0) + data.length + (if dd then 4 else 0)
  let h := pduHdr ty (flags + (if hd then 1 else 0) + (if dd then 2 else 0)) hlen pdo plen ++ hdr
  h ++ (if hd then leBytes 4 (crc32c h) else []) ++ data ++ (if dd then leBytes 4 (crc32c data) else [])

/-- Send a PDU on a connection. -/
def sendPdu (d : Dev) (c ty flags : Nat) (hdr data : List Byte) : Dev :=
  tcpWrite d c (pduWith (ceBit d c 2) (ceBit d c 3) ty flags hdr data)

/-- ICReq (R367): 128 bytes, PFV 0, HPDA 0, the digests of the entry, MAXR2T 0. -/
def sendIcReq (d : Dev) (c : Nat) : Dev :=
  let dg := b2n (ceBit d c 2) + 2 * b2n (ceBit d c 3)
  tcpWrite d c (pduHdr 0 0 128 0 128 ++ [0, 0, 0, BitVec.ofNat 8 dg] ++ List.replicate 116 0)

/-- H2CTermReq with a fatal error status and the header of the PDU it answers. -/
def sendTerm (d : Dev) (c fes : Nat) (bad : List Byte) : Dev :=
  let data := bad.take 128
  tcpWrite d c (pduHdr 2 0 24 0 (24 + data.length) ++ leBytes 2 fes ++ List.replicate 14 0 ++ data)

/-- The submission entry of a shard command: opcode, command identifier, namespace, data length, command words 10 to 12. -/
def shardSqe (opc cid nsid len : Nat) (cdw : List Byte) : List Byte :=
  [BitVec.ofNat 8 opc, 0x40#8] ++ leBytes 2 cid ++ leBytes 4 nsid ++ List.replicate 24 0 ++ leBytes 4 len ++ [0, 0, 0, 0x5A#8]
    ++ sliceD 0 cdw 0 24

/-- Fabrics Connect (R368): QID, SQSIZE = QDEPTH, 1,024 bytes of data. -/
def connectSqe (d : Dev) (c : Nat) : List Byte :=
  [0x7F#8, 0x40#8] ++ leBytes 2 0 ++ [1#8] ++ List.replicate 27 0 ++ leBytes 4 1024 ++ [0, 0, 0, 0x5A#8]
    ++ [0, 0] ++ leBytes 2 (ceF d c 0x38 2) ++ leBytes 2 (ceF d c 0x3A 2) ++ List.replicate 18 0

/-- Opcode of a kind of shard command. -/
def partOpc : PartKind → Nat
  | .read => 2 | .write => 1 | .flush => 0 | .zeroes => 8 | .dataset => 9

/-- Command words 10 to 15 of a shard command; a write carries the FUA of its command. -/
def partCdw (c : Cmd) (x : Part) : List Byte :=
  match x.kind with
  | .flush => List.replicate 24 0
  | .dataset => leBytes 4 (x.nlb - 1) ++ leBytes 4 4 ++ List.replicate 16 0
  | _ => leBytes 8 x.lba ++ leBytes 4 (x.nlb - 1 + (entF c.sqe 48 4 / 2 ^ 30 % 2) * 2 ^ 30) ++ List.replicate 12 0

/-! ### Shard commands -/

/-- Change one part of a context. -/
def updPart (d : Dev) (x i : Nat) (f : Part → Part) : Dev :=
  match cmdOf d x with
  | none => d
  | some c => putCmd d x (some { c with parts := c.parts.modify i f })

/-- A part has failed (R375, R377): its shard is lost on a vdisk with M > 0. -/
def partFail (d : Dev) (x i st : Nat) (dnr : Bool) : Dev :=
  match cmdOf d x with
  | none => d
  | some c =>
    let d := match c.parts[i]? with
      | some p => if vdM c.vent = 0 then d else markMissing d c p.shard
      | none => d
    let d := updPart d x i fun p => { p with st := .failed, status := st, dnr := dnr }
    putCmd d x ((cmdOf d x).map fun c => { c with fail := c.fail.or (some (st, dnr)) })

/-- Commands outstanding at the target of a connection. -/
def connBusy (k : Conn) : Nat := k.cmds.length

/-- Send a waiting part, while its connection is open and below QDEPTH; on a connection that is not open it fails. Nothing is sent to a shard
that has become MISSING (R375, R377; DEDUCED, log entry 303). -/
def partSend (d : Dev) (x i : Nat) : Dev :=
  match cmdOf d x with
  | none => d
  | some c => match c.parts[i]? with
    | none => d
    | some p =>
      if p.st ≠ .waiting then d
      else if vdM c.vent ≠ 0 ∧ missing d c p.shard then updPart d x i fun p => { p with st := .failed, status := 0x22 }
      else
        let se := c.shards.getD p.shard []
        let cn := entF se 0 2
        let k := connOf d cn
        if k.st ≠ .opened ∨ ceBit d cn 0 then partFail d x i 0x22 false
        else if ceF d cn 0x3A 2 ≤ connBusy k then d
        else match (List.range 1025).find? fun id => (mget k.cmds id none).isNone with
          | none => d
          | some id =>
            let d := putConn d cn { k with cmds := mput k.cmds id (some (x, i)) none }
            let dl := match p.kind with | .read => p.len | .write | .dataset => p.data.length | _ => 0
            let d := updPart d x i fun p => { p with st := .sent, sentAt := d.tick }
            sendPdu d cn 4 0 (shardSqe (partOpc p.kind) id (entF se 4 4) dl (partCdw c p)) []

/-- Send every waiting part of a context. -/
def partsSend (d : Dev) (x : Nat) : Dev :=
  match cmdOf d x with
  | none => d
  | some c => (List.range c.parts.length).foldl (fun d i => partSend d x i) d

/-- A new part. -/
def mkPart (c : Cmd) (kind : PartKind) (stripe col o len : Nat) (data : List Byte) : Part :=
  let j := shardOf c.vent stripe col
  { kind := kind, shard := j, stripe := stripe, col := col, o := o, len := len,
    lba := targetLba c.vent (entF (c.shards.getD j []) 8 8) stripe o, nlb := len / vdBlock c.vent, data := data, st := .waiting,
    status := 0, dnr := false, got := [], sentAt := 0 }

/-- Data of a part that has been read. -/
def partData (p : Part) : List Byte := sliceD 0 (dataSoFar p.got 0) 0 p.len

/-! ### Columns -/

/-- What is known of a column's range: its bytes, that they are on their way, that it cannot be had. -/
inductive ColR where
  | ok (bs : List Byte)
  | wait
  | lost
  deriving DecidableEq, Repr

/-- The read part of a column's range. -/
def colPart (c : Cmd) (s col o len : Nat) : Option Part :=
  c.parts.find? fun p => p.kind = .read && p.stripe = s && p.col = col && p.o = o && p.len = len

/-- A column's range as its shard gives it; a range not asked for yet is read. -/
def colRead (d : Dev) (x s col o len : Nat) : Dev × ColR :=
  match cmdOf d x with
  | none => (d, .wait)
  | some c => match colPart c s col o len with
    | some p => match p.st with
      | .done => (d, .ok (partData p))
      | .failed => (d, .lost)
      | _ => (d, .wait)
    | none =>
      if vdM c.vent ≠ 0 && missing d c (shardOf c.vent s col) then (d, .lost)
      else (putCmd d x (some { c with parts := c.parts ++ [mkPart c .read s col o len []] }), .wait)

/-- Whether a column may still be read: its shard is not MISSING and no read of the range failed. -/
def colLive (d : Dev) (c : Cmd) (s o len col : Nat) : Bool :=
  !missing d c (shardOf c.vent s col) && (match colPart c s col o len with | some p => decide (p.st ≠ .failed) | none => true)

/-- Whether a context holds a stripe's lock. -/
def lockHeld (d : Dev) (v s x : Nat) : Bool := d.bs.locks.any fun e => decide (e.1 = v ∧ e.2.1 = s) && decide ((e.2.2.head?.map (·.1)) = some x)

/-- Queue for a stripe's lock. -/
def lockAsk (d : Dev) (v s x : Nat) (wr : Bool) : Dev :=
  let ls := d.bs.locks
  let ls := if ls.any fun e => e.1 = v && e.2.1 = s then
      ls.map fun e => if e.1 = v ∧ e.2.1 = s then (if e.2.2.any fun w => w.1 = x then e else (v, s, e.2.2 ++ [(x, wr)])) else e
    else ls ++ [(v, s, [(x, wr)])]
  { d with bs := { d.bs with locks := ls } }

/-- Give up every lock and request of a context (R376); its record is erased with it. -/
def lockFree (d : Dev) (x : Nat) : Dev :=
  { d with bs := { d.bs with locks := (d.bs.locks.map fun e => (e.1, e.2.1, e.2.2.filter fun w => w.1 ≠ x)).filter fun e => !e.2.2.isEmpty } }

/-- A column's range, reconstructed from K other columns where its own shard is lost (R375), under the stripe's lock. -/
def colGet (d : Dev) (x s col o len : Nat) : Dev × ColR :=
  match colRead d x s col o len with
  | (d, .lost) => match cmdOf d x with
    | none => (d, .lost)
    | some c =>
      let k := vdK c.vent
      if vdM c.vent = 0 then (d, .lost)
      else if !lockHeld d c.vd s x then (lockAsk d c.vd s x false, .wait)
      else
        let cols := ((List.range (vdN c.vent)).filter fun j => decide (j ≠ col) && colLive d c s o len j).take k
        if cols.length < k then (d, .lost)
        else
          let r := cols.foldl (fun (acc : Dev × List (Nat × List Byte)) j => match colRead acc.1 x s j o len with
            | (d, .ok bs) => (d, acc.2 ++ [(j, bs)])
            | (d, _) => (d, acc.2)) (d, [])
          if r.2.length = k then (r.1, .ok (rsSolve k len r.2 col)) else (r.1, .wait)
  | r => r

/-! ### Sector encryption -/

/-- What the association of a vdisk allows for one unit (R372, R380). -/
inductive XtsR where
  | ok (key : List Byte)
  | wait
  | limit
  deriving DecidableEq, Repr

/-- Power domain of the cluster that a data unit passes (Table 12-1, R341): C4 + HOME encrypts, C0 + HOME decrypts. -/
def xtsDomain (enc : Bool) (v : List Byte) : Nat := (if enc then 37 else 33) + vdHome v % 4

/-- One data unit of an association, to encrypt or to decrypt (R341, R343): COUNT advances, once the cluster's domain is AWAKE (R440). -/
def xtsTake (d : Dev) (enc : Bool) (v : List Byte) : Dev × XtsR :=
  let i := vdSa v
  if !(saValid d i && decide (saMode d i = 4) && decide (saPort d i = vdHome v) && decide (saState d i ≠ 3)) then (d, .limit)
  else if !awake d (xtsDomain enc v) then (d, .wait)
  else match keyOf d i with
    | none => (askFill d i, .wait)
    | some k =>
      if saHard d i ≤ k.count then (d, .limit)
      else (saCounted (touchKey d i { k with count := k.count + 1 }) i (k.count + 1), .ok k.key)

/-- HBM address of a context's staging slot (Table 13-11). -/
def stageAddr (d : Dev) (x : Nat) : Nat := cfgF d .bsStage 0 0 0 5 * 2 ^ 31 + 262144 * x

/-- Bytes of a staging slot. -/
def stageRd (d : Dev) (x off n : Nat) : List Byte := memRdN d.hbm (stageAddr d x + off) n

/-- Write bytes into a staging slot. -/
def stageWr (d : Dev) (x off : Nat) (bs : List Byte) : Dev := { d with hbm := memWrN d.hbm (stageAddr d x + off) bs }

/-! ### Commands -/

/-- End a command with a status: SCT × 256 + SC, and DNR. -/
def cmdEnd (d : Dev) (x st : Nat) (dnr : Bool) : Dev :=
  match cmdOf d x with
  | none => d
  | some c =>
    let d := if st = 0x7C2 then bsCount d 5 else d
    putCmd d x (some { c with ph := .ended, status := some (c.status.getD (st, dnr)),
                              parts := c.parts.map fun p => if p.st = .waiting then { p with st := .failed } else p })

/-- Set the phase of a command. -/
def setPh (d : Dev) (x : Nat) (ph : CmdPh) : Dev :=
  match cmdOf d x with
  | none => d
  | some c => putCmd d x (some { c with ph := ph })

/-- Fields of an SQE (Table 13-1). -/
def sqeOpc (c : Cmd) : Nat := entF c.sqe 0 1
def sqeSlba (c : Cmd) : Nat := entF c.sqe 40 8
def sqeNlb (c : Cmd) : Nat := entF c.sqe 48 2 + 1
def sqePrp1 (c : Cmd) : Nat := entF c.sqe 24 8
def sqePrp2 (c : Cmd) : Nat := entF c.sqe 32 8

/-- Bytes that a command moves to or from the host. -/
def hostBytes (c : Cmd) : Nat :=
  match sqeOpc c with
  | 1 | 2 => c.len
  | 9 => 16 * (entF c.sqe 40 1 + 1)
  | _ => 0

/-- How a command's data lies in host pages (R360): the pages known at once, and the entries of a PRP list to read. -/
def prpPages (c : Cmd) : Option (List (Nat × Nat) × Nat) :=
  let len := hostBytes c
  let n0 := min len (4096 - sqePrp1 c % 4096)
  if len = 0 then some ([], 0)
  else if 262144 < len ∨ sqePrp1 c % 4 ≠ 0 then none
  else if len = n0 then some ([(sqePrp1 c, len)], 0)
  else if len ≤ n0 + 4096 then
    if sqePrp2 c % 4096 = 0 then some ([(sqePrp1 c, n0), (sqePrp2 c, len - n0)], 0) else none
  else
    let n := ceilDiv (len - n0) 4096
    if sqePrp2 c % 8 = 0 ∧ sqePrp2 c % 4096 + 8 * n ≤ 4096 then some ([(sqePrp1 c, n0)], n) else none

/-- The fields of an SQE that must be 0 (Table 13-1). -/
def sqeFieldsOk (c : Cmd) : Bool :=
  let b1 := entF c.sqe 1 1
  decide (b1 % 4 = 0) && decide (b1 / 64 = 0) && decide (entF c.sqe 16 8 = 0) && decide (entF c.sqe 52 12 = 0)
    && (decide (sqeOpc c ∉ [1, 2, 8]) || decide (entF c.sqe 48 4 / 65536 % 2 ^ 14 = 0 ∧ entF c.sqe 48 4 / 2 ^ 31 = 0))

/-- Whether a Dataset Management command deallocates (Table 13-2). -/
def dsmActs (c : Cmd) : Bool := (entF c.sqe 44 4).testBit 2 && decide (vdM c.vent = 0)

/-- NVME_CMD_FETCH (R359, R362, Table 13-3): the entry in a context is checked and dispatched by its opcode, or ends with a status. -/
def nvmeDispatch (x : Nat) (d : Dev) : Dev :=
  match cmdOf d x with
  | none => d
  | some c =>
    if c.ph ≠ .fetched then d
    else
      let opc := sqeOpc c
      if opc ∉ [0, 1, 2, 8, 9] then cmdEnd d x 0x01 true
      else if !sqeFieldsOk c then cmdEnd d x 0x02 true
      else match findVd d c.page (entF c.sqe 4 4) with
        | none => cmdEnd d x 0x0B true
        | some v =>
          let ve := vdOf d v
          let c := { c with vd := v, vent := ve, ph := .dispatched, start := sqeSlba c * vdBlock ve, len := sqeNlb c * vdBlock ve,
                            shards := (List.range (vdN ve)).map fun j => sliceD 0 (mget d.bs.shard (vdShard ve + j) []) 0 16 }
          let d := putCmd d x (some c)
          let ro := vdCtl ve 3 1 = 1
          if ro ∧ (opc = 1 ∨ opc = 8 ∨ (opc = 9 ∧ dsmActs c)) then cmdEnd d x 0x20 true
          else if opc ∈ [1, 2, 8] ∧ vdCap ve ≤ sqeSlba c + sqeNlb c - 1 then cmdEnd d x 0x80 true
          else if opc = 8 ∧ 262144 < c.len ∧ (vdN ve ≠ 1 ∨ vdXts ve) then cmdEnd d x 0x02 true
          else match (if opc = 9 && !dsmActs c then some ([], 0) else prpPages c) with
            | none => cmdEnd d x 0x02 true
            | some (pg, _) => putCmd d x (some { c with pages := pg })

/-- Read from the host for a command; `base` tells its reads apart. -/
def cmdRead (d : Dev) (x base iova len : Nat) : Dev :=
  match cmdOf d x with
  | none => d
  | some c =>
    let r := issueRead d c.page iova len (poolRetry d) (fun off => .nvme x (base + off))
    putCmd r.1 x ((cmdOf r.1 x).map fun c => { c with hostOut := c.hostOut + r.2 })

/-- Read the command's data into its staging slot. -/
def stageAll (d : Dev) (x : Nat) : Dev :=
  match cmdOf d x with
  | none => d
  | some c => ((c.pages.foldl (fun (acc : Dev × Nat) p => (cmdRead acc.1 x acc.2 p.1 p.2, acc.2 + p.2)) (setPh d x .stage, 0))).1

/-- Begin a command that has been dispatched with opcode `opc`: the PRP list first, where there is one. -/
def begin_ (opc : Nat) (go : Dev → Dev) (x : Nat) (d : Dev) : Dev :=
  match cmdOf d x with
  | none => d
  | some c =>
    if c.ph ≠ .dispatched ∨ sqeOpc c ≠ opc then d
    else match prpPages c with
      | some (_, n + 1) => cmdRead (setPh d x .list) x (2 ^ 20) (sqePrp2 c) (8 * (n + 1))
      | _ => go d

/-- What Flush and Write Zeroes, passed on, and Dataset Management ask of every shard. -/
def simpleParts (d : Dev) (x : Nat) (ps : Cmd → List Part) : Dev :=
  match cmdOf d x with
  | none => d
  | some c => putCmd d x (some { c with ph := .simple, parts := ps c })

/-- Columns are the shards themselves for a command to every shard. -/
def everyShard (d : Dev) (kind : PartKind) (c : Cmd) : List Part :=
  ((List.range (vdN c.vent)).filter fun j => decide (vdM c.vent = 0) || !missing d c j).map fun j =>
    { mkPart c kind 0 j 0 0 [] with shard := j }

/-- NVME_FLUSH (Table 13-2). -/
def nvmeFlush (x : Nat) (d : Dev) : Dev := begin_ 0 (fun d => simpleParts d x (everyShard d .flush)) x d

/-- NVME_READ (R375). -/
def nvmeRead (x : Nat) (d : Dev) : Dev := begin_ 2 (fun d => setPh d x .read) x d

/-- NVME_WRITE (R372, R376): the data is read into the staging slot in full. -/
def nvmeWrite (x : Nat) (d : Dev) : Dev := begin_ 1 (fun d => stageAll d x) x d

/-- NVME_WRITE_ZEROES (Table 13-2): passed on without XTS and stripes, otherwise a write of zero blocks. -/
def nvmeZeroes (x : Nat) (d : Dev) : Dev :=
  begin_ 8 (fun d => match cmdOf d x with
    | none => d
    | some c =>
      if vdN c.vent = 1 && !vdXts c.vent then
        simpleParts d x fun c => [{ mkPart c .zeroes 0 0 c.start c.len [] with nlb := sqeNlb c }]
      else setPh (stageWr d x 0 (List.replicate c.len 0)) x .crypt) x d

/-- NVME_DATASET_MANAGEMENT (Table 13-2): a Deallocate reads its ranges and passes them on; anything else completes at once. -/
def nvmeDataset (x : Nat) (d : Dev) : Dev :=
  begin_ 9 (fun d => match cmdOf d x with
    | none => d
    | some c => if dsmActs c then stageAll d x else cmdEnd d x 0 false) x d

/-- The ranges of a Dataset Management command on the shards (R373): for each shard its ranges, at most 256 in a command. -/
def dsmParts (c : Cmd) (raw : List Byte) : List Part :=
  let rs := (chunks 16 256 raw).map fun r => (entF r 4 4, entF r 8 8)
  let b := vdBlock c.vent
  let es := rs.flatMap fun r => extents c.vent (r.2 * b) (r.1 * b)
  (List.range (vdN c.vent)).flatMap fun j =>
    let mine := es.filter fun e => shardOf c.vent e.stripe e.col = j
    let ent := mine.map fun e => leBytes 4 0 ++ leBytes 4 (e.len / b) ++ leBytes 8 (targetLba c.vent (entF (c.shards.getD j []) 8 8) e.stripe e.o)
    (chunks 4096 (ent.length + 1) ent.flatten).map fun l => { mkPart c .dataset 0 j 0 0 l with shard := j, nlb := l.length / 16 }

/-- Encrypt the staged units from unit `u` on (R372). -/
def cryptAll (x : Nat) : Nat → Dev → Dev
  | 0, d => d
  | n + 1, d =>
    match cmdOf d x with
    | none => d
    | some c =>
      let b := vdBlock c.vent
      if c.len ≤ c.units * b then setPh d x .locks
      else if !vdXts c.vent then cryptAll x n (putCmd d x (some { c with units := c.len / b }))
      else match xtsTake d true c.vent with
        | (d, .wait) => d
        | (d, .limit) => cmdEnd d x 0x7C1 true
        | (d, .ok key) =>
          let off := c.units * b
          let d := stageWr d x off (xtsUnit true key (c.start / b + c.units) (stageRd d x off b))
          cryptAll x n (putCmd d x (some { c with units := c.units + 1 }))

/-- Stripes of a command, in ascending order. -/
def cmdStripes (c : Cmd) : List Nat := ((extents c.vent c.start c.len).map (·.stripe)).eraseDups

/-- Take the locks of all stripes, one after the other (R376). -/
def locksAll (x : Nat) : Nat → Dev → Dev
  | 0, d => d
  | n + 1, d =>
    match cmdOf d x with
    | none => d
    | some c =>
      if vdN c.vent = 1 then setPh d x .write
      else match c.locks.getLast? with
        | some s =>
          if !lockHeld d c.vd s x then d
          else match (cmdStripes c).find? fun t => s < t with
            | none => setPh d x .gather
            | some t => locksAll x n (lockAsk (putCmd d x (some { c with locks := c.locks ++ [t] })) c.vd t x true)
        | none => match (cmdStripes c).head? with
          | none => setPh d x .gather
          | some t => locksAll x n (lockAsk (putCmd d x (some { c with locks := [t] })) c.vd t x true)

/-- The extents of a stripe and the unit-offset range that they touch in any column. -/
def stripeExts (c : Cmd) (s : Nat) : List Ext := (extents c.vent c.start c.len).filter fun e => e.stripe = s
def stripeLo (es : List Ext) : Nat := es.foldl (fun m e => min m e.o) (2 ^ 40)
def stripeHi (es : List Ext) : Nat := es.foldl (fun m e => max m (e.o + e.len)) 0

/-- The data columns of a stripe over its range with the write's bytes in place; reads what the write does not cover. -/
def stripeCols (d : Dev) (x : Nat) (c : Cmd) (s : Nat) : Dev × Option (List (Option (List Byte))) :=
  let es := stripeExts c s
  let lo := stripeLo es
  let n := stripeHi es - lo
  (List.range (vdK c.vent)).foldl (fun (acc : Dev × Option (List (Option (List Byte)))) col =>
    let mine := es.find? fun e => e.col = col
    let full : Option (List Byte) := match mine with
      | some e => if e.o = lo ∧ e.len = n then some (stageRd acc.1 x e.off n) else none
      | none => none
    let r : Dev × ColR := match full with
      | some bs => (acc.1, .ok bs)
      | none => colGet acc.1 x s col lo n
    let out : Option (List Byte) := match r.2, mine with
      | .ok bs, some e => some (overwrite bs (e.o - lo) (stageRd r.1 x e.off e.len))
      | .ok bs, none => some bs
      | _, _ => none
    (match r.2 with
      | .lost => (r.1, none)
      | _ => (r.1, acc.2.map fun l => l ++ [out]))) (d, some [])

/-- The shard writes of one stripe (R376): data columns and parity columns, those of MISSING shards left out (R377). -/
def stripeWrites (d : Dev) (x : Nat) (c : Cmd) (s : Nat) (cols : List (List Byte)) : List Part :=
  let es := stripeExts c s
  let lo := stripeLo es
  let n := stripeHi es - lo
  let dat := es.map fun e => mkPart c .write s e.col e.o e.len (stageRd d x e.off e.len)
  let par := (List.range (vdM c.vent)).map fun i =>
    mkPart c .write s (vdK c.vent + i) lo n (gfCombine n ((List.range (vdK c.vent)).map (rsCoef i)) cols)
  (dat ++ par).filter fun p => decide (vdM c.vent = 0) || !missing d c p.shard

/-- Steps 2 to 4 of R376: once every stripe's columns are there, its writes are made. -/
def gatherAll (d : Dev) (x : Nat) : Dev :=
  match cmdOf d x with
  | none => d
  | some c =>
    if vdM c.vent = 0 then
      putCmd d x (some { c with ph := .write, parts := (cmdStripes c).flatMap fun s => stripeWrites d x c s [] })
    else
      let r := (cmdStripes c).foldl (fun (acc : Dev × Option (List (Nat × List (Option (List Byte))))) s =>
        match stripeCols acc.1 x ((cmdOf acc.1 x).getD c) s with
        | (d, none) => (d, none)
        | (d, some cols) => (d, acc.2.map fun l => l ++ [(s, cols)])) (d, some [])
      match r.2 with
      | none => cmdEnd r.1 x 0x7C2 false
      | some l =>
        if l.any fun e => e.2.any (·.isNone) then r.1
        else match cmdOf r.1 x with
          | none => r.1
          | some c =>
            let ws := l.flatMap fun e => stripeWrites r.1 x c e.1 (e.2.map fun o => o.getD [])
            putCmd r.1 x (some { c with ph := .write, parts := c.parts ++ ws })

/-- Whether a part has ended. -/
def partOver (p : Part) : Bool := decide (p.st = .done) || decide (p.st = .failed)

/-- Unavailable columns of a stripe: its MISSING shards. -/
def lostCols (d : Dev) (c : Cmd) (s : Nat) : Nat := ((List.range (vdN c.vent)).filter fun col => missing d c (shardOf c.vent s col)).length

/-- The end of a command whose shard commands of a kind have all ended (R377): with M = 0 it ends with the first nonzero status that came
back (Table 13-3). -/
def finishParts (d : Dev) (x : Nat) (c : Cmd) (stripes : List Nat) (read : Bool) : Dev :=
  let mine := c.parts.filter fun p => read || decide (p.kind ≠ .read)
  if !mine.all partOver then d
  else if vdM c.vent = 0 then
    match c.fail with
    | some r => cmdEnd d x r.1 r.2
    | none => cmdEnd d x 0 false
  else if stripes.any fun s => vdM c.vent < lostCols d c s then cmdEnd d x 0x7C2 false
  else cmdEnd d x 0 false

/-- Bytes `off` on of a command's data, by host page. -/
def scatter : List (Nat × Nat) → Nat → List Byte → List (Nat × List Byte)
  | [], _, _ => []
  | (a, n) :: ps, off, bs =>
    if bs.isEmpty then []
    else if n ≤ off then scatter ps (off - n) bs
    else (a + off, bs.take (n - off)) :: scatter ps 0 (bs.drop (n - off))

/-- Write read data to the host (R375); a discarded command's data is not written (R379). -/
def giveHost (d : Dev) (x off : Nat) (bs : List Byte) : Dev :=
  match cmdOf d x with
  | none => d
  | some c =>
    let d := putCmd d x (some { c with given := c.given ++ [off] })
    if c.discard then d
    else (scatter c.pages off bs).foldl (fun d e =>
      let r := issueWrite d c.page e.1 e.2 (poolRetry d) (fun k => .nvme x (2 ^ 21 + off + k))
      putCmd r.1 x ((cmdOf r.1 x).map fun c => { c with hostOut := c.hostOut + r.2 })) d

/-- Decrypt the units of a range in cluster C0 + HOME (R372). -/
def decryptAll (v : List Byte) : Nat → Nat → List Byte → List Byte → Dev → Dev × Option (Option (List Byte))
  | 0, _, _, acc, d => (d, some (some acc))
  | n + 1, lba, bs, acc, d =>
    match xtsTake d false v with
    | (d, .wait) => (d, some none)
    | (d, .limit) => (d, none)
    | (d, .ok key) =>
      let b := vdBlock v
      decryptAll v n (lba + 1) (bs.drop b) (acc ++ xtsUnit false key lba (bs.take b)) d

/-- One extent of a read (R375). -/
def readExt (d : Dev) (x : Nat) (e : Ext) : Dev :=
  match cmdOf d x with
  | none => d
  | some c =>
    if c.ph ≠ .read ∨ e.off ∈ c.given then d
    else match colGet d x e.stripe e.col e.o e.len with
      | (d, .wait) => d
      | (d, .lost) =>
        if vdM c.vent = 0 then
          match (cmdOf d x).bind (·.fail) with
          | some r => cmdEnd d x r.1 r.2
          | none => d
        else cmdEnd d x 0x7C2 false
      | (d, .ok bs) =>
        if !vdXts c.vent then giveHost d x e.off bs
        else match keyOf d (vdSa c.vent) with
          | none => (xtsTake d false c.vent).1
          | some _ =>
            match decryptAll c.vent (e.len / vdBlock c.vent) ((c.start + e.off) / vdBlock c.vent) bs [] d with
            | (d, some (some t)) => giveHost d x e.off t
            | (d, some none) => d
            | (d, none) => cmdEnd d x 0x7C1 true

/-- An extent of a read in its turn: its own shard is asked at once; it goes to the host, and is reconstructed where it must be, after the
extents before it, so that the locks of a read too are taken in ascending stripe order (R376). -/
def readTurn (x : Nat) (es : List Ext) (d : Dev) (e : Ext) : Dev :=
  match cmdOf d x with
  | none => d
  | some c =>
    if c.ph ≠ .read then d
    else if es.all fun y => decide (e.off ≤ y.off) || decide (y.off ∈ c.given) then readExt d x e
    else (colRead d x e.stripe e.col e.o e.len).1

/-- All extents of a read; the command is over once every one has gone to the host. -/
def readAll (d : Dev) (x : Nat) : Dev :=
  match cmdOf d x with
  | none => d
  | some c =>
    let es := extents c.vent c.start c.len
    let d := es.foldl (readTurn x es) d
    match cmdOf d x with
    | none => d
    | some c => if c.ph = .read && es.all (fun e => decide (e.off ∈ c.given)) then cmdEnd d x 0 false else d

/-- A command's next phase, as far as what has arrived allows. -/
def cmdStep (d : Dev) (x : Nat) : Dev :=
  match cmdOf d x with
  | none => d
  | some c =>
    let busy := c.parts.any (fun p => decide (p.st = .sent)) || decide (c.hostOut ≠ 0)
    if c.discard && !busy && (decide (c.ph ≠ .write) || c.parts.all partOver) then putCmd (lockFree d x) x none
    else match c.ph with
    | .stage =>
      if c.hostOut ≠ 0 then d
      else if sqeOpc c = 9 then
        let raw := stageRd d x 0 (hostBytes c)
        if (chunks 16 256 raw).any (fun r => decide (vdCap c.vent < entF r 8 8 + entF r 4 4)) then cmdEnd d x 0x80 true
        else simpleParts d x fun c => dsmParts c raw
      else setPh d x .crypt
    | .list =>
      if c.hostOut ≠ 0 then d
      else
        let n0 := 4096 - sqePrp1 c % 4096
        let es := (chunks 8 64 (dataSoFar c.list 0)).map leNat
        if es.any (fun a => decide (a % 4096 ≠ 0)) then cmdEnd d x 0x02 true
        else
          let pg := (sqePrp1 c, n0) :: es.mapIdx fun i a => (a, min 4096 (hostBytes c - n0 - 4096 * i))
          let d := putCmd d x (some { c with pages := pg })
          if sqeOpc c = 2 then setPh d x .read else stageAll d x
    | .crypt => cryptAll x (c.len / 512 + 2) d
    | .locks => locksAll x ((cmdStripes c).length + 2) d
    | .gather => gatherAll d x
    | .read => readAll d x
    | .simple => finishParts d x c (if vdM c.vent = 0 then [] else [0]) true
    | .write =>
      if vdN c.vent = 1 && c.parts.isEmpty then
        putCmd d x (some { c with parts := [mkPart c .write 0 0 c.start c.len (stageRd d x 0 c.len)] })
      else finishParts d x c (cmdStripes c) false
    | .ended =>
      if c.parts.all partOver && !c.locks.isEmpty then putCmd (lockFree d x) x (some { c with locks := [] }) else d
    | _ => d

/-- Go on with a command until it waits. -/
def cmdRun (x : Nat) : Nat → Dev → Dev
  | 0, d => d
  | n + 1, d =>
    let d' := partsSend (cmdStep d x) x
    if cmdOf d' x = cmdOf d x then d' else cmdRun x n d'

/-- Go on with every command. -/
def runAll (d : Dev) : Dev := (mkeys d.bs.cmds).foldl (fun d x => cmdRun x 12 d) d

/-- A request to host memory of a command has ended: write data, a PRP list, or a write of read data (R361, Table 13-3). -/
def nvmeHost (d : Dev) (x off : Nat) (write : Bool) (r : Option (List Byte)) : Dev :=
  match cmdOf d x with
  | none => d
  | some c =>
    let d := putCmd d x (some { c with hostOut := c.hostOut - 1 })
    match r with
    | none =>
      let d := cmdEnd d x 0x04 false
      if c.status = none then d
      else putCmd d x ((cmdOf d x).map fun y => { y with status := match c.status with
        | some (0, _) => some (0x04, false)
        | s => s })
    | some bs =>
      if write then d
      else if 2 ^ 20 ≤ off then putCmd d x ((cmdOf d x).map fun c => { c with list := mput c.list (off - 2 ^ 20) bs [] })
      else stageWr d x off bs

/-- CQE_WRITE (R361): the completion entry of a command that is over, once every host write is done; H of its queue passes the
entries whose completions have been written. -/
def cqeWrite (x : Nat) (d : Dev) : Dev :=
  match cmdOf d x with
  | none => d
  | some c =>
    if c.ph ≠ .ended ∨ c.discard ∨ c.hostOut ≠ 0 ∨ !c.parts.all partOver then d
    else
      let st := c.status.getD (0, false)
      let d := lockFree d x
      let d := updJob d 0 c.queue c.idx fun j => { j with st := .done }
      let q := queueOf d 0 c.queue
      let done := q.jobs.takeWhile fun j => j.st = .done
      let q := { q with jobs := q.jobs.dropWhile fun j => j.st = .done,
                         passing := q.passing ++ done.map fun j => (j.idx + 1) % 2 ^ 32 }
      let d := putQueue d 0 c.queue q
      let dw3 := st.1 % 256 * 2 + st.1 / 256 % 8 * 512 + (if st.2 then 32768 else 0)
      let raw := leBytes 8 0 ++ leBytes 2 (headDue q) ++ leBytes 2 (c.queue - (kindRange d c.page 0).1) ++ leBytes 2 (entF c.sqe 2 2) ++ leBytes 2 dw3
      let d := cqPush d (qCq q) ⟨0, 0, 0, 0, 0, 0, raw, some (0, c.queue, (c.idx + 1) % 2 ^ 32)⟩
      putCmd d x none

/-- A vport's NVMe commands are discarded (R379): no CQE, no further data to the host; what was sent to targets runs to its end. -/
def nvmeDiscard (d : Dev) (p : Nat) : Dev :=
  (mkeys d.bs.cmds).foldl (fun d x => match cmdOf d x with
    | some c =>
      if c.page = p && !c.discard then
        let ps := c.parts.map fun (q : Part) => if q.st = .waiting then { q with st := .failed } else q
        cmdRun x 12 (putCmd d x (some { c with discard := true, hostOut := 0, parts := ps }))
      else d
    | none => d) d

/-! ### Connections -/

/-- Shard entries of vdisks with M > 0 that name a connection. -/
def connShards (d : Dev) (cn : Nat) : List Nat :=
  (d.bs.vd.flatMap fun e => if vdValid e.2 && decide (0 < vdM e.2) then
    ((List.range (vdN e.2)).map fun j => vdShard e.2 + j).filter fun i => entF (mget d.bs.shard i []) 0 2 = cn else []).eraseDups

/-- R369: a connection fails or is reset. Its commands end, its shards on vdisks with M > 0 are MISSING. -/
def connDown (d : Dev) (cn : Nat) (st : ConnSt) (cause : Nat) : Dev :=
  let k := connOf d cn
  let d := raise (bsCount d 1) 17
  let d := putConn d cn { Conn.reset with st := st, cause := if cause = 0 then k.cause else cause }
  let d := k.cmds.foldl (fun d e => match e.2 with
    | some (x, i) => partFail d x i (if cause = 8 then 0x7C0 else 0x22) false
    | none => d) d
  (connShards d cn).foldl markShard d

/-- A connection fails with a cause (Table 13-14). -/
def connFail (d : Dev) (cn cause : Nat) : Dev := connDown d cn .failed cause

/-- A protocol violation (R367): H2CTermReq, then PROTO. -/
def connProto (d : Dev) (cn : Nat) (pdu : List Byte) : Dev :=
  connFail (sendTerm d cn (Config.termFes (pdu.getD 0 0).toNat) pdu) cn 7

/-- CONN_RESET and IO_TIMEOUT send RST; a FAILED connection has no stream left to reset (DEDUCED, log entry 300). -/
def connRst (d : Dev) (cn : Nat) : Dev :=
  let k := connOf d cn
  if k.st = .failed then d else tcpSend d cn k k.nxt (if k.ph = .syn then 4 else 20) []

/-- A command at the target has ended. -/
def partDone (d : Dev) (cn id x i st : Nat) (dnr : Bool) : Dev :=
  let k := connOf d cn
  let d := putConn d cn { k with cmds := mput k.cmds id none none }
  match (cmdOf d x).bind fun c => c.parts[i]? with
  | none => d
  | some p =>
    let st := if p.status ≠ 0 then p.status else st
    if st ≠ 0 ∨ (p.kind = .read ∧ (dataSoFar p.got 0).length < p.len) then partFail d x i (if st = 0 then 0x22 else st) dnr
    else updPart d x i fun p => { p with st := .done }

/-- H2CData for a range that an R2T asks for, in PDUs of at most MAXH2C bytes (Table 13-6). -/
def sendH2c (cn id ttag : Nat) (h2c : Nat) : Nat → Nat → List Byte → Dev → Dev
  | 0, _, _, d => d
  | n + 1, off, bs, d =>
    if bs.isEmpty then d
    else
      let now := bs.take h2c
      let rest := bs.drop h2c
      let d := sendPdu d cn 6 (if rest.isEmpty then 4 else 0) (leBytes 2 id ++ leBytes 2 ttag ++ leBytes 4 off ++ leBytes 4 now.length ++ leBytes 4 0) now
      sendH2c cn id ttag h2c n (off + now.length) rest d

/-- What an outstanding command identifier stands for: Connect, or a part. -/
def cidOf (k : Conn) (id : Nat) : Option (Option (Nat × Nat)) :=
  if k.ph = .connect then (if id = 0 then some none else none) else (mget k.cmds id none).map some

/-- A received PDU of an I/O connection, or of one that still initialises (Table 13-6). -/
def pduAct (d : Dev) (cn : Nat) (pdu : List Byte) : Dev :=
  let k := connOf d cn
  let f (off n : Nat) : Nat := entF pdu off n
  let ty := f 0 1
  let flags := f 1 1
  let hlen := f 2 1
  let hd := ceBit d cn 2
  let dd := ceBit d cn 3
  let want : Nat := match ty with | 1 => 128 | 5 => 24 | 7 => 24 | 9 => 24 | _ => hlen
  if ty = 3 then connFail d cn 6
  else if k.ph = .icResp then
    if ty ≠ 1 ∨ f 4 4 ≠ 128 then connProto d cn pdu
    else if f 8 2 = 0 ∧ f 10 1 = 0 ∧ f 11 1 % 4 = b2n hd + 2 * b2n dd ∧ 4096 ≤ f 12 4 then
      let k := { k with h2c := f 12 4 }
      if ceBit d cn 0 then putConn d cn { k with ph := .ready, st := .opened }
      else sendPdu (putConn d cn { k with ph := .connect }) cn 4 0 (connectSqe d cn) []
    else connFail d cn 3
  else if ty ∉ [5, 7, 9] ∨ hlen ≠ want ∨ flags % 2 ≠ b2n hd ∨ (ty ≠ 7 ∧ f 4 4 ≠ 24 + 4 * b2n hd) then connProto d cn pdu
  else if hd ∧ f hlen 4 ≠ crc32c (pdu.take hlen) then connFail (sendTerm d cn 2 pdu) cn 5
  else if ty = 5 then
    let st := f 22 2
    match cidOf k (f 20 2) with
    | none => connProto d cn pdu
    | some none => if st / 2 % 2048 = 0 then putConn d cn { k with ph := .ready, st := .opened } else connFail d cn 4
    | some (some (x, i)) => partDone d cn (f 20 2) x i (st / 2 % 2048) (st.testBit 15)
  else if ty = 9 then
    let off := f 12 4
    let n := f 16 4
    let data : Option (List Byte) := match cidOf k (f 8 2) with
      | none => none
      | some none => some (memRdN d.hank (ceF d cn 0x3C 4 % 2 ^ 26) 1024)
      | some (some (x, i)) => match (cmdOf d x).bind fun c => c.parts[i]? with
        | some p => if p.kind = .write ∨ p.kind = .dataset then some p.data else none
        | none => none
    match data with
    | none => connProto d cn pdu
    | some bs => if n = 0 ∨ bs.length < off + n then connProto d cn pdu
      else sendH2c cn (f 8 2) (f 10 2) k.h2c (n / 4096 + 1) off ((bs.drop off).take n) d
  else
    let off := f 12 4
    let n := f 16 4
    let pdo := f 3 1
    match cidOf k (f 8 2) with
    | some (some (x, i)) => match (cmdOf d x).bind fun c => c.parts[i]? with
      | some p =>
        if p.kind ≠ .read ∨ p.len < off + n ∨ f 4 4 ≠ pdo + n + (if flags.testBit 1 then 4 else 0) ∨ pdo < hlen + 4 * b2n hd
            ∨ flags.testBit 1 ≠ dd then connProto d cn pdu
        else
          let data := (pdu.drop pdo).take n
          let bad := dd && decide (f (pdo + n) 4 ≠ crc32c data)
          let d := if bad then bsCount d 2 else d
          let d := updPart d x i fun p => { p with got := mput p.got off data [], status := if bad then 0x22 else p.status }
          if flags.testBit 2 && flags.testBit 3 then partDone d cn (f 8 2) x i 0 false else d
      | none => connProto d cn pdu
    | _ => connProto d cn pdu

/-- Deliver a whole PDU of an admin connection (R371): a frame buffer and an entry of the RX ring; without either it waits. -/
def adminRx (d : Dev) (cn : Nat) (pdu : List Byte) : Option Dev :=
  let w := cfg d .bsAdmRxCfg 0 0
  let prod := (cur d .bsAdmRxProd 0 0).toNat
  if !ringRoom w prod (cur d .bsAdmRxCons 0 0).toNat then none
  else match takeBuf d with
    | (_, none) => none
    | (d, some n) =>
      let d := bufWrite d n pdu
      let d := { d with hank := memWrN d.hank (ringAddr w 16 prod) (leBytes 2 cn ++ leBytes 2 pdu.length ++ leBytes 4 0 ++ leBytes 8 (bufHandle d n)) }
      let d := setCur d .bsAdmRxProd 0 0 (BitVec.ofNat 32 (prod + 1))
      some (rcvSet d (cfgF d .bsAdmSig 0 0 0 8) (2 ^ cfgF d .bsAdmSig 0 0 8 5))

/-- Take the whole PDUs from a connection's stream; one of an impossible length breaks the transport's rules (DESIGN CHOICE, log entry 302). -/
def pduIn (cn : Nat) : Nat → Dev → Dev
  | 0, d => d
  | fuel + 1, d =>
    let k := connOf d cn
    if k.inb.length < 8 ∨ (k.st ≠ .connecting ∧ k.st ≠ .opened ∧ k.st ≠ .closing) then d
    else
      let plen := entF k.inb 4 4
      let admin := ceBit d cn 0 && decide (k.ph = .ready)
      let hlen := entF k.inb 2 1
      if plen < 8 ∨ plen < hlen ∨ (admin ∧ 4160 < plen) then connProto d cn (k.inb.take 24)
      else if k.inb.length < plen then d
      else
        let pdu := k.inb.take plen
        let took := fun d : Dev => putConn d cn { connOf d cn with inb := k.inb.drop plen }
        if admin then
          if ceBit d cn 2 && decide (entF pdu hlen 4 ≠ crc32c (pdu.take hlen)) then connFail (sendTerm d cn 2 pdu) cn 5
          else match adminRx d cn pdu with
            | none => d
            | some d => pduIn cn fuel (took d)
        else pduIn cn fuel (pduAct (took d) cn pdu)

/-- CLOSE goes on (R368): FIN once no command is outstanding, CLOSED once both sides have closed. -/
def closeStep (d : Dev) (cn : Nat) : Dev :=
  let k := connOf d cn
  if k.st ≠ .closing then d
  else if !k.finDue && k.cmds.isEmpty then tcpPump cn (k.outq.length + 2) (putConn d cn { k with finDue := true })
  else if k.finSent && k.segs.isEmpty && k.peerFin then putConn d cn { Conn.reset with cause := k.cause }
  else d

/-- TCP_SEGMENT_RECEIVE (R365): the oldest frame that a BLOCK verdict delivered to the connection, once it is whole. -/
def segReceive (cn : Nat) (d : Dev) : Dev :=
  match d.bs.inq.find? fun e => e.1 = cn with
  | none => d
  | some e => match frameOf d e.2 with
    | none => { d with bs := { d.bs with inq := d.bs.inq.erase e } }
    | some f =>
      if !f.whole then d
      else
        let d := { d with bs := { d.bs with inq := d.bs.inq.erase e } }
        let d := reapFrame (putFrame d e.2 (some { f with released := true })) e.2
        let st := (connOf d cn).st
        if f.bad ∨ st = .closed ∨ st = .failed then d
        else match segIn d cn (f.bytes.take (f.bytes.length - 4)) with
          | .mismatch => bsCount d 0
          | .bad => d
          | .ok s => match tcpIn d cn s with
            | (d, .reset) => runAll (connFail d cn 2)
            | (d, .opened) => sendIcReq d cn
            | (d, .none) => runAll (closeStep (pduIn cn ((connOf d cn).inb.length / 8 + 1) d) cn)

/-- TCP_RETRANSMIT_TIMEOUT (R366). -/
def retransmit (cn : Nat) (d : Dev) : Dev :=
  match tcpTimeout d cn with
  | (d, true) => runAll (connFail d cn 1)
  | (d, false) => d

/-- IO_TIMEOUT in ticks (R378). -/
def ioTimeout (d : Dev) : Nat := 31250 * orIf0 (cfgF d .bsIoTimeout 0 0 0 16) 1

/-- IO_TIMEOUT (R378): a shard command of the connection has had no response for IO_TIMEOUT; the connection is reset with that cause. -/
def ioExpire (cn : Nat) (d : Dev) : Dev :=
  let late := (connOf d cn).cmds.any fun e => match e.2 with
    | some (x, i) => match (cmdOf d x).bind fun c => c.parts[i]? with
      | some p => decide (p.sentAt + ioTimeout d ≤ d.tick)
      | none => false
    | none => false
  if late then runAll (connFail (connRst d cn) cn 8) else d

/-! ### Admin TX ring and BS_CMD -/

/-- Send the posted entries of the admin TX ring (R371). -/
def admTx : Nat → Dev → Dev
  | 0, d => d
  | fuel + 1, d =>
    let w := cfg d .bsAdmTxCfg 0 0
    let cons := (cur d .bsAdmTxCons 0 0).toNat
    if !ringEn w ∨ cons = (cur d .bsAdmTxProd 0 0).toNat then d
    else
      let e := memRdN d.hank (ringAddr w 16 cons) 16
      let cn := entF e 0 2
      let d := setCur d .bsAdmTxCons 0 0 (BitVec.ofNat 32 (cons + 1))
      let buf := handleBuf d (entF e 8 8)
      let d := if !ceBit d cn 0 ∨ (connOf d cn).st ≠ .opened then bsCount d 3
        else match buf with
          | some n => tcpWrite d cn (bufBytes d n (min 4160 (entF e 2 2)))
          | none => d
      admTx fuel (match buf with | some n => giveBuf d n | none => d)

/-- ADMIN_TX_POST (R371): firmware advances the producer and every posted PDU is sent. -/
def admPost (v : Word) (d : Dev) : Dev := admTx 65536 (setBoth d .bsAdmTxProd 0 0 v)

/-- A write of BS_CMD (Table 13-9). -/
def bsStart (op table index : Nat) (d : Dev) : Dev :=
  if bit (cur d .bsCmd 0 0) 31 then flag d .bsCmd 0 0 30 true
  else
    let w := setFld (setFld (setFld (cur d .bsCmd 0 0) 24 3 op) 22 2 table) 0 16 index
    if op = 0 then setCur d .bsCmd 0 0 w
    else { setCur d .bsCmd 0 0 (setBit w 31 true) with bs := { d.bs with op := some (op, table, index) } }

/-- Bytes that BS_DATA holds. -/
def bsData (d : Dev) (n : Nat) : List Byte := (List.range (n / 4)).flatMap fun w => leBytes 4 (cur d .bsData w 0).toNat

/-- The checks of a vdisk WRITE (R363; DEDUCED, log entry 301). -/
def vdWriteStatus (d : Dev) (v : Nat) (e : List Byte) : Nat :=
  if !vdValid e then 0
  else
    let zero (lo hi : Nat) : Bool := (sliceD 0 e lo (hi - lo)).all (· = 0)
    let bad := decide (vdCtl e 9 7 ≠ 0) || decide (entF e 6 1 / 8 ≠ 0) || !zero 7 8
      || decide (entF e 8 8 / 2 ^ 48 ≠ 0) || decide (entF e 0x10 4 / 2 ^ 20 ≠ 0) || decide (entF e 0x14 4 / 65536 ≠ 0) || !zero 0x18 0x40
      || decide (vdK e = 0) || decide (20 < vdK e) || decide (4 < vdM e) || decide (20 < vdN e) || decide (vdUnit e < vdBlock e ∧ 1 < vdN e)
      || decide (65536 < vdShard e + vdN e) || decide (vdCtl e 24 8 = 0) || decide (16 < vdCtl e 24 8)
      || (if vdXts e then decide (saMode d (vdSa e) ≠ 4) || decide (saPort d (vdSa e) ≠ vdHome e) else decide (vdSa e ≠ 0))
    if bad then 1
    else if d.bs.vd.any fun x => x.1 ≠ v && vdValid x.2 && decide (vdCtl x.2 6 3 = vdCtl e 6 3 ∧ vdCtl x.2 16 8 = vdCtl e 16 8
        ∧ vdCtl x.2 24 8 = vdCtl e 24 8) then 3
    else if vdValid (vdOf d v) ∨ vdBusy d v ≠ 0 then 2
    else 0

/-- The checks of a connection WRITE: reserved fields and the ranges of Table 13-5. -/
def connWriteOk (e : List Byte) : Bool :=
  decide (entF e 0 4 / 65536 = 0) && decide (536 ≤ entF e 6 2 ∧ entF e 6 2 ≤ 8960) && decide (1 ≤ entF e 0x3A 2 ∧ entF e 0x3A 2 ≤ 1024)
    && decide (entF e 0x3C 4 < 2 ^ 26 ∧ entF e 0x3C 4 % 64 = 0) && (sliceD 0 e 0x44 60).all (· = 0)

/-- The command of BS_CMD that waits, performed at the boundary (R363, R364, R368): its status. -/
def bsPerform (d : Dev) : Dev :=
  match d.bs.op with
  | none => d
  | some (op, table, i) =>
    let d := { d with bs := { d.bs with op := none } }
    let fin (d : Dev) (st : Nat) : Dev := setCur d .bsCmd 0 0 (setBit (setFld (cur d .bsCmd 0 0) 27 3 st) 31 false)
    let show_ (d : Dev) (e : List Byte) (n : Nat) : Dev :=
      fin ((List.range (n / 4)).foldl (fun d w => setCur d .bsData w 0 (BitVec.ofNat 32 (leNat (sliceD 0 e (4 * w) 4)))) d) 0
    if 5 < op then fin d 0
    else if table = 3 ∨ (table = 0 ∧ 16383 < i) then fin d 1
    else match op, table with
      | 1, 0 => show_ d (vdOf d i) 64
      | 1, 1 => show_ d (mget d.bs.shard i []) 16
      | 1, _ => show_ d (overwrite (sliceD 0 (mget d.bs.centry i []) 0 128) 0x40 (leBytes 4 (connOf d i).h2c)) 128
      | 2, 0 =>
        let e := bsData d 64
        let st := vdWriteStatus d i e
        if st ≠ 0 then fin d st
        else fin { d with bs := { d.bs with vd := mput d.bs.vd i (if e.all (· = 0) then [] else e) [] } } 0
      | 2, 1 =>
        let e := bsData d 16
        if entF e 0 4 / 2 ^ 17 ≠ 0 then fin d 1
        else fin { d with bs := { d.bs with shard := mput d.bs.shard i (if e.all (· = 0) then [] else e) [] } } 0
      | 2, _ =>
        let e := overwrite (bsData d 128) 0x40 [0, 0, 0, 0]
        let st := (connOf d i).st
        if st ≠ .closed ∧ st ≠ .failed then fin d 2
        else if !connWriteOk e then fin d 1
        else fin { d with bs := { d.bs with centry := mput d.bs.centry i e [] } } 0
      | _, 0 => fin d 1
      | _, 1 => fin d 1
      | 3, _ =>
        let k := connOf d i
        if k.st = .closed ∨ k.st = .failed then
          let d := tcpOpen d i
          fin (putConn d i { connOf d i with cause := k.cause }) 0
        else fin d 2
      | 4, _ =>
        let k := connOf d i
        if k.st = .opened then fin (closeStep (putConn d i { k with st := .closing }) i) 0 else fin d 2
      | _, _ =>
        if (connOf d i).st = .closed then fin d 2
        else fin (runAll (connDown (connRst d i) i .closed 0)) 0

/-- BS_LOCKED_READ (R377, Table 13-15): the word read; the oldest record that a reset left is removed, its stripe number latched. -/
def lockedRead (d : Dev) : Dev × Word :=
  match d.bs.kept with
  | [] => (setCur (setCur d .bsLockedLo 0 0 0) .bsLockedHi 0 0 0, 0)
  | (v, s) :: rest =>
    let d := { d with bs := { d.bs with kept := rest } }
    let d := setCur (setCur d .bsLockedLo 0 0 (BitVec.ofNat 32 s)) .bsLockedHi 0 0 (BitVec.ofNat 32 (s / 2 ^ 32))
    (d, setFld (setBit 0 31 true) 0 16 v)

/-- The stripe locks that writes hold, which a device reset other than power-on keeps as records (R377). -/
def heldLocks_ (d : Dev) : List (Nat × Nat) := d.bs.locks.filterMap fun e => match e.2.2.head? with
  | some (_, true) => some (e.1, e.2.1)
  | _ => none

/-- BS_CONN_STATUS of a connection (Table 13-14). -/
def connStatus (d : Dev) (cn : Nat) : Word :=
  let k := connOf d cn
  let st := match k.st with | .closed => 0 | .connecting => 1 | .opened => 2 | .closing => 3 | .failed => 4
  setFld (setFld (setFld 0 16 11 k.cmds.length) 8 4 k.cause) 0 3 st

/-- Read ahead of the NVMe send queues of a vport (R358, R359): entries of 64 bytes, at most 8 ahead. -/
def nvmeFetch (p q : Nat) : Nat → Dev → Dev
  | 0, d => d
  | fuel + 1, d =>
    let x := queueOf d 0 q
    if 8 ≤ (x.jobs.filter jobAhead).length ∨ idxSub x.host x.fetch = 0 ∨ qSize x < idxSub x.host x.fetch then d
    else
      let f := x.fetch
      let d := putQueue d 0 q { x with fetch := (f + 1) % 2 ^ 32, jobs := x.jobs ++ [Job.start f] }
      nvmeFetch p q fuel (issueRead d p ((x.w0.toNat + 64 * (f % qSize x)) % 2 ^ 64) 64 (poolRetry d) (fun _ => .entry false q f 0)).1

/-- An SQE has been read: the length that the scheduler charges for it (R359). -/
def nvmeEntry (d : Dev) (p q idx : Nat) (sqe : List Byte) : Dev :=
  let opc := entF sqe 0 1
  let b := match findVd d p (entF sqe 4 4) with | some v => vdBlock (vdOf d v) | none => 512
  let len := if opc = 1 ∨ opc = 2 then (entF sqe 48 2 + 1) * b else 64
  updJob d 0 q idx fun j => { j with st := .ready, waits := 0, raw := [(0, sqe)], len := len, units := 1 }

/-- The NVMe send queues of every ACTIVE vport read ahead. -/
def nvmeFetchAll (d : Dev) : Dev :=
  (mkeys d.hp.vports).foldl (fun d p =>
    if (vportOf d p).st = .active && !(vportOf d p).resetBusy then
      (vportQueues d p).foldl (fun d kq =>
        let x := queueOf d kq.1 kq.2
        if decide (kq.1 = 0) && decide (x.st = .active) && qNvme x then nvmeFetch p kq.2 8 d else d) d
    else d) d

/-- The block service at a boundary: commands of BS_CMD, posted admin PDUs, timers, admin PDUs that waited for room, commands. -/
def blockBoundary (d : Dev) : Dev :=
  if !awake d 41 then bsPerform d else
  let d := nvmeFetchAll (admTx 65536 (bsPerform d))
  let d := (mkeys d.bs.conns).foldl (fun d cn =>
    closeStep (pduIn cn ((connOf d cn).inb.length / 8 + 1) (ioExpire cn (retransmit cn d))) cn) d
  runAll d

end Sys2Proof.Machine
end

