-- ==== Sys2Proof/Machine/Clock.lean ====
section
/-! DEFINITION. The time counter (R446 to R450): its advance, its value between boundaries, timestamps. -/

namespace Sys2Proof.Machine

/-- A number of fraction units (2^-32 ns) as a signed change of the time; the nanoseconds carry into the seconds at 10^9 (R446). -/
def timeAdd (t : Time) (u : Int) : Time :=
  let s : Int := 1000000000 * 2 ^ 32
  let x : Int := (t.ns * 2 ^ 32 + t.frac : Nat) + u
  let r := (x % s).toNat
  ⟨intMod 48 ((t.sec : Int) + x / s), r / 2 ^ 32, r % 2 ^ 32⟩

/-- ADJ as it acts: at most ±4,294,967 (R447). -/
def timeAdj (d : Dev) : Int :=
  let a := sextInt 32 (cfg d .tmAdj 0 0).toNat
  max (-4294967) (min 4294967 a)

/-- Fraction units of one tick (R446): 32 ns plus 32 × ADJ. -/
def tickUnits (d : Dev) : Int := 32 * 2 ^ 32 + 32 * timeAdj d

/-- The time `ps` picoseconds after the last boundary, interpolated linearly (R446). -/
def timeAt (d : Dev) (ps : Int) : Time := timeAdd d.tm.now (tickUnits d * ps / 32000)

/-- A port's adjustment in picoseconds. -/
def portAdj (v : Nat) : Int := let a := sextInt 16 v; if a = 0 then 0 else Config.portAdjust a

/-- Index of a port in TM_PORT_ADJ and TM_TXTS: 16 is CP. -/
def tmPort (p : Nat) : Nat := if p = 24 then 16 else p

/-- Receive timestamp of a frame whose first bit crosses the balls of an input `ps` after the last boundary (R449). -/
def rxTime (d : Dev) (i ps : Nat) : Time := timeAt d ((ps : Int) + portAdj (cfgF d .tmPortAdj (tmPort i) 0 16 16))

/-- Transmit timestamp (R450). -/
def txTime (d : Dev) (p ps : Nat) : Time := timeAt d ((ps : Int) + portAdj (cfgF d .tmPortAdj (tmPort p) 0 0 16))

/-- A time as a count of fraction units. -/
def timeUnits (t : Time) : Int := ((t.sec * 1000000000 + t.ns) * 2 ^ 32 + t.frac : Nat)

end Sys2Proof.Machine
end

