-- ==== Sys2Proof/Machine/Reels.lean ====
section
/-! DEFINITION. Reels (R65 to R69), the dispatcher (R43 to R46), the ordering unit (R47 to R51), stage overrun (R53, R57) and droop
skipping (R35). -/

namespace Sys2Proof.Machine

/-- Clock cycles of a tick at a rung, and the least distance between skipped cycles, 0 where none may be skipped (Table 2-2). -/
def rungCycles : Nat → Nat × Nat
  | 0 => (64, 8)
  | 1 => (60, 16)
  | _ => (56, 0)

/-- DROOP_SKIP (R33, R35): a cycle of the tick is skipped within the rung's limit: no cycle twice, and at most one in any 8 (16)
consecutive cycles. A skipped cycle issues nothing. -/
def droopSkip (c : Nat) (d : Dev) : Dev :=
  let (n, gap) := rungCycles d.rung
  let dist := match d.rl.skips with
    | last :: _ => if last < c then c - last else 0
    | [] => d.rl.sinceSkip + c
  if gap = 0 ∨ n ≤ c ∨ dist < gap then d else { d with rl := { d.rl with skips := c :: d.rl.skips } }

/-- The skips of a tick end with it; cycles since the last skip go on counting (R35). -/
def skipsEnd (d : Dev) : Dev :=
  let n := (rungCycles d.rung).1
  let s := match d.rl.skips with
    | last :: _ => n - last
    | [] => min 64 (d.rl.sinceSkip + n)
  { d with rl := { d.rl with skips := [], sinceSkip := s } }

/-! ### Reel states -/

/-- Take a thread out of service (R66, R67, R69): its skein ends with REEL_LOST (0x06), its locks are released poisoned and its
requests withdrawn (R143), its pending lines are cleared and their entries return to their queues (R155). Its state is cleared, HALT
with it; that it was halted in the tick that ends still counts for R150. -/
def stopThread (d : Dev) (k : Nat) : Dev :=
  let t := thrOf d k
  let d := if isService d k then (if t.run = .off then d else releaseLocks d k true)
    else if holdsSkein t then endSkein d k (.devDrop 0x06) true else d
  let d := (List.range 64).foldl (fun d l => dropPend d k l) d
  let d := if bit (cur d .rlDbgCtl (k / 64) (k % 64)) 0 then flag d .rlDbgCtl (k / 64) (k % 64) 0 false else d
  putThr d k { Thread.reset with dbg := { Thread.reset.dbg with seen := t.dbg.halted || t.dbg.seen } }

/-- Take all threads of a reel out of service. -/
def stopReel (d : Dev) (r : Nat) : Dev := (reelThreads r).foldl stopThread d

/-- Clear the bindings and group membership that the image of a reel set. -/
def clearBinds (d : Dev) (r : Nat) : Dev :=
  let lo := addr .rlEvtCfg r 0
  let hi := addr .rlReelCtl (r + 1) 0
  { d with regs := { d.regs with cur := mdelRange d.regs.cur lo hi, act := mdelRange d.regs.act lo hi } }

/-- Reel reset at a boundary (R66, R39, R74): every skein ends, locks are released poisoned, every thread's state and local memory
are cleared, the reel is OFF and holds no image. -/
def resetReel (d : Dev) (r : Nat) : Dev :=
  let d := clearBinds (stopReel d r) r
  let d := setCur d .rlOverrunCnt r 0 0
  putReel d r { Reel.reset with rmem := (reelOf d r).rmem }

/-- Start the threads of a reel that enters service: packet threads join the free pool, service threads are ready (R32, R40). -/
def startThreads (d : Dev) (r : Nat) : Dev :=
  (reelThreads r).foldl (fun d k =>
    let t := thrOf d k
    putThr d k { t with run := if isService d k then .ready else .free }) d

/-- The spare reel that a substitution claims: the lowest-numbered one in SPARE that no earlier substitution has claimed (R67,
R68). -/
def unclaimedSpare (d : Dev) : Option Nat :=
  (List.range 33).find? fun r => decide ((reelOf d r).st = .spare) && !(reelOf d r).claimed

/-- Retire a reel to FAILED (R67, R68): its skeins end with REEL_LOST; an ADMITTED reel's place is taken by a claimed spare, or
REEL_NO_SPARE (class 3) is raised; REEL_RETIRED (class 2) is raised. A claimed spare that itself fails before it is admitted loses its
claim, and no other spare takes its place: R68 lets only an ADMITTED reel that fails take one (DESIGN CHOICE, log entry 274). -/
def failReel (d : Dev) (r : Nat) : Dev :=
  let was := (reelOf d r).st
  let d := stopReel d r
  let x := reelOf d r
  let d := raise (putReel d r { x with st := .failed, pend := .none, claimed := false }) 2
  if was = .admitted then
    match unclaimedSpare d with
    | some q => putReel d q { reelOf d q with claimed := true }
    | none => raise d 3
  else d

/-- A reel change asked for while another waits for the same boundary (DESIGN CHOICE, log entry 16): a fault is never lost, and
a RESET leaves the reel OFF whatever else was commanded. -/
def ReelPend.join : ReelPend → ReelPend → ReelPend
  | x, .none => x
  | .none, y => y
  | .failReset, _ | _, .failReset => .failReset
  | .fail, .reset | .reset, .fail => .failReset
  | .fail, _ | _, .fail => .fail
  | .reset, _ | _, .reset => .reset
  | .activate, .activate => .activate

/-- Ask for a change of a reel at the next tick boundary. -/
def askReel (d : Dev) (r : Nat) (p : ReelPend) : Dev := putReel d r { reelOf d r with pend := (reelOf d r).pend.join p }

/-- A reel change that takes effect at the boundary (R66, R67). -/
def applyReelPend (d : Dev) (r : Nat) : Dev :=
  let x := reelOf d r
  match x.pend with
  | .none => d
  | .activate =>
    if x.st = .spare then startThreads (putReel d r { x with st := .admitted, pend := .none, claimed := false }) r
    else putReel d r { x with pend := .none }
  | .reset => resetReel d r
  | .fail => if x.st = .off ∨ x.st = .failed then putReel d r { x with pend := .none } else failReel d r
  | .failReset => resetReel (if x.st = .off ∨ x.st = .failed then d else failReel d r) r

/-- A packet thread that has not ended its stage when the tick ends has overrun (R53): its skein ends with STAGE_OVERRUN (0x03), the
reel's counter rises, and STAGE_OVERRUN (class 0) is raised. More than OVR_LIMIT overruns within 1,048,576 ticks retire the reel
as failed while AUTO_RETIRE is 1 (R57). -/
def overrun (k : Nat) (d : Dev) : Dev :=
  let t := thrOf d k
  let r := k / 64
  if isService d k || !threadReady t || !holdsSkein t then d
  else
    let d := raise (count (endSkein d k (.devDrop 0x03) true) .rlOverrunCnt r 0) 0
    let x := reelOf d r
    let ov := d.tick :: x.overruns.filter (fun o => decide (d.tick < o + 1048576))
    let lim := cfgF d .rlReelCtl r 0 16 8
    let retire := cfgB d .rlReelCtl r 0 8 && decide (lim ≠ 0) && decide (lim < ov.length)
    let d := putReel d r { x with overruns := ov }
    if retire then askReel d r .fail else d

/-- Whether a reel still holds a skein that has not ended. -/
def reelBusy (d : Dev) (r : Nat) : Bool :=
  (reelThreads r).any fun k => !isService d k && holdsSkein (thrOf d k)

/-- REEL_RETIRED_AFTER_DRAIN (R66, R69): a DRAINING reel whose last skein has ended becomes RETIRED, and its service threads stop as
at reel reset. -/
def retireDrained (r : Nat) (d : Dev) : Dev :=
  if (reelOf d r).st = .draining && !reelBusy d r then
    let d := stopReel d r
    putReel d r { reelOf d r with st := .retired }
  else d

/-- A write of CMD (R66, Table 2-15): a command not allowed in the reel's state sets CMD_ERR and changes nothing, and so does every
value that the table reserves, 0b000 among them. -/
def reelCmd (r cmd : Nat) (d : Dev) : Dev :=
  let x := reelOf d r
  let err := flag d .rlReelStatus r 0 8 true
  match cmd with
  | 1 => if x.st = .off ∨ x.st = .retired then
      putReel d r { x with st := .loading, img := fld (cur d .rlReelImg r 0) 0 8 } else err
  | 2 => if x.st = .spare then askReel d r .activate else err
  | 3 => if x.st = .admitted then putReel d r { x with st := .draining } else err
  | 4 => askReel d r .reset
  | _ => err

/-- REEL_FAULT (R67): an uncorrectable fault retires the reel to FAILED at the next tick boundary. -/
def reelFault (r : Nat) (d : Dev) : Dev := askReel d r .fail

/-! ### The dispatcher -/

/-- Take a frame out of the packet buffer. -/
def dropFrame (d : Dev) (id : Nat) : Dev := { d with sw := { d.sw with frames := mput d.sw.frames id none none } }

/-- The queue of an input. -/
def dqOf (d : Dev) (i : Nat) : List Skein := mget d.rl.dq i []

/-- Store the queue of an input. -/
def putDq (d : Dev) (i : Nat) (q : List Skein) : Dev := { d with rl := { d.rl with dq := mput d.rl.dq i q [] } }

/-- Threads whose skeins ended in the tick just finished become free (R40, R44 step 1). -/
def freeThreads (d : Dev) : Dev :=
  (mkeys d.rl.threads).foldl (fun d k =>
    let t := thrOf d k
    if t.run = .ended then putThr d k { t with run := .free, skein := none } else d) d

/-- A skein offered to its input's dispatch queue (R44 step 2, R46): below the class limit it is admitted with its sequence number,
otherwise dropped with DQ_FULL (0x02). Limits 0 and 65-127 act as 64. -/
def offerSkein (d : Dev) (sk : Skein) : Dev :=
  let q := dqOf d sk.input
  let l := cfgF d .tkDqLimit sk.cls 0 0 7
  let lim := if l = 0 ∨ 64 < l then 64 else l
  if q.length < lim then
    let sk := { sk with seq := d.rl.seq }
    let d := putDq d sk.input (q ++ [sk])
    let w := cur d .tkDqStatus sk.input 0
    let d := setCur d .tkDqStatus sk.input 0 (setFld w 8 7 (max (fld w 8 7) (q.length + 1)))
    { d with rl := { d.rl with seq := d.rl.seq + 1, ord := d.rl.ord ++ [⟨sk, none, false⟩] } }
  else dropFrame (countDrop (count32 d .tkDqDrop sk.input sk.cls) sk.input 0x02) sk.frame

/-- The program of a selector on a reel. -/
def progOf (d : Dev) (r sel : Nat) : Option ProgEnt := mget (reelOf d r).prog sel none

/-- Whether a packet thread may take a skein (R40, R60). -/
def threadFree (d : Dev) (k : Nat) : Bool :=
  let t := thrOf d k
  !isService d k && decide (t.run = .free) && !t.dbg.halted

/-- Free packet threads of a reel, and of one spindle of it. -/
def freeOfReel (d : Dev) (r : Nat) : List Nat := (reelThreads r).filter (threadFree d)

/-- Free packet threads of a spindle. -/
def freeOfSpindle (d : Dev) (r sp : Nat) : List Nat := (freeOfReel d r).filter fun k => k % 64 / 8 = sp

/-- The first index of a list of numbers with the greatest count. -/
def bestBy (f : Nat → Nat) : List Nat → Option Nat
  | [] => none
  | x :: xs => match bestBy f xs with
    | none => some x
    | some y => if f x < f y then some y else some x

/-- The admitted reels that have a valid entry for a selector (R43), counting upward from the dispatcher's pointer. -/
def eligibleReels (d : Dev) (sel : Nat) : List Nat :=
  ((List.range 33).map fun i => (d.rl.reelPtr + i) % 33).filter fun r =>
    decide ((reelOf d r).st = .admitted) && (progOf d r sel).isSome

/-- The thread that the dispatcher chooses (R45): the reel with the most free packet threads, its spindle with the most, the
lowest-numbered free thread. -/
def chooseThread (d : Dev) (sel : Nat) : Option Nat :=
  match bestBy (fun r => (freeOfReel d r).length) (eligibleReels d sel) with
  | none => none
  | some r => match bestBy (fun sp => (freeOfSpindle d r sp).length) (List.range 8) with
    | none => none
    | some sp => (freeOfSpindle d r sp).head?

/-- Place a skein on a packet thread (R72, R102, R104, R125). -/
def placeSkein (d : Dev) (k : Nat) (sk : Skein) (p : ProgEnt) : Dev :=
  putThr d k { Thread.reset with
    h := sk.hv, pc := p.entry, run := .ready, stageNo := 1, stageCnt := p.stages, skein := some sk,
    dbg := (thrOf d k).dbg }

/-- One turn of an input (R45, R50): skeins at the head with no valid program end with NO_PROGRAM (0x01) and use no turn; the next is
placed if a suitable thread is free. The answer says whether a skein was placed. -/
def dispatchTurn : Nat → Nat → Dev → Dev × Bool
  | 0, _, d => (d, false)
  | fuel + 1, i, d =>
    match dqOf d i with
    | [] => (d, false)
    | sk :: rest =>
      if (eligibleReels d sk.sel).isEmpty then
        dispatchTurn fuel i (ordEnd (putDq d i rest) sk (.devDrop 0x01))
      else match chooseThread d sk.sel with
        | none => (d, false)
        | some k => match progOf d (k / 64) sk.sel with
          | none => (d, false)
          | some p => (placeSkein (putDq d i rest) k sk p, true)

/-- One round over the inputs from the one whose turn is first. -/
def dispatchRound (d : Dev) : Dev × Bool :=
  ((List.range 30).map fun j => (d.rl.inPtr + j) % 30).foldl (fun acc i =>
    let r := dispatchTurn 65 i acc.1
    (r.1, acc.2 || r.2)) (d, false)

/-- Rounds until no skein is placed, at most 64 (R45). -/
def dispatchRounds : Nat → Dev → Dev
  | 0, d => d
  | n + 1, d =>
    let r := dispatchRound d
    if r.2 then dispatchRounds n r.1 else r.1

/-- DISPATCH (R44, R45) of the skeins that the parse graph delivers at this boundary; both pointers move on by one. -/
def dispatch (sks : List Skein) (d : Dev) : Dev :=
  let d := sks.foldl offerSkein (freeThreads d)
  let d := dispatchRounds 64 d
  { d with rl := { d.rl with inPtr := (d.rl.inPtr + 1) % 30, reelPtr := (d.rl.reelPtr + 1) % 33 } }

/-- Stage boundaries (R102 to R104, R106): a thread that issued STAGE runs its next stage; a held STEP is done once the thread is
ready (R62). -/
def stageBoundary (d : Dev) (k : Nat) : Dev :=
  let t := thrOf d k
  if t.run = .staged then
    let t := startInterval t
    putThr d k (if isService d k then t else { t with stageNo := t.stageNo + 1 })
  else d

/-- A held STEP acts when the thread is ready (R62). -/
def heldStep (d : Dev) (k : Nat) : Dev :=
  let t := thrOf d k
  if t.dbg.halted && t.dbg.step && decide (t.run = .ready) then doStep d k else d

/-- The tick's record of halts begins again (R150). -/
def haltSeen (d : Dev) (k : Nat) : Dev :=
  let t := thrOf d k
  putThr d k { t with dbg := { t.dbg with seen := t.dbg.halted } }

/-! ### The ordering unit -/

/-- ORDERING_RELEASE (R49): an ended skein is released when every earlier skein of its domain has released. The walk answers the
entries that stay, with the holds counted, and those released, in order. `blocked` lists the domains with an unreleased skein. -/
def releaseWalk : List (Nat × Nat) → List OrdEnt → List OrdEnt × List OrdEnt × Nat
  | _, [] => ([], [], 0)
  | blocked, e :: es =>
    let dom := (e.skein.input, e.skein.bucket)
    if e.verdict.isSome && !decide (dom ∈ blocked) then
      let r := releaseWalk blocked es
      (r.1, e :: r.2.1, r.2.2)
    else
      let held := e.verdict.isSome && !e.waited
      let r := releaseWalk (dom :: blocked) es
      ({ e with waited := e.waited || e.verdict.isSome } :: r.1, r.2.1, r.2.2 + b2n held)

/-- Release what may be released (R49); TK_ORD_HELD counts verdicts that wait one tick or more. -/
def orderRelease (d : Dev) : Dev × List OrdEnt :=
  let r := releaseWalk [] d.rl.ord
  let d := { d with rl := { d.rl with ord := r.1 } }
  (setCur d .tkOrdHeld 0 0 (bump32 (cur d .tkOrdHeld 0 0) r.2.2), r.2.1)

end Sys2Proof.Machine
end

