-- ==== Sys2Proof/Machine/Switch.lean ====
section
/-! DEFINITION. The path of a frame (chapters 1, 6, 8 and 9): arrival, the parse graph, the release of verdicts with their copies, the
crossbar, the editor, port transmit, ports that go down, multicast groups, meters and the sampler. -/

namespace Sys2Proof.Machine

/-! ### Arrival -/

/-- Whether a network port, host port or the control port is administratively up. -/
def portUp (d : Dev) (p : Nat) : Bool := if p < 16 then decide (p / 4 ∈ d.sw.npUp) else true

/-- Whether a frame at an input is a command frame (R15, R399). -/
def isCommand (d : Dev) (i : Nat) (bs : List Byte) : Bool :=
  decide (beNat (sliceD 0 bs 12 2) = fld (cfg64 d .ctCmdCfg 0 0) 16 16) &&
    (decide (i = 24) || (decide (i < 16) && bit (cfg64 d .ctCmdCfg 0 0) (48 + i)))

/-- CMD_FRAME_RECEIVE (R401): the frame joins the queue of 16 command frames, or is dropped and counted at k = 6. -/
def cmdReceive (port : Nat) (bs : List Byte) (d : Dev) : Dev :=
  if 16 ≤ d.ct.cmdq.length then count d .ctCmdRefuseCnt 6 0
  else { d with ct := { d.ct with cmdq := d.ct.cmdq ++ [(port, bs)] } }

/-- The member input that the receive path assigns a frame to (R16). -/
def memberInput (d : Dev) (i flow : Nat) : Nat :=
  let ms := membersOf d i
  ms.getD (flow % 4096 % ms.length) i

/-- Whether port receive hands a frame to an ingress cluster (R351, R171). -/
def toCluster (d : Dev) (i : Nat) (bs : List Byte) : Bool :=
  inFull d && decide (i < 16) && (cfgB d .ciSpCfg i 0 31 || (espEn d i && (espPos (noFcs bs)).isSome))

/-- SK_META of a frame that a network port or CP receives (Table 6-6). -/
def rxMeta (i : Nat) (ts : Time) : DWord := BitVec.ofNat 64 ((if i = 24 then 2 * 2 ^ 60 else 0) + ts.ns)

/-- FRAME_ARRIVAL (R16, R223): the first bit of a frame crosses the receive balls `ps` after the boundary. Command frames go to the
control path, protected frames to a cluster; any other is taken under R223, and its bytes follow cell by cell. -/
def frameArrival (i : Nat) (bs : List Byte) (ps : Nat) (d : Dev) : Dev :=
  if !portUp d i || bs.isEmpty then d
  else if isCommand d i bs then cmdReceive i bs d
  else if i = 24 && !inFull d then d
  else
    let flow := flowHash d bs
    let i := memberInput d i flow
    let ts := rxTime d i ps
    let f := { Frame.start i bs with flow := flow, ts := some ts, md := rxMeta i ts }
    if toCluster d i bs then
      let id := d.sw.nextFrame
      let d := putFrame d id (some { f with st := .cipher })
      { d with sw := { d.sw with nextFrame := id + 1 } }
    else (takeFrame d f).1

/-! ### Copies that end -/

/-- Take a copy out, with its pin, its place in a cluster's queue (R246), and its completion place. -/
def dropCopy (d : Dev) (id : Nat) (c : Copy) : Dev :=
  let d := match copyOf d id with | some x => unpin (putCopy d id none) x.input x.pin | none => d
  let d := { d with ci := { d.ci with waits := mput d.ci.waits id none none } }
  let d := if c.prot then putEq d (outCluster c.dest) ((eqOf d (outCluster c.dest)).filter (· ≠ id)) else d
  let d := match c.place with | some q => givePlace d q | none => d
  let d := match c.kind with
    | .punt q _ buf _ => giveBuf (putPunt d q { puntOf d q with places := (puntOf d q).places - 1 }) buf
    | _ => d
  reapFrame d c.frame

/-- Drop a copy with a reason of SW_ADM_DROP. -/
def dropFor (d : Dev) (id : Nat) (c : Copy) (reason : Nat) : Dev := admDrop (dropCopy d id c) c.input c.dest c.cls reason

/-- One more cell of a frame is complete in the packet buffer (R20). With the last cell the frame is whole: a wrong FCS, or a
truncation under R223, makes it bad, and so does an end before SK_LEN (R175). -/
def cellReady (id : Nat) (d : Dev) : Dev :=
  match frameOf d id with
  | none => d
  | some f =>
    if f.whole || decide (f.st = .cipher) || (decide (16 ≤ f.input) && decide (f.input ≠ 24)) then d
    else
      let n := cellsOf f.bytes.length
      if f.got + 1 < n then putFrame d id (some { f with got := f.got + 1 })
      else
        frameEnds id ((f.input < 16 || f.input = 24) && !fcsGood f.bytes) d

/-! ### The parse graph -/

/-- The active parse node table and class maps (R165, R169). -/
def pgNode (d : Dev) (n : Nat) : Node := nodeOf fun w => cfg d .swPgNode n w
def pgCmap (d : Dev) (m k : Nat) : Nat := fld (cfg d .swPgCmap m (k / 8)) (3 * (k % 8)) 3

/-- PARSE_PRESENT (R162): port receive presents a frame once its first 256 bytes, or all of it, are there; at most 64 per input and
tick. The flow hash of a host frame is taken here, of the bytes that have come (R47). -/
def parsePresent (id : Nat) (d : Dev) : Dev :=
  match frameOf d id with
  | none => d
  | some f =>
    let n := (d.sw.presented.filter fun g => match frameOf d g with | some x => decide (x.input = f.input) | none => false).length
    if f.st ≠ .receiving || !(f.whole || decide (1 ≤ f.got)) || decide (64 ≤ n) then d
    else
      let f := if 16 ≤ f.input ∧ f.input ≤ 23 then { f with flow := flowHash d f.bytes } else f
      let d := putFrame d id (some { f with st := .parsing })
      { d with sw := { d.sw with presented := d.sw.presented ++ [id] } }

/-- The parse graph takes one frame (R162 to R176): the skein that it will deliver. -/
def takeOne (d : Dev) (id : Nat) : Dev :=
  match frameOf d id with
  | none => d
  | some f =>
    let pf : PFrame := ⟨f.bytes, f.esp, f.macsec⟩
    let p := parseFrame (pgNode d) (pgCmap d) (cfg d .swPgInput f.input 0) pf
    let est := if f.whole then none else some (estLen pf p)
    let flags := if est.isSome then setBit p.pf 20 true else p.pf
    let cnt (d : Dev) (k b : Nat) : Dev := if bit flags b then count d .swPgExcCnt k 0 else d
    let d := cnt (cnt (cnt (cnt (cnt (cnt d 0 18) 1 17) 2 19) 3 21) 4 15) 5 16
    let sk : Skein := { input := f.input, len := est.getD f.bytes.length, cls := f.cls.getD p.cls,
                        bucket := f.bkt.getD (f.flow % 4096), sel := p.sel, seq := 0, pflags := flags, md := f.md,
                        hv := hvWords p.hv, frame := id }
    let d := putFrame d id (some { f with est := est })
    { d with sw := { d.sw with parsing := d.sw.parsing ++ [⟨sk, if f.esp.isSome then 2 else 1⟩] } }

/-- Frames of the recirculation ports and of I29 present themselves (R176): they need no port receive. -/
def selfPresent (d : Dev) : Dev :=
  (allFrames d).foldl (fun d e => if 25 ≤ e.2.input then parsePresent e.1 d else d) d

/-- The parse graph at a boundary (R162, R171): the skeins it delivers, and the frames it takes. -/
def parseDeliver (d : Dev) : Dev × List Skein :=
  let out := (d.sw.parsing.filter fun p => p.left ≤ 1).map (·.skein)
  let rest := (d.sw.parsing.filter fun p => 1 < p.left).map fun p => { p with left := p.left - 1 }
  ({ d with sw := { d.sw with parsing := rest } }, out)

/-- Take what has been presented. -/
def parseTake (d : Dev) : Dev :=
  let d := selfPresent d
  let ids := d.sw.presented
  ids.foldl takeOne { d with sw := { d.sw with presented := [] } }

/-- Whether a template passes the checks of R177. -/
def tplGood (d : Dev) (t : Nat) : Bool := tplOk fun w => cur d .swEdTpl t w

/-- The first entry of the standby bank that fails R177: whether it is a template, and its number. -/
def bankFault (d : Dev) : Option (Bool × Nat) :=
  match (List.range 512).find? fun n => !nodeOk (nodeOf fun w => cur d .swPgNode n w) with
  | some n => some (false, n)
  | none => ((List.range 1024).find? fun t => !tplGood d t).map fun t => (true, t)

/-- Addresses of the banked registers. -/
def bankedAddr (a : Nat) : Bool := match locate a with
  | some l => decide ((regDef l.reg).kind = .banked)
  | none => false

/-- SW_PE_COMMIT at the boundary (R177): the standby bank becomes active, or CFG_ERR and ERR_INDEX. -/
def peCommit (d : Dev) : Dev :=
  if !d.sw.peCommit then d
  else
    let d := { d with sw := { d.sw with peCommit := false } }
    let w := cur d .swPeCommit 0 0
    match bankFault d with
    | some (tpl, n) => setCur d .swPeCommit 0 0 (setFld (setBit (setBit w 3 true) 26 tpl) 16 10 n)
    | none =>
      let d := { d with regs := { d.regs with
        act := copyWords bankedAddr d.regs.cur d.regs.act, cur := copyWords bankedAddr d.regs.act d.regs.cur } }
      setCur { d with sw := { d.sw with peSwap := d.tick } } .swPeCommit 0 0 (setBit w 1 true)

/-- BANK_SYNC_DONE (R177): the standby bank holds the active bank's content. -/
def bankSyncDone (d : Dev) : Dev :=
  if !bit (cur d .swPeCommit 0 0) 1 then d
  else
    let d := { d with regs := { d.regs with cur := copyWords bankedAddr d.regs.act d.regs.cur } }
    flag d .swPeCommit 0 0 1 false

/-- The copy of a bank takes at most 4,096 ticks (R177). -/
def bankSyncLimit (d : Dev) : Dev := if d.sw.peSwap + 4096 ≤ d.tick then bankSyncDone d else d

/-! ### Release -/

/-- ECN-capable (R250): an IP header at L3_OFF whose ECN field is not 0. -/
def ecnCapable (f : Frame) (l3 : Nat) : Bool :=
  decide (l3 ≠ 0) && decide (ecnOf f.bytes l3 (decide ((f.bytes.getD l3 0).toNat / 16 = 6)) ≠ 0)

/-- What the release of one verdict works on. -/
structure RelEnv where
  sk : Skein
  f : Frame

/-- The full cell count of a frame, counted as received (R222, R267). -/
def relCells (r : RelEnv) : Nat := cellsOf r.f.bytes.length

/-- Cells that the grant of a copy's first cell reserves at the egress (R231). -/
def relRes (d : Dev) (r : RelEnv) : Nat := if bit r.sk.pflags 20 then rxmaxOf d r.sk.input else cellsOf r.sk.len

/-- L3_OFF of a skein. -/
def relL3 (r : RelEnv) : Nat := fld r.sk.pflags 40 8

/-- Whether a copy toward a destination is forwarded cut-through (R21); SW_CT_EN is sampled at release. -/
def ctOk (d : Dev) (r : RelEnv) (dest : Nat) : Bool :=
  decide (dest ≠ 29) && cfgB d .swCtEn 0 0 dest && r.f.esp.isNone && !r.f.macsec && !r.f.lenChange

/-- A copy of a released frame. -/
def relCopy (d : Dev) (r : RelEnv) (dest cls : Nat) (kind : CKind) (edits : List Edit) (hv : SMap Word) (catt : Option Nat) : Copy :=
  { Copy.start r.sk.frame r.sk.input dest cls (relCells r) (relRes d r) d.tick kind with
    ct := ctOk d r dest, l3 := relL3 r, edits := edits, hv := hv, catt := catt }

/-- Admit one copy (R227); a copy toward a bonded port takes the member of its pin (R238), whose bit of SW_CT_EN counts. -/
def relAdmit (d : Dev) (r : RelEnv) (c : Copy) (colour : Nat) : Dev × Option Nat :=
  let ecn := ecnCapable r.f (relL3 r)
  if c.dest < 16 ∧ 1 < (membersOf d c.dest).length then
    let (d, m) := bondPin d c.input r.sk.bucket c.dest
    admitCopy d { c with dest := m, ct := ctOk d r m, pin := some r.sk.bucket } colour ecn
  else admitCopy d c colour ecn

/-- A word of a multicast group entry (R240). -/
def mcWord (d : Dev) (g w : Nat) : Word := mget d.sw.mc (8 * g + w) 0

/-- The vport list of a group entry for a host port's destination (Table 8-2). -/
def mcVlist (d : Dev) (g dst : Nat) : Nat := fld (mcWord d g (2 + (dst - 16) / 2)) (16 * ((dst - 16) % 2)) 14

/-- The destinations of a multicast group for a frame (R241): the lowest set member of each port, in ascending order. -/
def mcDests (d : Dev) (g input : Nat) : List Nat :=
  let m := fld (mcWord d g 0) 0 29
  let prune := bit (mcWord d g 1) 1
  (List.range 29).filter fun x =>
    m.testBit x && decide (((membersOf d x).find? fun y => m.testBit y) = some x) && !(prune && decide (input ∈ membersOf d x))

/-- The drop of a verdict (R14, R127, R129). -/
def relDrop (d : Dev) (r : RelEnv) (reason : Nat) : Dev × List Nat := (countDrop d r.sk.input reason, [])

/-- One copy of a unicast verdict. -/
def relUni (d : Dev) (r : RelEnv) (c : Copy) (colour : Nat) : Dev × List Nat :=
  let x := relAdmit d r c colour
  (x.1, x.2.toList)

/-- A MCAST verdict (R241, R242). -/
def relMcast (d : Dev) (r : RelEnv) (g cls colour : Nat) (edits : List Edit) (hv : SMap Word) (catt : Option Nat) : Dev × List Nat :=
  if !bit (mcWord d g 1) 0 then (count (count d .swEvtCnt 1 0) .swEvtCnt 2 0, [])
  else
    let prune := bit (mcWord d g 1) 1
    let x := (mcDests d g r.sk.input).foldl (fun (acc : Dev × List Nat) dst =>
      let y := relAdmit acc.1 r (relCopy acc.1 r dst cls (.mc g (lowMember acc.1 dst) prune (bit (mcWord acc.1 g 1) 2) (mcVlist acc.1 g dst)) edits hv catt) colour
      (y.1, acc.2 ++ y.2.toList)) (d, [])
    if x.2.isEmpty then (count x.1 .swEvtCnt 2 0, []) else x

/-- A PUNT verdict (R124, R127, R156): it takes a place and a buffer; a refused copy gives both back. -/
def relPunt (d : Dev) (r : RelEnv) (q reason : Nat) : Dev × List Nat :=
  let x := puntOf d q
  let depth := min 1024 (cfgF d .tkPuntCfg q 0 0 11)
  if depth ≤ x.places + x.entries.length ∨ (freeBuf d).isNone then relDrop d r 0x0B
  else match takeBuf d with
    | (d, none) => relDrop d r 0x0B
    | (d, some buf) =>
      let d := putPunt d q { x with places := x.places + 1 }
      let l := cfgF d .tkVerdictCfg 0 0 8 7
      let lim := 64 * (if l = 0 ∨ 65 < l then 65 else l)
      match relAdmit d r (relCopy d r 29 r.sk.cls (.punt q reason buf lim) [] [] none) 0 with
      | (d, some id) => (d, [id])
      | (d, none) => (giveBuf (putPunt d q { puntOf d q with places := (puntOf d q).places - 1 }) buf, [])

/-- Whether a connection takes frames of BLOCK verdicts (Table 4-8). -/
def connTakes (d : Dev) (c : Nat) : Bool :=
  let s := (connOf d c).st
  s = .connecting || s = .opened || s = .closing

/-- The effect of a released verdict on the frame's own copies (Table 4-8): the admitted copies. -/
def relVerdict (d : Dev) (r : RelEnv) (v : Verdict) : Dev × List Nat :=
  match v with
  | .devDrop reason => relDrop d r reason
  | .prog k a b imm colour edits hv catt =>
    let cls := if bit imm 7 then fld imm 4 3 else r.sk.cls
    let col := if fld imm 2 2 = 3 then colour else fld imm 2 2
    let a := a.toNat
    let b := b.toNat
    let bad := bit imm 0
    match k with
    | .fwd =>
      if 32 ≤ a ∨ b ≠ 0 ∨ bad then relDrop d r 0x09
      else if a = 30 then relDrop d r 0x07
      else if a = 31 then relDrop d r 0x08
      else if a < 16 ∨ a = 24 then relUni d r (relCopy d r a cls .uni edits hv catt) col
      else relDrop d r 0x09
    | .mcast => if 2 ^ 14 ≤ a ∨ b ≠ 0 ∨ bad then relDrop d r 0x09 else relMcast d r a cls col edits hv catt
    | .host =>
      if 2 ^ 11 ≤ a ∨ 2 ^ 16 ≤ b ∨ bad then relDrop d r 0x09
      else relUni d r (relCopy d r (16 + a / 256) cls (.host (a % 256) b) edits hv catt) col
    | .punt => if 256 ≤ a ∨ b ≠ 0 then relDrop d r 0x09 else relPunt d r a imm.toNat
    | .recirc =>
      if 4 ≤ a ∨ 2 ^ 32 ≤ b ∨ bad then relDrop d r 0x09
      else if max 1 (cfgF d .tkVerdictCfg 0 0 0 4) ≤ r.f.passes then relDrop d r 0x0A
      else relUni d r (relCopy d r (25 + a) cls (.recirc b) edits hv catt) col
    | .block =>
      if 2 ^ 16 ≤ a ∨ b ≠ 0 ∨ imm ≠ 0 then relDrop d r 0x09
      else if !connTakes d a then relDrop d r 0x0C
      else ({ d with bs := { d.bs with inq := d.bs.inq ++ [(a, r.sk.frame)] } }, [])
    | .drop => if a ≠ 0 ∨ b ≠ 0 then relDrop d r 0x09 else relDrop d r imm.toNat

/-- A mirror copy of a session (R268, R269): green; a refusal is counted at k = 3 + session. -/
def relMirror (d : Dev) (r : RelEnv) (s : Nat) (edits : List Edit) (hv : SMap Word) : Dev :=
  let w := cfg d .scMirSess s 0
  if !bit w 31 || !inFull d then d
  else match admitCopy d (relCopy d r (fld w 0 5) (fld w 27 3) (.mirror s) edits hv none) 0 (ecnCapable r.f (relL3 r)) with
    | (d, some _) => d
    | (d, none) => count d .scEvtCnt (3 + s) 0

/-- The egress mirror copies of admitted copies, in ascending destination (R268, R269). -/
def egressMirrors (d : Dev) (r : RelEnv) (own : List Nat) : Dev :=
  let eg := sortBy (fun c : Copy => c.dest) (own.filterMap fun id => copyOf d id)
  eg.foldl (fun d c =>
    let w := cfg d .scMirSel c.dest 0
    if c.dest ≤ 24 ∧ bit w 3 then relMirror d r (fld w 0 2) c.edits c.hv else d) d

/-- The final header vector (R126), which a session's template may patch in (R182): that of the verdict, or the parse graph's where the
device ended the skein. -/
def finalHv (r : RelEnv) (v : Verdict) : SMap Word :=
  match v with
  | .prog _ _ _ _ _ _ hv _ => hv
  | .devDrop _ => r.sk.hv

/-- The sessions of the extra copies (R268): ingress, flow, egress. -/
def relMirrors (d : Dev) (r : RelEnv) (v : Verdict) (own : List Nat) : Dev :=
  let sel := cfg d .scMirSel r.sk.input 0
  let hv := finalHv r v
  let d := if bit sel 7 then relMirror d r (fld sel 5 2) [] hv else d
  let flow : Bool := match v with
    | .prog k _ _ imm _ _ _ _ => bit imm 1 && decide (k = .fwd ∨ k = .mcast ∨ k = .host ∨ k = .recirc)
    | _ => false
  let d := if flow then
      match (List.range 4).find? fun s => cfgB d .scMirSess s 0 31 && cfgB d .scMirSess s 0 8 with
      | some s => relMirror d r s [] hv
      | none => d
    else d
  egressMirrors d r own

/-- A gap drawn uniformly from 1 to 2N - 1 with the input's WRED LFSR (R266). -/
def drawGap (d : Dev) (i : Nat) : Dev × Nat :=
  let n := cfgF d .scWaftCfg i 0 0 16 + 1
  let (d, x) := lfsrDraw d (64 + i) 32
  (d, 1 + x * (2 * n - 1) / 2 ^ 32)

/-- One more released verdict at an input (R266): the gap counter, which a first verdict draws; a frame that brings it to 0 is due. -/
def waftCount (d : Dev) (i : Nat) (due : Waft) : Dev :=
  if !cfgB d .scWaftCfg i 0 31 || !inFull d then { d with sw := { d.sw with gap := mput d.sw.gap i 0 0 } }
  else
    let (d, g) := match mget d.sw.gap i 0 with
      | 0 => drawGap d i
      | g => (d, g)
    let d := { d with sw := { d.sw with gap := mput d.sw.gap i (g - 1) 0 } }
    if g = 1 then { d with sw := { d.sw with waftDue := d.sw.waftDue ++ [due] } } else d

/-- WAFT_GAP_EXPIRY (R266, R267): the oldest frame due at an input is wafted, and a new gap is drawn. -/
def waftExpiry (i : Nat) (d : Dev) : Dev :=
  match d.sw.waftDue.find? fun e => e.input = i with
  | none => d
  | some e =>
    let d := { d with sw := { d.sw with waftDue := d.sw.waftDue.erase e } }
    let (d, g) := drawGap d i
    let d := { d with sw := { d.sw with gap := mput d.sw.gap i g 0 } }
    match frameOf d e.frame with
    | none => d
    | some f =>
      let c := Copy.start e.frame i 29 (cfgF d .scWaftCfg i 0 28 3) (cellsOf f.bytes.length) e.res d.tick .waft
      match admitCopy d { c with l3 := e.l3 } 0 (ecnCapable f e.l3) with
      | (d, some _) => d
      | (d, none) => count d .scEvtCnt 1 0

/-- The release of one verdict (R127, R227, R269): its own copies, then mirror copies, then the waft copy. -/
def releaseOne (d : Dev) (e : OrdEnt) : Dev :=
  match e.verdict, frameOf d e.skein.frame with
  | some v, some f =>
    let r : RelEnv := ⟨e.skein, f⟩
    let x := relVerdict d r v
    let d := relMirrors x.1 r v x.2
    let d := waftExpiry e.skein.input (waftCount d e.skein.input ⟨e.skein.input, e.skein.frame, relRes d r, relL3 r⟩)
    if d.bs.inq.any fun y => y.2 = e.skein.frame then d
    else match frameOf d e.skein.frame with
      | some f => reapFrame (putFrame d e.skein.frame (some { f with released := true })) e.skein.frame
      | none => d
  | _, _ => d

/-- VOQ_ADMISSION of the verdicts that a boundary releases: input by input in ascending order, each in SK_SEQ order (R227). -/
def releaseAllVerdicts (d : Dev) : Dev :=
  let r := orderRelease d
  (sortBy (fun e : OrdEnt => e.skein.input) r.2).foldl releaseOne (wredAverage r.1)

/-! ### The crossbar -/

/-- Rate in Gb/s of the port of an input or destination (R232); 400 in boot-service mode (R496). -/
def portRate (d : Dev) (p : Nat) : Nat :=
  if p < 16 then if p / 4 ∈ d.sw.boot then 400 else (match modeOf d (p / 4) with | 0 => 400 | 1 => 800 | _ => 1600)
  else if p < 24 then 800 else if p = 24 then 100 else 1024

/-- Length of a frame, counted as received with its FCS (R222). -/
def frameLen (f : Frame) : Nat := f.bytes.length

/-- Whether the editor, and egress protection, have passed a copy to port transmit (R178, R355). -/
def passedOn (d : Dev) (c : Copy) : Bool := c.out.isSome && decide (c.outAt ≤ d.tick) && !c.prot

/-- Cells that a copy still reserves at its egress (R231): those that the grant of its first cell reserved, without the cells whose bytes have
passed to port transmit; none once the whole copy has. -/
def egressHeld (d : Dev) (c : Copy) : Nat :=
  if c.crossed = 0 then 0
  else if !passedOn d c then c.res
  else if copyCells d c ≤ c.crossed then 0
  else c.res - c.crossed

/-- Cells of an egress buffer that are reserved (R231). -/
def egressUse (d : Dev) (dst : Nat) : Nat :=
  ((allCopies d).filter fun e => e.2.dest = dst).foldl (fun n e => n + egressHeld d e.2) 0

/-- The input hold of R232 for the first cell of a cut-through copy. -/
def ctHoldMet (d : Dev) (f : Frame) (c : Copy) : Bool :=
  let ri := portRate d c.input
  let ro := portRate d c.dest
  if c.ct && decide (ri < ro) then decide (ceilDiv (frameLen f * (ro - ri)) (ro * 256) ≤ f.got) else true

/-- FREEZE_HOLD of a vport in ticks (VP_MIG_CTL). -/
def freezeHold (d : Dev) (p : Nat) : Nat := min 3125000 (cfgF d .vpMigCtl p 0 10 22)

/-- One more drop of VP_MIG_CNT (R389). -/
def migCount (d : Dev) (p : Nat) : Dev := count32 d .vpMigCnt p 0

/-- How a unicast HOST copy stands at the head of its VOQ (R324, R389). -/
inductive Hold where
  | go | held | migDrop | rxDrop
  deriving DecidableEq, Repr

/-- The completion queue that a HOST copy's receive queue is bound to, where the copy could be received. -/
def hostCq (d : Dev) (p queue : Nat) : Option Nat :=
  match globalQ d p 1 queue with
  | none => none
  | some q => if (vportOf d p).st = .active && decide ((queueOf d 1 q).st = .active) && !qNvme (queueOf d 1 q)
      then some (qCq (queueOf d 1 q)) else none

/-- The hold of a HOST copy. -/
def hostHold (d : Dev) (c : Copy) : Hold :=
  match c.kind with
  | .host v queue =>
    let p := 256 * (c.dest - 16) + v
    let x := vportOf d p
    if x.st = .frozen then (if x.frozenAt + freezeHold d p ≤ d.tick then .migDrop else .held)
    else match hostCq d p queue with
      | none => .go
      | some cq =>
        if c.place.isSome || placeFree d cq then .go
        else match c.heldAt with
          | some t => if t + cfgF d .bbRxHold (c.dest - 16) 0 0 16 ≤ d.tick then .rxDrop else .held
          | none => .held
  | _ => .go

/-- Whether a copy's next cell may be requested, but for residence and the holds of HOST copies (R230). -/
def mayRequest (d : Dev) (f : Frame) (c : Copy) : Bool :=
  decide (c.crossed < copyCells d c) && decide (c.crossed < f.got) && decide (destState d c.dest = .up) &&
    (decide (0 < c.crossed) || (!frozen d c.dest && decide (egressUse d c.dest + c.res ≤ 256) && ctHoldMet d f c))

/-- Drop a HOST copy that was held too long (R324, R389). -/
def hostDrop (d : Dev) (id : Nat) (c : Copy) (mig : Bool) : Dev :=
  match c.kind with
  | .host v _ =>
    let p := 256 * (c.dest - 16) + v
    if mig then migCount (dropCopy d id c) p else vpCount (dropCopy d id c) p 7
  | _ => d

/-- A request: input, destination, class, copy. -/
structure XReq where
  i : Nat
  d : Nat
  c : Nat
  id : Nat
  /-- The copy has started and its last cell has not arrived (R232). -/
  prio : Bool
  deriving DecidableEq, Repr

/-- The head of one VOQ at a cell time: it is dropped, held, or requests; the flag says that the head has been found. -/
def headRequest (d : Dev) (id : Nat) : Dev × Option XReq × Bool :=
  match copyOf d id with
  | none => (d, none, false)
  | some c => match frameOf d c.frame with
    | none => (d, none, true)
    | some f =>
      let req : XReq := ⟨c.input, c.dest, c.cls, id, c.started⟩
      if 0 < c.crossed then (d, if mayRequest d f c then some req else none, true)
      else match hostHold d c with
        | .migDrop => (hostDrop d id c true, none, false)
        | .rxDrop => (hostDrop d id c false, none, false)
        | .held => (putCopy d id (some { c with heldAt := some (c.heldAt.getD d.tick) }), none, true)
        | .go =>
          if !mayRequest d f c then (d, none, true)
          else
            let res := fld (cfg64 d .swHoldCfg 0 0) 22 20
            if res ≠ 0 ∧ c.adm + res < d.tick then (dropFor d id c 5, none, false)
            else
              let d := match c.kind, c.place with
                | .host v queue, none => match hostCq d (256 * (c.dest - 16) + v) queue with
                  | some cq => putCopy (takePlace d cq) id (some { c with place := some cq })
                  | none => d
                | _, _ => d
              (d, some req, true)

/-- The requests of a cell time: one per VOQ, from its head (R230). -/
def collectRequests (d : Dev) : Dev × List XReq :=
  let r := (mkeys d.sw.copies).foldl (fun (acc : Dev × List XReq × List Nat) id =>
    match copyOf acc.1 id with
    | none => acc
    | some c =>
      let k := voqKey c.input c.dest c.cls
      if k ∈ acc.2.2 ∨ copyCells acc.1 c ≤ c.crossed then acc
      else
        let h := headRequest acc.1 id
        (h.1, acc.2.1 ++ h.2.1.toList, if h.2.2 then k :: acc.2.2 else acc.2.2)) (d, [], [])
  (r.1, r.2.1)

/-- Tickets of an (input, class) pair at an output, and accept tickets of a class at an input (Tables 8-19, 8-20). -/
def grantTickets (d : Dev) (dst i c : Nat) : Nat := fld (cfg d .swGtkt dst (2 * i + c / 4)) (8 * (c % 4)) 8
def acceptTickets (d : Dev) (i c : Nat) : Nat := fld (cfg d .swAtkt i (c / 4)) (8 * (c % 4)) 8

/-- The grant of one output among its requests (R232, R233). -/
def grantOne (d : Dev) (dst : Nat) (rs : List XReq) : Dev × Option XReq :=
  match rs.find? (·.prio) with
  | some r => (d, some r)
  | none => lottery d dst ((sortBy (fun r : XReq => 8 * r.i + r.c) rs).map fun r => (r, grantTickets d dst r.i r.c))

/-- The accept of one input among its grants, listed in ascending class (R234); grants of one class stand in ascending output, an order that the
rule does not give (DESIGN CHOICE, log entry 292). -/
def acceptOne (d : Dev) (i : Nat) (gs : List XReq) : Dev × Option XReq :=
  match gs.find? (·.prio) with
  | some r => (d, some r)
  | none => lottery d (32 + i) ((sortBy (fun r : XReq => r.c) gs).map fun r => (r, acceptTickets d i r.c))

/-- One iteration of request, grant and accept (R233). -/
def xbarIter (d : Dev) (rs : List XReq) : Dev × List XReq :=
  let g := (List.range 30).foldl (fun (acc : Dev × List XReq) dst =>
    let mine := rs.filter fun r => r.d = dst
    if mine.isEmpty then acc
    else
      let x := grantOne acc.1 dst mine
      (x.1, acc.2 ++ x.2.toList)) (d, [])
  (List.range 30).foldl (fun (acc : Dev × List XReq) i =>
    let mine := g.2.filter fun r => r.i = i
    if mine.isEmpty then acc
    else
      let x := acceptOne acc.1 i mine
      (x.1, acc.2 ++ x.2.toList)) (g.1, [])

/-- Move one cell of a matched copy. -/
def moveCell (d : Dev) (id : Nat) : Dev :=
  match copyOf d id with
  | none => d
  | some c =>
    let d := if c.first.isNone then { d with sw := { d.sw with nextFirst := d.sw.nextFirst + 1 } } else d
    let c := { c with crossed := c.crossed + 1, first := some (c.first.getD (d.sw.nextFirst - 1)) }
    reapFrame (copyOn (fun f bad d => frameEnds f bad d) id (putCopy d id (some c))) c.frame

/-- What port transmit sends of a copy in the 2 ns of a cell time, at its port's rate (Table 1-4, R230). -/
def sendSome (d : Dev) (e : Nat × Copy) : Dev :=
  if onWire e.2 then finishCopy e.1 (putCopy d e.1 (some { e.2 with sent := e.2.sent + portRate d e.2.dest / 4 })) else d

/-- CELL_TIME (R230 to R235): port transmit sends on, then two iterations, then every matched pair moves one cell. -/
def cellTime (d : Dev) : Dev :=
  let (d, rs) := collectRequests ((allCopies d).foldl sendSome d)
  let (d, m1) := xbarIter d rs
  let rest := rs.filter fun r => m1.all fun m => m.i ≠ r.i && m.d ≠ r.d
  let (d, m2) := xbarIter d rest
  (m1 ++ m2).foldl (fun d r => moveCell d r.id) d

/-! ### The editor -/

/-- Copies of a port at the egress in the order of their first cells (R239), that satisfy a condition. -/
def egressOrder (d : Dev) (dst : Nat) (cond : Copy → Bool) : List (Nat × Copy) :=
  let low := lowMember d dst
  sortBy (fun e : Nat × Copy => e.2.first.getD 0)
    ((allCopies d).filter fun e => decide (lowMember d e.2.dest = low) && e.2.first.isSome && cond e.2)

/-- The vports and queues that a copy goes to at a host port: the vport list of a multicast copy (R244), without the source under SRC_PRUNE. -/
def fanOut (d : Dev) (f : Frame) (c : Copy) : List (Nat × Nat) :=
  match c.kind with
  | .host v q => [(v, q)]
  | .mc _ _ prune _ vl =>
    let h := c.dest - 16
    let base := min 63 (cfgF d .swMcCfg 0 0 0 6) * 2 ^ 20 + 64 * vl
    let bytes := memRdN d.hank (base % 2 ^ 26) 64
    let q := leNat (sliceD 0 bytes 32 2)
    (List.range 256).filterMap fun v =>
      if bit (bytes.getD (v / 8) 0) (v % 8) && !(prune && decide (f.src = some (h, v))) then some (v, q) else none
  | _ => []

/-- Vports whose copy SRC_PRUNE refuses, which R244 counts like any refused vport copy. -/
def fanPruned (d : Dev) (f : Frame) (c : Copy) : Bool :=
  match c.kind, f.src with
  | .mc _ _ true _ vl, some (h, v) =>
    let base := min 63 (cfgF d .swMcCfg 0 0 0 6) * 2 ^ 20 + 64 * vl
    decide (h = c.dest - 16) && bit (memRd d.hank ((base + v / 8) % 2 ^ 26)) (v % 8)
  | _, _ => false

/-- The flow hash that ENTROPY writes (R182): of a frame that came in through I29, its bucket. -/
def flowOf (f : Frame) : Nat := if f.input = 29 then f.bkt.getD 0 else f.flow

/-- What the editor is given for a copy (R178, R243, R269). -/
def edJob (d : Dev) (f : Frame) (c : Copy) : EdJob :=
  let rw : Option DWord := match c.kind with
    | .mc g low _ rw _ =>
      if rw then
        let a := min 60 (cfgF d .swMcCfg 0 0 8 6) * 2 ^ 20 + 256 * g + 8 * low
        some (BitVec.ofNat 64 (leNat (memRdN d.hank (a % 2 ^ 26) 8)))
      else none
    | _ => none
  let mir : Option Word := match c.kind with | .mirror s => some (cfg d .scMirSess s 0) | _ => none
  let v6 := decide ((f.bytes.getD c.l3 0).toNat / 16 = 6)
  { env := { tpl := fun t w => cfg d .swEdTpl t w, hvb := hvBytes c.hv, flow := flowOf f,
             net := inFull d && (decide (c.dest < 16) || decide (c.dest = 24)), rc := inFull d && decide (25 ≤ c.dest) && decide (c.dest ≤ 28), ts := f.ts }
    bytes := noFcs f.bytes
    edits := c.edits
    l3 := if c.l3 = 0 then none else some c.l3
    l3v6 := v6
    ce := c.ce
    rewrite := rw
    mirTpl := match mir with | some w => if bit w 9 then some (fld w 10 10) else none | none => none
    mirTrunc := match mir with | some w => 64 * min 65 (fld w 20 7) | none => 0
    pad := decide (c.dest < 16) || (decide (24 ≤ c.dest) && decide (c.dest ≤ 28)) }

/-- One vport copy at a host port meets its receive queue (Table 11-9). A bad frame is written and posts no completion. -/
inductive HostEnd where
  | wait | done (d : Dev) (into : Option (Nat × Nat))

/-- The delivery of a frame to one vport and queue. -/
def hostDeliver (d : Dev) (f : Frame) (c : Copy) (v queue : Nat) (bs : List Byte) : HostEnd :=
  let p := 256 * (c.dest - 16) + v
  let uni := match c.kind with | .host _ _ => true | _ => false
  match rxCheck d p queue bs.length c.place.isSome uni with
  | .wait => .wait
  | .drop k =>
    let d := match c.place with | some cq => givePlace d cq | none => d
    if (vportOf d p).st = .frozen then
      let d := migCount d p
      .done (if uni then d else count d .swEvtCnt 3 0) none
    else
      let d := vpCount d p k
      .done (if uni then d else count d .swEvtCnt 3 0) none
  | .into q idx =>
    let d := if c.place.isNone && !c.inverted then takePlace d (qCq (queueOf d 1 q)) else d
    let d := if c.inverted then (match c.place with | some cq => givePlace d cq | none => d) else d
    let d := rxInto d p q idx bs c.inverted
    let d := if !f.whole && !c.inverted then updJob d 1 q idx fun j => { j with waits := j.waits + 1 } else d
    .done d (if f.whole then none else some (q, idx))

/-- Deliver to the vports of a list, as far as their entries have been read. -/
def hostFan (f : Frame) (c : Copy) (bs : List Byte) : List (Nat × Nat) → Dev → List (Nat × Nat) → Dev × List (Nat × Nat) × List (Nat × Nat)
  | [], d, into => (d, [], into)
  | (v, q) :: vs, d, into =>
    match hostDeliver d f c v q bs with
    | .wait => (d, (v, q) :: vs, into)
    | .done d x => hostFan f c bs vs d (into ++ x.toList)

/-- A host port starts a copy: the edited frame goes to its vports' receive queues (R321, R244). -/
def hostTake (d : Dev) (id : Nat) (f : Frame) (c : Copy) (bs : List Byte) : Dev :=
  let r := hostFan f c bs (c.fan.getD []) d c.into
  let d := r.1
  if r.2.1.isEmpty then finishCopy id (putCopy d id (some { c with fan := some [], into := r.2.2, started := true, place := none }))
  else putCopy d id (some { c with fan := some r.2.1, into := r.2.2 })

/-- Gang frames (R459): the checks on a frame toward a gang link, and SRC_DEV. None where it is dropped. -/
def gangStamp (d : Dev) (bs : List Byte) : Option (List Byte) :=
  let n (o : Nat) : Nat := beNat (sliceD 0 bs o 2)
  let hops := n 6
  if n 0 ≠ 0x4B47 ∨ hops = 0 ∨ cfgF d .ggCfg 0 0 16 12 < hops ∨ 4096 < bs.length then none
  else some (overwrite bs 4 (beBytes 2 (cfgF d .ggCfg 0 0 0 12)))

/-- Whether a copy's frame passes an egress cluster (R355, R356). -/
def wantsCipher (d : Dev) (c : Copy) : Bool := inFull d && ((espOut c).isSome || (txSa d c.dest).isSome)

/-- What the editor made of a copy goes to the cluster, or to port transmit or the host port at the next boundary (R178). The cluster takes
a frame as it comes from the editor, with the TX_SA and TX_SCI of that moment (R356; DEDUCED, log entry 297). -/
def editorOut (d : Dev) (id : Nat) (c : Copy) (o : EdOut) : Dev :=
  let bs : Option (List Byte) := match gangPort d c.dest, c.kind with
    | none, _ => some o.bytes
    | _, .transit => some o.bytes
    | some _, _ => gangStamp d o.bytes
  match bs with
  | none => count (dropCopy d id c) .ggEvtCnt 4 0
  | some bs =>
    let c := { c with out := some bs, full := o.full + bs.length - o.bytes.length, outAt := d.tick + 1, ptp := o.ptp }
    if wantsCipher d c then
      let k := outCluster c.dest
      putEq (putCopy d id (some { c with prot := true, tx := txSa d c.dest })) k (eqOf d k ++ [id])
    else putCopy d id (some c)

/-- Whether the editor could take a copy as things stand: cut-through once its first cell has reached the egress, otherwise once the whole
frame is there (R178). -/
def editable (d : Dev) (c : Copy) : Bool :=
  c.out.isNone && decide (1 ≤ c.crossed) && decide (c.dest ≠ 29) &&
    (c.ct || (match frameOf d c.frame with | some f => f.whole | none => false))

/-- The editor takes its inputs at a tick boundary (R10): the copies that it may take until the next one. -/
def keepEditable (d : Dev) : Dev :=
  { d with sw := { d.sw with edReady := ((allCopies d).filter fun e => editable d e.2).map (·.1) } }

/-- Whether the editor may take a copy: it was there at the boundary, and is the oldest at its port, in the order of first cells (R239). -/
def editorReady (d : Dev) (id : Nat) (c : Copy) : Bool :=
  d.sw.edReady.contains id && c.out.isNone &&
    decide (((egressOrder d c.dest fun x => x.out.isNone).head?.map (·.1)) = some id)

/-- EDITOR_TAKE (R178 to R183, R224, R350): a bad frame goes on only as a cut-through copy, which ends with the inverted FCS (R23). -/
def editorTake (id : Nat) (d : Dev) : Dev :=
  match copyOf d id with
  | none => d
  | some c => match frameOf d c.frame with
    | none => d
    | some f =>
      if !editorReady d id c then d
      else if f.bad && !c.ct then dropFor d id c 6
      else match outMissing d c with
        | i :: is =>
          let d := (i :: is).foldl askFill d
          { d with ci := { d.ci with waits := mput d.ci.waits id (some ((mget d.ci.waits id none).getD d.tick)) none } }
        | [] =>
          let d := { d with ci := { d.ci with waits := mput d.ci.waits id none none } }
          match editCopy (edJob d f c) with
          | none => count (dropCopy d id c) .swEdDrop c.dest 0
          | some o =>
            let d := if o.noRxTs then count d .tmEvtCnt 1 0 else d
            let d := if f.bad && !c.inverted then ctAbort d c.dest else d
            let host := decide (16 ≤ c.dest) && decide (c.dest ≤ 23)
            let d := if host && fanPruned d f c then count d .swEvtCnt 3 0 else d
            editorOut d id { c with inverted := c.inverted || f.bad, fan := if host then some (fanOut d f c) else none } o

/-- The timestamp changes of R452 on a frame without FCS. -/
def ptpApply (d : Dev) (f : Option Time) (p : Ptp) (t : Time) (bs : List Byte) : Dev × List Byte :=
  let corr (u : Int) (bs : List Byte) : List Byte :=
    let c := beNat (sliceD 0 bs (p.pos + 8) 8)
    overwrite bs (p.pos + 8) (beBytes 8 (intMod 64 ((c : Int) + u)))
  match p.action with
  | 0 =>
    let x := corr ((t.frac / 65536 : Nat) : Int) bs
    let y := overwrite x (p.pos + 34) (ptpStamp t)
    (d, udpRepair p.udp p.v6 x (udpRepair p.udp p.v6 bs y (p.pos + 8) 8) (p.pos + 34) 10)
  | 1 => match f with
    | none => (count d .tmEvtCnt 1 0, bs)
    | some r => (d, udpRepair p.udp p.v6 bs (corr ((timeUnits t - timeUnits r) / 65536) bs) (p.pos + 8) 8)
  | _ => (d, bs)

/-- A CAPTURE pushes a record (R452, R454). -/
def ptpCapture (d : Dev) (dst : Nat) (p : Ptp) (t : Time) (bs : List Byte) : Dev :=
  let n := tmPort dst
  let q := mget d.tm.fifo n []
  if 64 ≤ q.length then count { d with tm := { d.tm with lost := if n ∈ d.tm.lost then d.tm.lost else n :: d.tm.lost } } .tmEvtCnt 0 0
  else
    let g (o : Nat) : Nat := (bs.getD (p.pos + o) 0).toNat
    let r : TxRec := ⟨g 0 % 16, g 4, 256 * g 30 + g 31, t.ns, t.sec⟩
    let d := { d with tm := { d.tm with fifo := mput d.tm.fifo n (q ++ [r]) [] } }
    if q.isEmpty then rcvSet d (cfgF d .tmTxtsSig 0 0 0 8) (2 ^ cfgF d .tmTxtsSig 0 0 8 5) else d

/-- PTP_TS of a copy at a transmit time. -/
def ptpStampCopy (d : Dev) (id : Nat) (c : Copy) (t : Time) : Dev :=
  match c.ptp, c.out with
  | some p, some bs =>
    let ts := match frameOf d c.frame with | some f => f.ts | none => none
    if p.action = 2 then putCopy (ptpCapture d c.dest p t bs) id (some { c with ptp := none })
    else
      let r := ptpApply d ts p t bs
      putCopy r.1 id (some { c with ptp := none, out := some r.2 })
  | _, _ => d

/-- Whether a copy's frame comes from a host and has not come whole: its bytes cannot be protected yet. -/
def partHost (d : Dev) (c : Copy) : Bool := match frameOf d c.frame with
  | some f => !f.whole && decide (16 ≤ f.input) && decide (f.input ≤ 23)
  | none => false

/-- EGRESS_PROTECT (R355 to R357): the cluster takes the oldest frame that waits at its input `ps` after the boundary. PTP_TS is applied
as protection begins, with the transmit time predicted 32 ns later (R453). -/
def egressProtect (id ps : Nat) (d : Dev) : Dev :=
  match copyOf d id with
  | none => d
  | some c =>
    let k := outCluster c.dest
    if (eqOf d k).head? ≠ some id ∨ (mget d.ci.resetTill k none).isSome ∨ d.tick < c.outAt ∨ partHost d c then d
    else
      let bs := c.out.getD []
      match protectBytes d c bs with
      | (d1, .inl none) => d1
      | (d1, .inl (some ev)) => dropCopy (putEq (ciCount d1 k ev) k ((eqOf d1 k).drop 1)) id c
      | (d1, .inr out) =>
        match c.ptp with
        | none => putCopy (putEq d1 k ((eqOf d1 k).drop 1)) id (some { c with out := some out, full := out.length, prot := false })
        | some _ =>
          let ds := ptpStampCopy d id c (txTime d c.dest (ps + 32000))
          match copyOf ds id with
          | none => d
          | some c2 => match protectBytes ds c2 (c2.out.getD []) with
            | (d2, .inr out) =>
              let d2 := { d2 with tm := { d2.tm with predicted := d2.tm.predicted + 1 } }
              putCopy (putEq d2 k ((eqOf d2 k).drop 1)) id (some { c2 with out := some out, full := out.length, prot := false })
            | (d2, _) => d2

/-- TX_TIMESTAMP_POINT (R450, R452): a frame's timestamp point crosses the transmit balls `ps` after the boundary. -/
def txPoint (id ps : Nat) (d : Dev) : Dev :=
  match copyOf d id with
  | none => d
  | some c => if c.started && c.ptp.isSome && !c.prot then finishCopy id (ptpStampCopy d id c (txTime d c.dest ps)) else d

/-! ### Port transmit -/

/-- The frame that a recirculation port makes of a copy (R21, R47, R176): it keeps its ordering bucket and receive timestamp. The spec does not
say what a length change pending is: here it is a length, with the FCS, other than that of the frame the copy was made of (DESIGN CHOICE, log
entry 289). -/
def recirculate (d : Dev) (c : Copy) (f : Frame) (bs : List Byte) : Dev × Option Nat :=
  match c.kind with
  | .recirc w =>
    let full := bs ++ fcsOf bs
    let md : DWord := BitVec.ofNat 64 (3 * 2 ^ 60 + (f.passes + 1) % 16 * 2 ^ 32 + w)
    takeFrame d { Frame.start c.dest full with
      flow := flowOf f, bkt := some (f.bkt.getD (f.flow % 4096)), md := md, ts := f.ts, passes := f.passes + 1,
      lenChange := decide (full.length ≠ f.bytes.length) }
  | _ => (d, none)

/-- Whether port transmit may start a copy (R22, R232). R22 names only cut-through frames for a 1.6 Tb/s port; a store-and-forward copy starts
there with its first crossed cell, like a copy toward any other port (DESIGN CHOICE, log entry 290). -/
def txMayStart (d : Dev) (c : Copy) (f : Frame) : Bool :=
  let all := decide (copyCells d c ≤ c.crossed)
  let three := if decide (c.dest < 16) && decide (portRate d c.dest = 1600) && c.ct then
      decide (ceilDiv (3 * frameLen f) 2048 ≤ c.crossed) else true
  let others := (allCopies d).any fun e => e.2.input = c.input && e.2.started && decide (e.2.crossed < copyCells d e.2)
  decide (c.outAt ≤ d.tick) && !c.prot && (all || (three && !others))

/-- EGRESS_TX_START (R22, R232, R239): a destination's port starts its next copy. A host port waits for the end of a frame that itself comes
from a host (DESIGN CHOICE, log entry 293). -/
def egressTxStart (dst : Nat) (d : Dev) : Dev :=
  match egressOrder d dst fun x => onWire x || !x.started || decide (x.crossed < copyCells d x) with
  | [] => d
  | (id, c) :: _ => match frameOf d c.frame with
    | none => d
    | some f =>
      let bs := c.out.getD []
      if c.started || c.out.isNone || !txMayStart d c f then d
      else if 16 ≤ c.dest ∧ c.dest ≤ 23 then
        (if partHost d c then d else hostTake d id f c bs)
      else
        let r := if 25 ≤ c.dest then recirculate d c f bs else (d, none)
        copyOn (fun f bad d => frameEnds f bad d) id (putCopy r.1 id (some { c with started := true, refr := r.2 }))

/-- PUNT_STORE (R132, R156): a punt copy that has reached D29 is stored and becomes a queued entry. -/
def puntStore (id : Nat) (d : Dev) : Dev :=
  match copyOf d id with
  | none => d
  | some c => match c.kind, frameOf d c.frame with
    | .punt q reason buf lim, some f =>
      if !f.whole || decide (c.crossed < copyCells d c) then d
      else if f.bad then dropFor d id c 6
      else
        let bs := f.bytes.take lim
        let d := bufWrite d buf bs
        let w := b2n (decide (bs.length < f.bytes.length)) * 2 ^ 56 + bs.length * 2 ^ 40 + reason * 2 ^ 32 + bufAddr d buf
        let x := puntOf d q
        let d := putPunt d q { x with places := x.places - 1, entries := x.entries ++ [BitVec.ofNat 64 w] }
        reapFrame (putCopy d id none) c.frame
    | _, _ => d

/-- WAFT_STORE (R267): a waft copy that has reached D29 is stored in a buffer and queued, or dropped and counted at k = 2. -/
def waftStore (id : Nat) (d : Dev) : Dev :=
  match copyOf d id with
  | none => d
  | some c => match c.kind, frameOf d c.frame with
    | .waft, some f =>
      if !f.whole || decide (c.crossed < copyCells d c) then d
      else if f.bad then dropFor d id c 6
      else
        let depth := min 1024 (cfgF d .scWaftQ 0 0 0 11)
        let gone (d : Dev) : Dev := count (reapFrame (putCopy d id none) c.frame) .scEvtCnt 2 0
        if depth ≤ d.dr.waft.entries.length then gone d
        else match takeBuf d with
          | (d, none) => gone d
          | (d, some buf) =>
            let l := cfgF d .scWaftCfg c.input 0 16 7
            let bs := f.bytes.take (64 * (if l = 0 ∨ 65 < l then 65 else l))
            let d := bufWrite d buf bs
            let w := 2 ^ 57 + b2n (decide (bs.length < f.bytes.length)) * 2 ^ 56 + bs.length * 2 ^ 40 + bufAddr d buf
            let d := { d with dr := { d.dr with waft := { d.dr.waft with entries := d.dr.waft.entries ++ [BitVec.ofNat 64 w] } } }
            reapFrame (putCopy d id none) c.frame
    | _, _ => d

/-! ### Ports that go down (R246) -/

/-- Whether a copy goes toward the port of a destination. -/
def towardPort (d : Dev) (p : Nat) (c : Copy) : Bool := decide (c.dest < 25) && decide (lowMember d c.dest = lowMember d p)

/-- FLAP_HOLD in ticks (Table 8-6). -/
def flapHold (d : Dev) : Nat := min 3125000 (fld (cfg64 d .swHoldCfg 0 0) 0 22)

/-- Store a port's state. -/
def putDst (d : Dev) (p : Nat) (s : DState) : Dev := { d with sw := { d.sw with dst := mput d.sw.dst (lowMember d p) s .up } }

/-- FLAP_HOLD_EXPIRY (R246): every copy toward the port is dropped with reason FLUSH and its destinations enter DOWN. -/
def flapExpire (p : Nat) (d : Dev) : Dev :=
  match destState d p with
  | .hold since admin =>
    if since + (if admin then 0 else flapHold d) ≤ d.tick then
      let d := ((allCopies d).filter fun e => towardPort d p e.2).foldl (fun d e => dropFor d e.1 e.2 4) d
      putDst d p .down
    else d
  | _ => d

/-- Frames of a network port or CP whose last byte has not come end bad as the port goes down (R23), after their last complete cell (DESIGN
CHOICE, log entry 294). -/
def cutArriving (d : Dev) (p : Nat) : Dev :=
  ((allFrames d).filter fun e => decide (e.2.input ∈ membersOf d p) && !e.2.whole && decide (e.2.st ≠ .cipher)
    && (decide (e.2.input < 16) || decide (e.2.input = 24))).foldl (fun d e => frameEndBad e.1 0 d) d

/-- A link is lost, or a port is taken down, at this boundary (R246): HOLD, and the frames that the egress holds are discarded. -/
def portLost (d : Dev) (p : Nat) (admin : Bool) : Dev :=
  let low := lowMember d p
  let d := cutArriving d p
  let d := if admin then d else { d with sw := { d.sw with lost := low :: d.sw.lost.filter (· ≠ low) } }
  match destState d p with
  | .up =>
    let d := putDst d p (.hold d.tick admin)
    let d := ((allCopies d).filter fun e => towardPort d p e.2 && decide (0 < e.2.crossed)).foldl (fun d e =>
      ctAbort (dropCopy d e.1 e.2) e.2.dest) d
    flapExpire p d
  | .hold since _ => if admin then flapExpire p (putDst d p (.hold since true)) else d
  | .down => d

/-- The link is back (R246). -/
def portBack (d : Dev) (p : Nat) : Dev :=
  let d := { d with sw := { d.sw with lost := d.sw.lost.filter (· ≠ lowMember d p) } }
  if portUp d p then putDst d p .up else d

/-- Lanes of a network sub-port by its rate (R515, Table 20-6). -/
def npLanes (gbps : Nat) : Nat := if gbps = 1600 then 8 else if gbps = 800 then 4 else 2

/-- What a port advertises by auto-negotiation (R518); nothing where it runs none: host ports, and network ports in full service with
AN_EN = 0 or MEDIA C2M. -/
def anTypes (d : Dev) (p : Nat) : List Phy :=
  let pmd := mget d.sw.pmd (p / 4) 0x10
  let r := portRate d p
  if p = 24 then [if bit (cur d .ctBootStatus 0 0) 7 then .cr 100 1 else .kr 100 1]
  else if 16 ≤ p then []
  else if p / 4 ∈ d.sw.boot then [.kr 400 4, .cr 400 4]
  else if !bit pmd 4 then []
  else match fld pmd 0 2 with
    | 0 => [.kr r (npLanes r)]
    | 1 => [.cr r (npLanes r)]
    | _ => []

/-- The type that a port and its partner share (R518): the first that the port advertises. A partner that no LINK_UP has reported shares it
(DESIGN CHOICE, log entry 299). -/
def anType (d : Dev) (p : Nat) : Option Phy :=
  (anTypes d p).find? fun t => match mget d.sw.partner (lowMember d p) none with
    | some ts => decide (t ∈ ts)
    | none => true

/-- Whether auto-negotiation lets a port's link come up (R518). -/
def anOk (d : Dev) (p : Nat) : Bool := (anTypes d p).isEmpty || (anType d p).isSome

/-- LINK_UP (R246, R518): the partner of a port has advertised some types, which are free. The link is back where auto-negotiation runs not or
finds a shared type; otherwise the port stays, or goes, down. -/
def linkUp (p : Nat) (d : Dev) : Dev :=
  let ts := Config.partnerTypes (lowMember d p) d.tick
  let d := { d with sw := { d.sw with partner := mput d.sw.partner (lowMember d p) (some ts) none } }
  if anOk d p then portBack d p else portLost d p false

/-- A port that is brought up has its destinations UP, unless its link is lost (R18, R246), or its partner shares no type with it (R518): then
it is down. -/
def destsUp (d : Dev) (p : Nat) : Dev :=
  if (membersOf d p).any fun m => d.sw.lost.contains m then d
  else if anOk d p then putDst d p .up
  else flapExpire p (putDst { d with sw := { d.sw with lost := lowMember d p :: d.sw.lost } } p (.hold d.tick true))

/-- A network port follows ADMIN_UP at a boundary, with MODE and NP_PMD_CFG as they are held (R18, R246, R519). -/
def npBoundary (d : Dev) (x : Nat) : Dev :=
  let up := cfgB d .npPortCfg x 0 8
  let isUp := decide (x ∈ d.sw.npUp)
  let setMode (d : Dev) : Dev :=
    let m := cfgF d .npPortCfg x 0 0 2
    if m = 3 ∨ m = modeOf d x then d
    else
      let s := destState d (4 * x)
      let d := { d with sw := { d.sw with mode := mput d.sw.mode x m 2 } }
      (List.range 4).foldl (fun d y => { d with sw := { d.sw with dst := mput d.sw.dst (4 * x + y) s .up } }) d
  if up && !isUp && awake d (33 + x) && awake d (37 + x) then
    let pmd := mput d.sw.pmd x (cfg d .npPmdCfg x 0) 0x10
    (List.range 4).foldl (fun d y => destsUp d (4 * x + y)) (setMode { d with sw := { d.sw with npUp := x :: d.sw.npUp, pmd := pmd } })
  else if !up && isUp then
    let d := (List.range 4).foldl (fun d y => portLost d (4 * x + y) true) d
    { d with sw := { d.sw with npUp := d.sw.npUp.filter (· ≠ x), boot := d.sw.boot.filter (· ≠ x) } }
  else d

/-! ### Group commands, meters, sampler, status -/

/-- A group WRITE that R245 refuses. -/
def mcBad (w : Nat → Word) : Bool :=
  decide (fld (w 0) 29 3 ≠ 0) || decide (fld (w 1) 3 29 ≠ 0) || decide (w 6 ≠ 0) || decide (w 7 ≠ 0) ||
    (List.range 8).any fun h =>
      let v := fld (w (2 + h / 2)) (16 * (h % 2)) 16
      v.testBit 14 || (bit (w 0) (16 + h) && !v.testBit 15)

/-- Start a command of a register whose BUSY is bit 31 and OVERRUN bit 30: the fields written, or OVERRUN while BUSY. -/
def busyStart (d : Dev) (r : Reg) (w : Word) : Dev :=
  if bit (cur d r 0 0) 31 then flag d r 0 0 30 true
  else setBoth d r 0 0 (setBit (setBit w 30 (bit (cur d r 0 0) 30)) 31 true)

/-- MC_READ, MC_WRITE: a write of SW_MC_CMD (Table 8-17). -/
def mcStart (op g : Nat) (d : Dev) : Dev := busyStart d .swMcCmd (BitVec.ofNat 32 (16 * g + op))

/-- The group command that waits, performed at the boundary (R240, R245). -/
def mcPerform (d : Dev) : Dev :=
  let w := cur d .swMcCmd 0 0
  if !bit w 31 then d
  else
    let g := fld w 4 14
    let done (d : Dev) (st : Bool) : Dev := setCur d .swMcCmd 0 0 (setBit (setBit w 31 false) 24 st)
    let data (k : Nat) : Word := cur d .swMcData k 0
    match fld w 0 2 with
    | 1 => done ((List.range 8).foldl (fun d k => setBoth d .swMcData k 0 (mcWord d g k)) d) false
    | 2 =>
      if mcBad data then done d true
      else done { d with sw := { d.sw with mc := mputs d.sw.mc 0 (8 * g) ((List.range 8).map data) } } false
    | _ => done d false

/-- A meter. -/
def meterOf (d : Dev) (m : Nat) : Meter := mget d.sw.meters m Meter.reset

/-- Store a meter. -/
def putMeter (d : Dev) (m : Nat) (x : Meter) : Dev := { d with sw := { d.sw with meters := mput d.sw.meters m x Meter.reset } }

/-- Fields of a meter (Table 9-6): sizes in 2^-16 byte. -/
def mtrCbs (x : Meter) : Nat := 65536 * fld x.w1 0 24
def mtrEbs (x : Meter) : Nat := 65536 * fld x.w1 24 24
def mtrTwo (x : Meter) : Bool := bit x.w1 56
def mtrEn (x : Meter) : Bool := bit x.w1 58

/-- One fill of a meter (R252). -/
def mtrFill (x : Meter) : Meter :=
  let cir := fld x.w0 0 32
  if mtrTwo x then { x with c := min (mtrCbs x) (x.c + cir), e := min (mtrEbs x) (x.e + fld x.w0 32 32) }
  else
    let c := x.c + cir
    { x with c := min (mtrCbs x) c, e := min (mtrEbs x) (x.e + (c - mtrCbs x)) }

/-- Fills of every meter at a boundary. -/
def mtrFillAll (d : Dev) : Dev := { d with sw := { d.sw with meters := mmapD d.sw.meters Meter.reset fun _ x => mtrFill x } }

/-- A staged meter write takes effect (R255). -/
def mtrTake (d : Dev) (e : Nat × DWord × DWord) : Dev :=
  let (m, w0, w1) := e
  let x := meterOf d m
  let y : Meter := ⟨w0, setBit w1 59 false, 0, 0⟩
  let fill := bit w1 59
  putMeter d m { y with c := if fill then mtrCbs y else min x.c (mtrCbs y), e := if fill then mtrEbs y else min x.e (mtrEbs y) }

/-- All staged meter writes take effect together (R255). -/
def mtrCommit (d : Dev) : Dev :=
  let es := d.sw.mtrStage
  es.foldl mtrTake { d with sw := { d.sw with mtrStage := [] } }

/-- MTR_READ, MTR_WRITE: a write of SC_MTR_CMD (Table 9-7); while BUSY it is counted at k = 7. -/
def mtrStart (op m : Nat) (d : Dev) : Dev :=
  let busy := bit (cur d .scMtrCmd 0 0) 31
  let d := busyStart d .scMtrCmd (BitVec.ofNat 32 (256 * m + op))
  if busy then count d .scEvtCnt 7 0 else d

/-- The meter command that waits, performed at the boundary (R255). -/
def mtrPerform (d : Dev) : Dev :=
  let w := cur d .scMtrCmd 0 0
  if !bit w 31 then d
  else
    let m := fld w 8 16
    let done (d : Dev) (st : Nat) : Dev := setCur d .scMtrCmd 0 0 (setFld (setBit w 31 false) 24 3 st)
    let dw (k : Nat) : DWord := BitVec.ofNat 64 ((cur d .scMtrData (2 * k) 0).toNat + 2 ^ 32 * (cur d .scMtrData (2 * k + 1) 0).toNat)
    match fld w 0 2 with
    | 1 =>
      let x := meterOf d m
      let ws := [x.w0.toNat, x.w1.toNat, x.c, x.e]
      done ((List.range 8).foldl (fun d k =>
        setBoth d .scMtrData k 0 (BitVec.ofNat 32 (ws.getD (k / 2) 0 / 2 ^ (32 * (k % 2))))) d) 0
    | 2 =>
      let w0 := dw 0
      let w1 := dw 1
      let range := if bit w1 56 then decide (fld w0 32 32 < fld w0 0 32) else decide (fld w0 32 32 ≠ 0)
      let staged := d.sw.mtrStage.filter fun e => e.1 ≠ m
      if range || decide (fld w1 60 4 ≠ 0) then done d 1
      else if 256 ≤ staged.length then done d 2
      else done { d with sw := { d.sw with mtrStage := staged ++ [(m, w0, w1)] } } 0
    | _ => done d 0

/-- MTR (R253, R254, Table 9-5): the colour, and the meter afterwards. -/
def mtrCharge (x : Meter) (pre len : Nat) : Meter × Nat :=
  let aware := bit x.w1 57
  let b := 65536 * ((len : Int) + sextInt 8 (fld x.w1 48 8)).toNat
  if !mtrEn x then (x, if aware then pre else 0)
  else if mtrTwo x then
    if (aware && decide (pre = 2)) || decide (x.e < b) then (x, 2)
    else if (aware && decide (pre = 1)) || decide (x.c < b) then ({ x with e := x.e - b }, 1)
    else ({ x with e := x.e - b, c := x.c - b }, 0)
  else if (!aware || decide (pre = 0)) && decide (b ≤ x.c) then ({ x with c := x.c - b }, 0)
  else if (!aware || decide (pre ≤ 1)) && decide (b ≤ x.e) then ({ x with e := x.e - b }, 1)
  else (x, 2)

/-- The head delay and depth of a send queue (R264). -/
def sqSample (d : Dev) (q : Nat) : Nat × Nat :=
  let x := queueOf d 0 q
  let n := idxSub x.host x.dev
  let since := x.known.reverse.find? fun k => decide (idxSub k.1 x.dev ≠ 0) && decide (idxSub k.1 x.dev ≤ n)
  (n, match since with | some k => if n = 0 then 0 else d.tick - k.2 | none => 0)

/-- One sample (Table 9-12): depth, delay, average. -/
def sampleOf (d : Dev) (w : Word) : Nat × Nat × Nat :=
  if bit w 30 then
    let r := sqSample d (fld w 0 15)
    (r.1, r.2, 0)
  else
    let i := fld w 8 5
    let v := fld w 0 8
    let head := (allCopies d).find? fun e => e.2.input = i && e.2.dest = v / 8 && e.2.cls = v % 8 && decide (e.2.crossed < copyCells d e.2)
    (voqDepth d i (v / 8) (v % 8), match head with | some e => d.tick - e.2.adm | none => 0, avgOf d (256 * i + v) / 256)

/-- Ring registers of the sampler in the layout of LK_RING_CFG. -/
def sampleWrite (d : Dev) (w : Word) : Dev :=
  let prod := (cur d .scSmpProd 0 0).toNat
  if !ringRoom (cfg d .scSmpCfg 0 0) prod (cur d .scSmpCons 0 0).toNat then count d .scEvtCnt 0 0
  else
    let (depth, delay, avg) := sampleOf d w
    let e := leBytes 8 d.tick ++ leBytes 4 w.toNat ++ leBytes 4 depth ++ leBytes 4 (min delay 0xFFFFFFFF) ++ leBytes 4 avg ++ leBytes 8 0
    let d := { d with hank := memWrN d.hank (ringAddr (cfg d .scSmpCfg 0 0) 32 prod) e }
    setCur d .scSmpProd 0 0 (BitVec.ofNat 32 (prod + 1))

/-- A visit (R264): valid positions from where the last one stopped, at most 1,024 examined. -/
def sampleWalk (cnt : Nat) : Nat → Dev → Dev
  | 0, d => d
  | fuel + 1, d =>
    if cnt = 0 then d
    else
      let pos := d.sw.smpPos
      let w := cfg d .scSmpList pos 0
      let d := { d with sw := { d.sw with smpPos := (pos + 1) % 1024 } }
      if bit w 31 then sampleWalk (cnt - 1) fuel (sampleWrite d w) else sampleWalk cnt fuel d

/-- SAMPLE_VISIT (R264, R265): due every PERIOD ticks while EN is 1; lines bound to type 0x8 follow PROD. -/
def sampleVisit (d : Dev) : Dev :=
  if !cfgB d .scSmpCfg 0 0 31 || decide (d.tick < d.sw.smpNext) then d
  else
    let w := cfg d .scSmpSched 0 0
    let old := cur d .scSmpProd 0 0
    let d := sampleWalk (fld w 0 4 + 1) 1024 d
    let d := { d with sw := { d.sw with smpNext := d.tick + fld w 16 16 + 1 } }
    let now := cur d .scSmpProd 0 0
    if now = old then d else signalLines d 8 0 (BitVec.ofNat 64 now.toNat)

/-- SMP_CFG_WRITE (R265, Table 9-13): BASE and LOG2_DEPTH only while EN is 0; enabling sets both indices to 0. -/
def smpCfgWrite (v : Word) (d : Dev) : Dev :=
  let old := cur d .scSmpCfg 0 0
  let en := bit v 31
  let new := if bit old 31 then setBit old 31 en else setBit (v &&& 0x03FFFFDF) 31 en
  let new := if bit old 31 then new else setFld (setFld new 0 5 (fld v 0 5)) 6 20 (fld v 6 20)
  let d := setBoth d .scSmpCfg 0 0 new
  if en && !bit old 31 then
    let d := setBoth (setCur d .scSmpProd 0 0 0) .scSmpCons 0 0 0
    { d with sw := { d.sw with smpNext := d.tick + cfgF d .scSmpSched 0 0 16 16 + 1 } }
  else d

/-- DEST_FREEZE, DEST_UNFREEZE (R237): FREEZE takes effect with the next cell time. -/
def destFreeze (dst : Nat) (v : Bool) (d : Dev) : Dev :=
  setBoth d .swDestCtl dst 0 (setBit (cur d .swDestCtl dst 0) 0 v)

/-- Whether the staged PART values exceed the buffer (R225). -/
def partsFit (d : Dev) : Bool :=
  decide ((List.range 30).foldl (fun n i => n + fld (cur d .swInPart i 0) 0 19) 0 ≤ 393216)

/-- The occupancy that the registers of chapter 8 show at a boundary (Tables 8-9, 8-12, 8-22). -/
def swStatus (d : Dev) : Dev :=
  let d := (List.range 30).foldl (fun d i => setCur d .swInUse i 0 (BitVec.ofNat 32 (inputUse d i))) d
  let d := (List.range 32).foldl (fun d x => setCur d .swDestDepth x 0 (BitVec.ofNat 32 (min (destDepth d x) 0x7FFFF))) d
  let listed := d.regs.cur.filterMap fun e => match locateIn e.1 .swVoqStatus with
    | some l => some (256 * l.i + l.j)
    | none => none
  let used := (allCopies d).map fun e => voqKey e.2.input e.2.dest e.2.cls
  (listed ++ used).eraseDups.foldl (fun d k =>
    let i := k / 256
    let v := k % 256
    let n := voqDepth d i (v / 8) (v % 8)
    let w := cur d .swVoqStatus i v
    setCur d .swVoqStatus i v (setFld (setFld w 0 19 n) 19 13 (max (fld w 19 13) (min (n / 64) 8191)))) d

end Sys2Proof.Machine
end

