-- ==== Sys2Proof/Machine/Complete.lean ====
section
/-! DEFINITION. How requests to host memory end (R294, R319, R331), and what an endpoint reset does to vports (R327, R379, R391). -/

namespace Sys2Proof.Machine

/-- A reissue is counted in BB_RETRY_CNT (R331): of the software bobbin, or of the pool bobbin that served the request. -/
def countRetry (d : Dev) (r : Req) : Dev :=
  match r.who with
  | .bobbin b _ => count32 d .bbRetryCnt b 0
  | _ => match r.bob with
    | some b => count32 d .bbRetryCnt b 0
    | none => d

/-- A completion entry's write is done: it becomes visible in ring order, and H of its queue may pass the entry (R311). -/
def cqeDone (d : Dev) (c idx : Nat) : Dev :=
  let x := queueOf d 2 c
  let y := { x with doneSet := idx :: x.doneSet, posted := mdel x.posted idx }
  passHead (putQueue d 2 c (cqVisible y (x.doneSet.length + 1))) (mfind x.posted idx)

/-- A request that will not be reissued has ended: what its requester does with the result. -/
def reqResult (d : Dev) (h : Nat) (r : Req) : ReqEnd → Dev
  | .ok data => match r.who with
    | .entry rx q idx unit =>
      if !rx && qNvme (queueOf d 0 q) then nvmeEntry d (256 * h + r.vport) q idx data
      else entryArrived d (256 * h + r.vport) rx q idx unit data
    | .table rx q idx off => tableArrived d (256 * h + r.vport) rx q idx off data
    | .payload q idx off => payloadArrived d q idx off (.inl data)
    | .rxWrite q idx => rxWritten d q idx 0
    | .cqe c idx => cqeDone d c idx
    | .idxWr kind q v => putQueue d kind q { queueOf d kind q with idxDone := v }
    | .idxRd kind q => idxArrived d kind q (some (leNat data))
    | .bobbin b off => bobDone d b off data
    | .nvme x off => nvmeHost d x off r.write (some data)
    | .discard => d
  | e =>
    let st := match e with
      | .status s => s
      | .timeout => 0x10
      | _ => 0x13
    match r.who with
    | .entry rx q _ _ => queueError d (b2n rx) q 3
    | .table rx q idx _ => tableFailed d (256 * h + r.vport) rx q idx st
    | .payload q idx off => payloadArrived d q idx off (.inr st)
    | .rxWrite q idx => rxWritten d q idx st
    | .cqe _ _ => d
    | .idxWr _ _ _ => d
    | .idxRd kind q => idxArrived d kind q none
    | .bobbin b off => bobFail d b off st
    | .nvme x off => nvmeHost d x off r.write none
    | .discard => d

/-- A request has ended (R294): a nonzero status or a TIMEOUT is reissued while retries are left; ABANDONED never is (R319, R331). -/
def reqDone (d : Dev) (h : Nat) (r : Req) (e : ReqEnd) : Dev :=
  let again : Bool := match e with
    | .status _ => decide (0 < r.tries)
    | .timeout => decide (0 < r.tries)
    | _ => false
  if again then issueReq (countRetry d r) h { r with tries := r.tries - 1, tag := none, bob := none, got := [] } else reqResult d h r e

/-- Software bobbins that name a vport halt with ABANDONED (R327), at the first byte of the lowest request that is not done. -/
def bobAbandon (d : Dev) (p : Nat) : Dev :=
  (mkeys d.hp.bobbins).foldl (fun d b =>
    let x := bobOf d b
    if bobNames d b p && (x.st = .running || x.st = .pausing || x.st = .paused) then
      bobDevSig (bobHalt d b ((mkeys x.live).headD x.next) 0x13) b
    else d) d

/-- Copies toward a vport whose first cell has not crossed are dropped. -/
def dropToward (d : Dev) (p : Nat) (drop : Dev → Nat → Copy → Dev) : Dev :=
  (allCopies d).foldl (fun d e => match e.2.kind with
    | .host v _ => if 256 * (e.2.dest - 16) + v = p ∧ e.2.crossed = 0 then drop d e.1 e.2 else d
    | _ => d) d

/-- Held copies toward a vport that leaves FROZEN for another state than ACTIVE are dropped (R391). -/
def dropHeld (d : Dev) (p : Nat) : Dev :=
  if (vportOf d p).st = .frozen then dropToward d p fun d id c => hostDrop d id c true else d

/-- HOST copies toward a vport that becomes ORPHANED are dropped (R327): those toward an ACTIVE one at k = 4, as Table 11-9 counts a vport
that is not ACTIVE. -/
def dropOrphaned (d : Dev) (p : Nat) : Dev :=
  if (vportOf d p).st = .active then dropToward d p fun d id c => vpCount (dropCopy d id c) p 4 else dropHeld d p

/-- One vport becomes ORPHANED (R327): its jobs, reserves and NVMe commands are discarded; the host side of its mailbox resets
(R429). -/
def orphanVport (d : Dev) (p : Nat) : Dev :=
  let d := nvmeDiscard (stopQueues (dropOrphaned d p) p false) p
  let d := bobAbandon d p
  let d := putVport d p { vportOf d p with st := .orphaned, orphanAt := some d.tick, resetBusy := false, cmds := [], reattaching := false,
                                           drained := false, saveBusy := false }
  { d with ct := { d.ct with mbResets := d.ct.mbResets ++ [(p, true)] } }

/-- Every ACTIVE or FROZEN vport of a host port becomes ORPHANED (R327). -/
def orphanPort (d : Dev) (h : Nat) : Dev :=
  (mkeys d.hp.vports).foldl (fun d p =>
    if p / 256 = h && ((vportOf d p).st = .active || (vportOf d p).st = .frozen) then orphanVport d p else d) d

end Sys2Proof.Machine
end

