-- ==== Sys2Proof/Machine/Link.lean ====
section
/-! DEFINITION. The Bamura link (chapter 10): frames and records, credits, acknowledgement and replay, link states, endpoint reset,
tags and time-outs. -/

namespace Sys2Proof.Machine

/-- A BL register word of a host link; a gang link, which has key 8 + sub-port, uses the reset values (R458). -/
def lcfg (d : Dev) (r : Reg) (h : Nat) : Word := if h < 8 then cfg d r h 0 else resetOf r false

/-- The destination behind a link: a host port's, or the sub-port's of a gang link. -/
def linkDest (h : Nat) : Nat := if h < 8 then 16 + h else h - 8

/-- Whether a link is enabled: by BL_CFG, or by its bit of GG_PORT; before phase FULL links are held DOWN (R495, R503). -/
def linkEn (d : Dev) (h : Nat) : Bool := decide (d.ct.phase = .full) && if h < 8 then cfgB d .blCfg h 0 31 else cfgB d .ggPort 0 0 (h - 8)

/-- Data bytes that follow a record of a type in the frame: MRD and MBR carry none. -/
def recDataLen (ty len : Nat) : Nat := if ty = 0x10 ∨ ty = 0x12 then 0 else len

/-- Size of a record in bytes (R274). -/
def recSize (dl : Nat) : Nat := 16 + 8 * ceilDiv dl 8

/-- Virtual channel of a record that the device sends (Table 10-3). -/
def ORec.vc : ORec → Nat
  | .mrd .. | .mwr .. | .gframe .. => 0
  | .mbc .. => 1
  | .sig .. => 2
  | .pong .. => 3

/-- Virtual channel of a record type that the endpoint sends; none for a type it does not send. -/
def recVc : Nat → Option Nat
  | 0x40 => some 0
  | 0x12 | 0x13 => some 0
  | 0x20 | 0x21 => some 1
  | 0x30 => some 2
  | 0x38 | 0x39 | 0x3A => some 3
  | _ => none

/-- Credits of a record (R277). -/
def recCost (dl : Nat) : Nat := ceilDiv (recSize dl) 64

/-- Initial credit and INF that the device advertises for a virtual channel (Table 10-13); VC0 of a gang link
starts with 4,096 (R458). -/
def ownInit (d : Dev) (h v : Nat) : Nat × Bool :=
  let w := match v with
    | 0 => if h < 8 then lcfg d .blCredit0 h else 4096
    | 1 => lcfg d .blCredit1 h
    | 2 => lcfg d .blCredit2 h
    | _ => lcfg d .blCredit3 h
  let inf := bit w 31
  (if inf then fld w 0 15 else orIf0 (fld w 0 15) 1, inf)

/-- INF of the INIT that the device sends (Table 10-7): bit v of virtual channel v, and bit 1 always. -/
def infBits (d : Dev) (h : Nat) : Nat :=
  b2n (ownInit d h 0).2 + 2 + 4 * b2n (ownInit d h 2).2 + 8 * b2n (ownInit d h 3).2

/-- More link events (Table 10-19); a gang link has no counters. -/
def blCountN (d : Dev) (h k n : Nat) : Dev := if h < 8 then countN d .blErrCnt h k n else d

/-- One more link event. -/
def blCount (d : Dev) (h k : Nat) : Dev := blCountN d h k 1

/-! ### Frames on the wire (R4, R272 to R275) -/

/-- A record header (Table 10-2), in network byte order. -/
def recHead (ty vport tag len status word : Nat) : List Byte :=
  beBytes 1 ty ++ beBytes 1 vport ++ beBytes 2 tag ++ beBytes 2 len ++ beBytes 1 status ++ [0] ++ beBytes 8 word

/-- The header of a record that the device sends (Table 10-3). -/
def ORec.head : ORec → List Byte
  | .mrd tag vport iova len => recHead 0x10 vport tag len 0 iova
  | .mwr tag vport iova data => recHead 0x11 vport tag data.length 0 iova
  | .mbc tag vport status data => recHead 0x22 vport tag data.length status 0
  | .sig vport vec => recHead 0x31 vport 0 0 0 vec
  | .pong cookie => recHead 0x39 0 0 0 0 cookie.toNat
  | .gframe data => recHead 0x40 0 0 data.length 0 0

/-- Its data bytes. -/
def ORec.payload : ORec → List Byte
  | .mwr _ _ _ data => data
  | .mbc _ _ _ data => data
  | .gframe data => data
  | _ => []

/-- A record as sent (R274): header, data, zero bytes up to a multiple of 8. -/
def ORec.wire (r : ORec) : List Byte := r.head ++ r.payload ++ List.replicate (8 * ceilDiv r.payload.length 8 - r.payload.length) 0

/-- The link header of Table 10-1 with credit limits `cl`. -/
def linkHead (l : Link) (ftype : Nat) (nak : Bool) (seq ack : Nat) (cl : Nat → Nat) : List Byte :=
  beBytes 1 (0x10 + ftype) ++ beBytes 1 (b2n nak) ++ beBytes 2 seq ++ beBytes 2 ack ++ beBytes 1 l.epOwn ++ beBytes 1 (l.epPeer.getD 0)
    ++ (List.range 4).flatMap fun v => beBytes 2 (cl v % 2 ^ 16)

/-- A Bamura frame (R272): the device's addresses, the EtherType, the link header and its content, filled up to 60 bytes, and the FCS. -/
def bamuraFrame (l : Link) (content : List Byte) : List Byte :=
  let bs := beBytes 6 0x020000000001 ++ beBytes 6 0x020000000002 ++ beBytes 2 l.etype ++ content
  let bs := bs ++ List.replicate (60 - bs.length) 0
  bs ++ fcsOf bs

/-- ACK_SEQ of the frames that the device sends (R281). -/
def ackSeq (l : Link) : Nat := (l.nrx + 65535) % 65536

/-- A DATA or CONTROL frame leaves (R273, R279, R281): it carries ACK_SEQ, the credit limits, and a NAK that is due, which is counted at
k = 4 (Table 10-5). -/
def sendHead (d : Dev) (h ftype seq : Nat) (content : List Byte) : Dev :=
  let l := linkOf d h
  let d := if l.nakDue then blCount d h 4 else d
  let d := putLink d h { l with ackDue := none, nakDue := false, nakSent := l.nakSent || l.nakDue }
  emit d (.bamura h (bamuraFrame l (linkHead l ftype l.nakDue seq (ackSeq l) (fun v => mget l.own v 0) ++ content)))

/-- The body of an INIT frame (Table 10-7); on a gang link with ROLE 0x02 and the LINK_ID of R458. -/
def initBody (d : Dev) (h : Nat) : List Byte :=
  let l := linkOf d h
  let id := if h < 8 then Config.linkId h else d.ct.devId % 2 ^ 48 * 2 ^ 16 + cfgF d .ggCfg 0 0 0 12
  beBytes 1 (if l.holds then 2 else 1) ++ beBytes 1 (if h < 8 then 0 else 2) ++ beBytes 2 (if l.holds then l.nrx else 0)
    ++ beBytes 1 (infBits d h) ++ [0, 0, 0] ++ beBytes 8 id

/-- `a` is at or before `b` in sequence order modulo 2^16. -/
def seqLe (a b : Nat) : Bool := decide ((b + 65536 - a) % 65536 < 32768)

/-! ### Link states -/

/-- The link leaves ACTIVE (R286): its destination follows R246, and the ticks outside ACTIVE are counted. -/
def leaveActive (d : Dev) (h : Nat) : Dev :=
  if (linkOf d h).st = .active then
    let d := portLost (if h < 8 then d else setCur d .ggPeer (h - 8) 0 (setBit (cur d .ggPeer (h - 8) 0) 31 false)) (linkDest h) false
    let l := linkOf d h
    putLink d h { l with leftAt := some d.tick }
  else d

/-- Go to INIT (Table 10-8). -/
def toInit (d : Dev) (h : Nat) : Dev :=
  let d := leaveActive d h
  let l := linkOf d h
  putLink d h { l with st := .init, sentInit := false, gotInit := none, initAt := d.tick, ackDue := none, nakDue := false, replay := [] }

/-- Go to DOWN (Table 10-8). -/
def toDown (d : Dev) (h : Nat) : Dev :=
  let d := leaveActive d h
  let l := linkOf d h
  putLink d h { l with st := .down, sentInit := false, gotInit := none, ackDue := none, nakDue := false, replay := [] }

/-- End every request of a port as ABANDONED (R288): the outstanding ones are counted at k = 15. -/
def abandonAll (d : Dev) (h : Nat) : Dev :=
  let rs := (linkOf d h).reqs
  let n := (rs.filter fun r => r.tag.isSome).length
  let d := putLink d h { linkOf d h with reqs := [] }
  rs.foldl (fun d r => reqDone d h r .abandoned) (blCountN d h 15 n)

/-- An endpoint reset (R288, R327): counted once until the link is next ACTIVE. -/
def endpointReset (d : Dev) (h : Nat) : Dev :=
  if (linkOf d h).wasReset then d
  else
    let d := blCount d h 8
    let l := linkOf d h
    let d := putLink d h { l with wasReset := true, holds := false, sent := [], replay := [], outq := [], epPeer := none,
                                  sentInit := l.sentInit && !l.holds, gotInit := if l.holds then none else l.gotInit }
    let d := if h < 8 then orphanPort d h else d
    raise (abandonAll d h) 11

/-- ENDPOINT_LOST (R286): the link has been outside ACTIVE for ENDPOINT_LOST ticks. -/
def endpointLost (h : Nat) (d : Dev) : Dev :=
  let v := fld (lcfg d .blLost h) 0 22
  let lim := max 3125 (min v 3125000)
  let l := linkOf d h
  match l.leftAt with
  | some t => if t + lim ≤ d.tick then endpointReset (putLink d h { l with leftAt := none }) h else d
  | none => d

/-- LINK_ENTER_ACTIVE (R287): FRESH starts sequence numbers and credits, from those of the INIT sent; RESUME keeps them and replays from the endpoint's NRX. -/
def enterActive (h : Nat) (d : Dev) : Dev :=
  let l := linkOf d h
  match l.st, l.gotInit with
  | .init, some nrx =>
    if !l.sentInit then d
    else
      let l := { l with st := .active, gotInit := none, sentInit := false, leftAt := none, wasReset := false, nakSent := false }
      let d :=
        if l.holds then
          let sent := l.sent.filter fun f => !seqLe f.seq ((nrx + 65535) % 65536)
          blCount (putLink d h { l with sent := sent, replay := sent.map (·.seq) }) h 7
        else putLink d h { l with holds := true, next := 0, nrx := 0, sent := [], replay := [], cc := [], used := [] }
      portBack (if h < 8 then d else setCur d .ggPeer (h - 8) 0 (setBit (cur d .ggPeer (h - 8) 0) 31 true)) (linkDest h)
  | _, _ => d

/-- PCS_ALIGN (R286). -/
def pcsAlign (h : Nat) (d : Dev) : Dev :=
  let l := linkOf d h
  let d := putLink d h { l with aligned := true }
  if l.st = .down && linkEn d h && l.resetTill.isNone then toInit d h else d

/-- PCS_LOSS (R286). -/
def pcsLoss (h : Nat) (d : Dev) : Dev :=
  let d := putLink d h { linkOf d h with aligned := false }
  if (linkOf d h).st = .down then d else toDown d h

/-- The link follows ENABLE at a boundary, and ETYPE while it is DOWN (Table 10-9). -/
def linkSample (d : Dev) (h : Nat) : Dev :=
  let en := linkEn d h
  let l := linkOf d h
  let d := if !en && l.st ≠ .down then toDown d h
    else if en && l.st = .down && l.aligned && l.resetTill.isNone then toInit d h else d
  let l := linkOf d h
  if l.st = .down then putLink d h { l with etype := fld (lcfg d .blCfg h) 0 16 } else d

/-- INIT_SEND (R285): in INIT the device sends an INIT frame every 31 ticks, with the initial credits when FRESH and the current limits
when RESUME. -/
def initSend (h : Nat) (d : Dev) : Dev :=
  let l := linkOf d h
  if l.st = .init && decide (l.initAt ≤ d.tick) then
    let own : SMap Nat := if l.holds then l.own else (List.range 4).foldl (fun m v => mput m v (ownInit d h v).1 0) []
    let body := initBody d h
    let d := putLink d h { l with sentInit := true, initAt := d.tick + 31, own := own, ownInf := infBits d h }
    emit d (.bamura h (bamuraFrame l (linkHead l 2 false 0 0 (fun v => mget own v 0) ++ body)))
  else d

/-! ### Acknowledgement and replay -/

/-- An ACK_SEQ frees every frame up to it (R282). -/
def ackTo (l : Link) (a : Nat) : Link :=
  let sent := l.sent.filter fun f => !seqLe f.seq a
  { l with sent := sent, replay := l.replay.filter fun s => sent.any fun f => f.seq = s }

/-- Start a replay of every unacknowledged frame (R282), or take the link to INIT after REPLAY_MAX replays of the oldest. -/
def startReplay (d : Dev) (h : Nat) : Dev :=
  let l := linkOf d h
  match l.sent with
  | [] => d
  | f :: _ =>
    if orIf0 (fld (lcfg d .blReplay h) 24 4) 1 ≤ f.replays then toInit d h
    else putLink d h { l with replay := l.sent.map (·.seq) }

/-- REPLAY_TIMEOUT (R282): a replay that it starts is counted at k = 6. -/
def replayTimeout (h : Nat) (d : Dev) : Dev :=
  let l := linkOf d h
  let lim := max 32 (min 2000 (fld (lcfg d .blReplay h) 0 11))
  match l.sent with
  | [] => d
  | f :: _ =>
    if l.st = .active && l.replay.isEmpty && decide (f.last + lim ≤ d.tick) then
      let d := startReplay d h
      if (linkOf d h).st = .active then blCount d h 6 else d
    else d

/-- The header of a DATA or CONTROL frame (R273, R277, R281, R282, R284): a frame of another epoch is discarded and takes the link to
INIT; otherwise ACK_SEQ, NAK and credit limits are taken. The answer says whether the frame is good. -/
def takeHdr (d : Dev) (h : Nat) (x : BlHdr) : Dev × Bool :=
  let l := linkOf d h
  if l.st ≠ .active then (d, false)
  else if l.epPeer ≠ some x.epOwn.toNat ∨ x.epPeer.toNat ≠ l.epOwn then (toInit (blCount d h 10) h, false)
  else
    let cl := mput (mput (mput (mput l.cl 0 x.cl0.toNat 0) 1 x.cl1.toNat 0) 2 x.cl2.toNat 0) 3 x.cl3.toNat 0
    let d := putLink d h { ackTo l x.ackSeq.toNat with cl := cl }
    if x.nak then
      let d := startReplay (blCount d h 5) h
      (d, decide ((linkOf d h).st = .active))
    else (d, true)

/-- CONTROL_FRAME_RECEIVE (R273). -/
def controlFrame (h : Nat) (x : BlHdr) (d : Dev) : Dev := (takeHdr d h x).1

/-! ### Gang frames (R459, R460) -/

/-- Drop a gang frame with a count at `k`. -/
def gangDrop (d : Dev) (k : Nat) : Dev := count d .ggEvtCnt k 0

/-- The next hop of a transit frame: the ring port of DIR, or the route (R460). -/
def gangHop (d : Dev) (dir dst : Nat) : Option Nat :=
  let w := cfg d .ggRing 0 0
  let r := cfg d .ggRoute dst 0
  let usable (n : Nat) : Option Nat := if cfgB d .ggPort 0 0 n then some n else none
  if dir = 1 then (if bit w 4 then usable (fld w 0 4) else none)
  else if dir = 2 then (if bit w 12 then usable (fld w 8 4) else none)
  else if dir = 0 ∧ bit r 31 then usable (fld r 0 4) else none

/-- GANG_FRAME_RECEIVE (R460): a gang frame without FCS on gang link `n`. -/
def gangReceive (n : Nat) (bs : List Byte) (d : Dev) : Dev :=
  let w (o : Nat) : Nat := beNat (sliceD 0 bs o 2)
  let own := cfgF d .ggCfg 0 0 0 12
  let dir := (bs.getD 8 0).toNat % 4
  if !cfgB d .ggCfg 0 0 31 then d
  else if w 6 % 4096 = 0 then gangDrop d 0
  else if w 2 % 4096 = own then
    let inner := bs.drop 16
    let md : DWord := BitVec.ofNat 64 (6 * 2 ^ 60 + beNat (sliceD 0 bs 12 4) * 2 ^ 13 + b2n ((bs.getD 8 0).toNat.testBit 2) * 2 ^ 12
      + w 4 % 4096)
    let f := Frame.wholeFrame n (inner ++ fcsOf inner)
    let r := takeFrame d { f with bkt := some (w 10 % 4096), md := md }
    match r.2 with
    | some id => parsePresent id r.1
    | none => r.1
  else if w 4 % 4096 = own then gangDrop d 3
  else match gangHop d dir (w 2 % 4096) with
    | none => gangDrop d 1
    | some hop =>
      if dir = 0 ∧ hop = n then gangDrop d 2
      else
        let bs := overwrite bs 6 (beBytes 2 (w 6 - 1))
        let r := takeFrame d { Frame.wholeFrame n (bs ++ fcsOf bs) with st := .cipher }
        match r.2 with
        | some id =>
          let t : Transit := ⟨id, hop, (bs.getD 9 0).toNat % 8, w 10 % 4096⟩
          { r.1 with ct := { r.1.ct with transit := r.1.ct.transit ++ [t] } }
        | none => r.1

/-- The transit frames of the last tick are admitted to their next hops, colour green (R460), with their egress mirror copies (R268). -/
def gangTransit (d : Dev) : Dev :=
  let ts := d.ct.transit
  ts.foldl (fun d t =>
    match frameOf d t.frame with
    | none => d
    | some f =>
      let c := Copy.start t.frame f.input t.dest t.cls (cellsOf f.bytes.length) (cellsOf f.bytes.length) 0 .transit
      let d := putFrame d t.frame (some { f with released := true })
      let ms := membersOf d t.dest
      let (d, c) := if 1 < ms.length then
          let r := bondPin d f.input t.bucket t.dest
          (r.1, { c with dest := r.2, pin := some t.bucket })
        else (d, c)
      let x := admitCopy d c 0 false
      let sk : Skein := { input := f.input, len := f.bytes.length, cls := t.cls, bucket := t.bucket, sel := 0, seq := 0, pflags := 0, md := 0,
                          hv := [], frame := t.frame }
      reapFrame (egressMirrors x.1 ⟨sk, f⟩ x.2.toList) t.frame) { d with ct := { d.ct with transit := [] } }

/-! ### Records -/

/-- Whether a record is well formed (R276, Table 10-3); a gang link carries PING, PONG and GFRAME only (R458); a PONG there answers no PING of this device and has no effect. -/
def recOk (gang : Bool) (r : BlRec) : Bool :=
  let len := r.len.toNat
  let plain := decide (r.status = 0) && decide (r.rflags = 0)
  let noTag := decide (r.tag = 0)
  let mbTag := decide (r.tag.toNat < 256)
  let off := decide (r.word.toNat < 4096)
  decide (r.data.length = recDataLen r.ty.toNat len) &&
  let ty := r.ty.toNat
  let known := if gang then decide (ty = 0x38) || decide (ty = 0x39) || decide (ty = 0x40) else decide (ty ≠ 0x39) && decide (ty ≠ 0x40)
  known && match ty with
  | 0x40 => noTag && decide (76 ≤ len) && decide (len ≤ 4096) && plain && decide (r.vport = 0) && decide (r.word = 0)
  | 0x12 => mbTag && decide (len = 8) && plain && off
  | 0x13 => mbTag && (decide (len = 4) || decide (len = 8)) && plain && off
  | 0x20 => decide (len ≤ 4096) && decide (r.status.toNat < 16) && decide (r.rflags.toNat < 2) && decide (r.word.toNat < 8192)
  | 0x21 => decide (len = 0) && decide (r.status.toNat < 16) && decide (r.rflags = 0) && decide (r.word = 0)
  | 0x30 => noTag && decide (len = 0) && plain
  | 0x38 | 0x39 => noTag && decide (len = 0) && plain && decide (r.vport = 0)
  | 0x3A => noTag && decide (len = 0) && plain && decide (r.vport = 0) && decide (r.word = 0)
  | _ => false

/-- The credits that records consume, by virtual channel, added to those already used. -/
def useCredits (used : SMap Nat) (recs : List BlRec) : SMap Nat :=
  recs.foldl (fun m r => match recVc r.ty.toNat with
    | some v => mput m v (mget m v 0 + recCost (recDataLen r.ty.toNat r.len.toNat)) 0
    | none => m) used

/-- Whether records stay within the credit that the device has advertised (R276, R277); VC1 has infinite credit (R278). -/
def creditOk (d : Dev) (h : Nat) (used : SMap Nat) : Bool :=
  (List.range 4).all fun v => decide (v = 1) || (linkOf d h).ownInf.testBit v || decide (mget used v 0 ≤ mget (linkOf d h).own v 0)

/-- The request of a tag. -/
def reqOfTag (l : Link) (tag : Nat) (write : Bool) : Option Req :=
  l.reqs.find? fun r => decide (r.write = write) && match r.tag with
    | some (n, g, _) => decide (n = tag % 8192 ∧ g = tag / 8192)
    | none => false

/-- Take a request out of the list. -/
def dropReq (d : Dev) (h : Nat) (r : Req) : Dev :=
  let l := linkOf d h
  putLink d h { l with reqs := l.reqs.filter fun q => q.tag ≠ r.tag }

/-- A completion for no outstanding request (R292). -/
def strayTag (d : Dev) (h tag : Nat) : Dev :=
  blCount d h (if (tag % 8192, tag / 8192) ∈ (linkOf d h).timedOut then 12 else 13)

/-- CPL_RECORD (R290, R292, R294). -/
def cplRecord (h : Nat) (x : BlRec) (d : Dev) : Dev :=
  let l := linkOf d h
  match reqOfTag l x.tag.toNat false with
  | none => strayTag d h x.tag.toNat
  | some r =>
    let last := bit x.rflags 0
    let st := x.status.toNat % 16
    let n := r.got.length + x.data.length
    if st ≠ 0 then
      if last && x.data.isEmpty then reqDone (blCount (dropReq d h r) h 14) h r (.status st)
      else reqDone (blCount (dropReq d h r) h 9) h r (.status 4)
    else if x.word.toNat % 8192 ≠ r.got.length ∨ r.len < n ∨ (last ∧ n ≠ r.len) ∨ (!last ∧ (r.iova + n) % 64 ≠ 0) then
      reqDone (blCount (dropReq d h r) h 9) h r (.status 4)
    else if last then reqDone (dropReq d h r) h r (.ok (r.got ++ x.data))
    else putLink d h { l with reqs := l.reqs.map fun q => if q.tag = r.tag then { q with got := q.got ++ x.data } else q }

/-- WACK_RECORD (R291, R292, R294). -/
def wackRecord (h : Nat) (x : BlRec) (d : Dev) : Dev :=
  let l := linkOf d h
  match reqOfTag l x.tag.toNat true with
  | none => strayTag d h x.tag.toNat
  | some r =>
    let st := x.status.toNat % 16
    if st ≠ 0 then reqDone (blCount (dropReq d h r) h 14) h r (.status st)
    else reqDone (dropReq d h r) h r (.ok [])

/-- CPL_TIMEOUT (R292, R293): every request whose time has run out; its number's GEN rises. -/
def cplTimeouts (h : Nat) (d : Dev) : Dev :=
  (linkOf d h).reqs.foldl (fun d r => match r.tag with
    | some (n, g, dl) =>
      if dl ≤ d.tick && (linkOf d h).reqs.any (fun q => q.tag = r.tag) then
        let d := blCount (dropReq d h r) h 11
        let l := linkOf d h
        let d := putLink d h { l with gens := mput l.gens n ((g + 1) % 8) 0, timedOut := (n, g) :: l.timedOut }
        reqDone d h r .timeout
      else d
    | none => d) d

/-- DB, MBR and MBW records are acted on at the next boundary, in acceptance order (R299, R313). -/
def hostRecord (h : Nat) (x : BlRec) (d : Dev) : Dev :=
  let l := linkOf d h
  putLink d h { l with hostq := l.hostq ++ [x] }

/-- PING_RECORD (R298). -/
def pingRecord (h : Nat) (x : BlRec) (d : Dev) : Dev := queueRec d h (.pong x.word)

/-- RESET_NOTICE (R286, R288, R298). -/
def resetNotice (h : Nat) (d : Dev) : Dev :=
  if (linkOf d h).st = .active then endpointReset (toInit d h) h else d

/-- Act on one accepted record. -/
def actRecord (h : Nat) (d : Dev) (x : BlRec) : Dev :=
  match x.ty.toNat with
  | 0x12 | 0x13 | 0x30 => hostRecord h x d
  | 0x20 => cplRecord h x d
  | 0x21 => wackRecord h x d
  | 0x38 => pingRecord h x d
  | 0x3A => resetNotice h d
  | 0x40 => gangReceive (h - 8) x.data d
  | _ => d

/-- An acknowledgement is due (R279, R281). -/
def ackWanted (d : Dev) (h : Nat) : Dev :=
  let l := linkOf d h
  putLink d h { l with ackDue := some (l.ackDue.getD d.tick) }

/-- DATA_FRAME_RECEIVE (R276, R280, Table 10-5). -/
def dataFrame (h : Nat) (x : BlHdr) (recs : List BlRec) (pastEnd : Bool) (d : Dev) : Dev :=
  let (d, good) := takeHdr d h x
  if !good then d
  else
    let l := linkOf d h
    let dist := (l.nrx + 65536 - x.seq.toNat) % 65536
    if dist = 0 then
      let used := useCredits l.used recs
      let ok := !pastEnd && recs.all (recOk (decide (8 ≤ h))) && creditOk d h used
      let own := (List.range 4).foldl (fun m v =>
        mput m v (mget m v 0 + (mget used v 0 - mget l.used v 0)) 0) l.own
      let d := putLink d h { l with nrx := (l.nrx + 1) % 65536, nakSent := false, used := used, own := own }
      let d := ackWanted d h
      if ok then recs.foldl (actRecord h) d else raise (blCount d h 9) 10
    else if dist ≤ 32768 then ackWanted (blCount d h 2) h
    else
      let d := blCount d h 3
      if l.nakSent then d else putLink d h { linkOf d h with nakDue := true }

/-- A change of DEV_ID takes every gang link to INIT with kind FRESH (R463). -/
def gangReinit (d : Dev) : Dev :=
  (List.range 16).foldl (fun d n =>
    let h := 8 + n
    let l := linkOf d h
    if l.st = .down then d
    else
      let d := toInit d h
      putLink d h { linkOf d h with holds := false, sent := [], replay := [], epPeer := none }) d

/-- INIT_FRAME_RECEIVE (R284, R286 to R288): one of another epoch in ACTIVE is discarded. One that shows an endpoint reset brings no more than
that: the new epoch is recorded from the next INIT. -/
def initFrame (h : Nat) (x : BlHdr) (b : BlInit) (d : Dev) : Dev :=
  if (linkOf d h).st = .down then d
  else if (linkOf d h).st = .active ∧ ((linkOf d h).epPeer ≠ some x.epOwn.toNat ∨ x.epPeer.toNat ≠ (linkOf d h).epOwn) then
    toInit (blCount d h 10) h
  else
    let d := if (linkOf d h).st = .active then toInit d h else d
    if b.role.toNat ≠ (if h < 8 then 1 else 2) then d
    else
      let l := linkOf d h
      let fresh := decide (b.kind = 1)
      let inRange := match l.sent with
        | [] => decide (b.nrx.toNat = l.next)
        | f :: _ => decide ((b.nrx.toNat + 65536 - f.seq) % 65536 ≤ (l.next + 65536 - f.seq) % 65536)
      let isReset := (fresh && l.holds) || (match l.epPeer with | some e => decide (e ≠ x.epOwn.toNat) | none => false)
        || (decide (b.kind = 2) && !inRange)
      let first := isReset && !l.wasReset
      let d := if isReset then endpointReset d h else d
      let d := if h < 8 then
          setCur (setCur d .blPeerIdLo h 0 (BitVec.ofNat 32 b.linkId.toNat)) .blPeerIdHi h 0 (BitVec.ofNat 32 (b.linkId.toNat / 2 ^ 32))
        else setCur d .ggPeer (h - 8) 0 (setFld (cur d .ggPeer (h - 8) 0) 0 12 b.linkId.toNat)
      let l := linkOf d h
      let l := { l with epPeer := if first then none else some x.epOwn.toNat }
      if first then putLink d h l
      else if decide (fresh = !l.holds) && (fresh || decide (b.kind = 2)) && decide (x.epPeer.toNat = l.epOwn) then
        let cl := mput (mput (mput (mput l.cl 0 x.cl0.toNat 0) 1 x.cl1.toNat 0) 2 x.cl2.toNat 0) 3 x.cl3.toNat 0
        putLink d h { l with gotInit := some b.nrx.toNat, cl := cl, inf := b.inf.toNat % 16 }
      else putLink d h l

/-! ### Sending -/

/-- Whether a record of `n` credits may go on a virtual channel (R277, R278): VC1 has infinite credit in both directions. -/
def mayUse (l : Link) (v n : Nat) : Bool :=
  decide (v = 1) || l.inf.testBit v || decide ((mget l.cl v 0 + 2 * 65536 - mget l.cc v 0 % 65536 - n) % 65536 < 32768)

/-- The next free tag number. -/
def freeTag (l : Link) : Option Nat :=
  let used := l.reqs.filterMap fun r => r.tag.map (·.1)
  (List.range (used.length + 1)).find? fun n => decide (n < 8192) && !decide (n ∈ used)

/-- Whether an MRD would cover bytes that an outstanding MWR of the same vport covers (R289). -/
def overlapsWrite (l : Link) (r : Req) : Bool :=
  !r.write && l.reqs.any fun w => w.write && w.tag.isSome && decide (w.vport = r.vport)
    && decide (w.iova < r.iova + r.len) && decide (r.iova < w.iova + w.len)

/-- CPL_TIMEOUT in ticks, clamped (Table 10-11). -/
def cplLimit (d : Dev) (h : Nat) : Nat := max 1563 (min 2000000 (fld (lcfg d .blCplTimeout h) 0 21))

/-- In sag a host port sends at most SAG_READS MRD records in a tick (R444). -/
def sagHeld (d : Dev) (h : Nat) : Bool :=
  d.pw.sag && decide (min 16 (orIf0 (cfgF d .pwSagCfg 0 0 0 5) 1) ≤ mget d.pw.sagReads h 0)

/-- Requests outstanding on a pool bobbin. -/
def bobLoad (d : Dev) (b : Nat) : Nat :=
  d.hp.links.foldl (fun n e => n + (e.2.reqs.filter fun r => r.tag.isSome && decide (r.bob = some b)).length) 0

/-- The pool bobbin that a request draws (R330): one with fewer than 64 requests outstanding; which one is not stated. -/
def poolPick (d : Dev) (r : Req) : Option Nat :=
  let n := min 1024 (cfgF d .bbCfg 0 0 0 11)
  let at_ (k : Nat) : Nat := n + (Config.poolBobbin d.tick r.iova + k) % (1024 - n)
  ((List.range (1024 - n)).find? fun k => decide (bobLoad d (at_ k) < 64)).map at_

/-- Whether a request may draw its bobbin: a software bobbin's is there; all others are the pool's, for send fetching, receiving and the
block service (R330). -/
def reqGoes (d : Dev) (r : Req) : Bool :=
  match r.who with
  | .bobbin _ _ => true
  | _ => (poolPick d r).isSome

/-- Give the first waiting request that has a bobbin its tag and make its record; none where it has to wait. -/
def takeReq (d : Dev) (h : Nat) : Option (Dev × ORec) :=
  let l := linkOf d h
  match l.reqs.find? fun r => r.tag.isNone && reqGoes d r with
  | none => none
  | some r =>
    if overlapsWrite l r || (!r.write && sagHeld d h) then none
    else match freeTag l with
      | none => none
      | some n =>
        let g := mget l.gens n 0
        let pre := l.reqs.takeWhile fun q => !(q.tag.isNone && reqGoes d q)
        let bob : Option Nat := match r.who with
          | .bobbin _ _ => none
          | _ => poolPick d r
        let r' := { r with bob := bob, tag := some (n, g, d.tick + cplLimit d h) }
        let l := { l with reqs := pre ++ r' :: (l.reqs.drop (pre.length + 1)), timedOut := l.timedOut.filter fun t => t ≠ (n, g) }
        let d := putLink d h l
        let w := cur d .blTags h 0
        let cnt := (l.reqs.filter fun q => q.tag.isSome).length
        let d := if h < 8 then setCur d .blTags h 0 (setFld w 16 14 (max (fld w 16 14) cnt)) else d
        let d := if r.write then d else { d with pw := { d.pw with sagReads := mput d.pw.sagReads h (mget d.pw.sagReads h 0 + 1) 0 } }
        some (d, if r.write then .mwr (8192 * g + n) r.vport r.iova r.data else .mrd (8192 * g + n) r.vport r.iova r.len)

/-- Take the next record of a virtual channel, with its credit. -/
def takeRec (d : Dev) (h v : Nat) : Option (Dev × ORec) :=
  let pay (d : Dev) (r : ORec) : Option (Dev × ORec) :=
    let l := linkOf d h
    let n := recCost r.payload.length
    if mayUse l v n then some (putLink d h { l with cc := mput l.cc v (mget l.cc v 0 + n) 0 }, r) else none
  if v = 0 ∧ h < 8 then match takeReq d h with
    | none => none
    | some (d, r) => pay d r
  else
    let l := linkOf d h
    match l.outq.find? fun r => r.vc = v with
    | none => none
    | some r => pay (putLink d h { l with outq := l.outq.erase r }) r

/-- Take records in the order of their channels. -/
def takeRecs (h : Nat) : List (Fin 4) → Dev → Option (Dev × List ORec)
  | [], d => some (d, [])
  | v :: vs, d =>
    match takeRec d h v.val with
    | none => none
    | some (d, r) => match takeRecs h vs d with
      | none => none
      | some (d, rs) => some (d, r :: rs)

/-- DATA_FRAME_SEND (R277, R282, R283): the next frame of a replay; else a new frame of records, the next of each named channel, if
credit, replay-buffer room and sequence space allow. -/
def dataFrameSend (h : Nat) (vcs : List (Fin 4)) (d : Dev) : Dev :=
  let l := linkOf d h
  if l.st ≠ .active then d
  else match l.replay with
    | s :: rest =>
      match l.sent.find? fun f => f.seq = s with
      | none => putLink d h { l with replay := rest }
      | some f =>
        let d := putLink d h { l with replay := rest, sent := l.sent.map fun g =>
          if g.seq = s then { g with last := d.tick, replays := g.replays + 1 } else g }
        sendHead d h 0 s (f.recs.flatMap ORec.wire)
    | [] =>
      match takeRecs h vcs d with
      | none => d
      | some (d2, recs) =>
        let size := recs.foldl (fun n r => n + recSize r.payload.length) 0
        let room := 64 * ceilDiv (16 + size) 64
        if recs.isEmpty ∨ 4126 < size ∨ 524288 < l.sent.foldl (fun n f => n + f.bytes) 0 + room ∨ 32767 ≤ l.sent.length then d
        else
          let l := linkOf d2 h
          let snt := l.sent ++ [⟨l.next, recs, room, d2.tick, 0⟩]
          sendHead (putLink d2 h { l with next := (l.next + 1) % 65536, sent := snt }) h 0 l.next (recs.flatMap ORec.wire)

/-- ACK_SEND (R279, R281): a header carrying ACK_SEQ and the credit limits, or a NAK. -/
def ackSend (h : Nat) (d : Dev) : Dev :=
  let l := linkOf d h
  if l.st = .active && (l.ackDue.isSome || l.nakDue) then sendHead d h 1 0 [] else d

/-- An acknowledgement that has waited ACK_INTERVAL is sent (R281). -/
def ackTick (d : Dev) (h : Nat) : Dev :=
  let l := linkOf d h
  let lim := orIf0 (fld (lcfg d .blCfg h) 16 5) 1
  match l.ackDue with
  | some t => if t + lim ≤ d.tick then ackSend h d else d
  | none => if l.nakDue then ackSend h d else d

/-- SIG_SEND (R297): a queued SIG goes out at once in a DATA frame of its own, where the link allows one. -/
def sigSend (h vport vec : Nat) (d : Dev) : Dev :=
  if (linkOf d h).outq.find? (fun r => r.vc = 2) = some (.sig vport vec) then dataFrameSend h [2] d else d

/-! ### Received frames -/

/-- Header of a Bamura frame, from its bytes (Table 10-1). -/
def parseHdr (b : List Byte) : BlHdr :=
  let n16 (o : Nat) : BitVec 16 := BitVec.ofNat 16 (beNat (sliceD 0 b o 2))
  ⟨bit (b.getD 1 0) 0, n16 2, n16 4, b.getD 6 0, b.getD 7 0, n16 8, n16 10, n16 12, n16 14⟩

/-- Records from the bytes after the link header (R274); the flag says that one ran past the end. -/
def parseRecs : Nat → List Byte → List BlRec × Bool
  | 0, _ => ([], false)
  | fuel + 1, b =>
    if b.length < 16 ∨ b.getD 0 0 = 0 then ([], false)
    else
      let n (o k : Nat) : Nat := beNat (sliceD 0 b o k)
      let dl := recDataLen (n 0 1) (n 4 2)
      let size := recSize dl
      let r : BlRec := ⟨b.getD 0 0, b.getD 1 0, BitVec.ofNat 16 (n 2 2), BitVec.ofNat 16 (n 4 2), b.getD 6 0, b.getD 7 0,
        BitVec.ofNat 64 (n 8 8), (b.drop 16).take dl⟩
      if b.length < size then ([r], true)
      else
        let rest := parseRecs fuel (b.drop size)
        (r :: rest.1, rest.2)

/-- BL_FRAME_RECEIVE (R272, R273): the frame, with its FCS, is checked and handed to its type's rule. -/
def blFrame (h : Nat) (bytes : List Byte) (fcsOk : Bool) (d : Dev) : Dev :=
  let l := linkOf d h
  if !fcsOk || decide (bytes.length < 64) then blCount d h 0
  else if beNat (sliceD 0 bytes 12 2) ≠ l.etype ∨ 4160 < bytes.length then blCount d h 1
  else
    let b := (bytes.take (bytes.length - 4)).drop 14
    let v := (b.getD 0 0).toNat
    if v / 16 ≠ 1 ∨ 2 < v % 16 then blCount d h 9
    else
      let x := parseHdr b
      match v % 16 with
      | 0 =>
        let r := parseRecs 260 (b.drop 16)
        dataFrame h x r.1 (r.2 || r.1.isEmpty) d
      | 1 => controlFrame h x d
      | _ =>
        let body := b.drop 16
        initFrame h x ⟨body.getD 0 0, body.getD 1 0, BitVec.ofNat 16 (beNat (sliceD 0 body 2 2)), body.getD 4 0,
          BitVec.ofNat 64 (beNat (sliceD 0 body 8 8))⟩ d

end Sys2Proof.Machine
end

