-- ==== Sys2Proof/Machine/Power.lean ====
section
/-! DEFINITION. Power domains, the gust limiter and sag (R437 to R445). -/

namespace Sys2Proof.Machine

/-- Set the state of a domain. -/
def setDomSt (d : Dev) (p v : Nat) : Dev := { d with pw := { d.pw with st := mput d.pw.st p v 0 } }

/-- Rail of a domain: 0 VDD_CORE_A, 1 VDD_CORE_B (Table 16-3). -/
def domRail (p : Nat) : Nat := if p ≤ 16 ∨ (33 ≤ p ∧ p ≤ 36) then 0 else 1

/-- Restore time of a domain in ticks (Table 16-3). -/
def domRestore (p : Nat) : Nat := if 33 ≤ p ∧ p ≤ 40 then 16 else 32

/-- Request a wake (R441): a domain that has an entry, or is WAKING or AWAKE, adds nothing. -/
def wakeReq (p : Nat) (d : Dev) : Dev :=
  if domSt d p ≤ 1 then d
  else
    let d := setDomSt d p 1
    { d with pw := { d.pw with fifo := d.pw.fifo ++ [(p, d.tick)] } }

/-- Whether a vdisk with HOME x is VALID. -/
def homeVd (d : Dev) (x : Nat) : Bool := d.bs.vd.any fun e => vdValid e.2 && decide (vdHome e.2 = x)

/-- Whether any vdisk is VALID. -/
def anyVd (d : Dev) : Bool := d.bs.vd.any fun e => vdValid e.2

/-- Whether every storage connection is CLOSED or FAILED. -/
def connsDown (d : Dev) : Bool := d.bs.conns.all fun e => decide (e.2.st = .closed) || decide (e.2.st = .failed)

/-- Whether a cipher cluster holds a frame. -/
def clusterHolds (d : Dev) (c : Nat) : Bool :=
  if c < 4 then (allFrames d).any fun e => decide (e.2.st = .cipher) && decide (e.2.input < 16) && decide (e.2.input / 4 = c)
  else !(mget d.ci.eq c []).isEmpty

/-- The part of a domain's condition in Table 16-3 that its present state decides (R438). -/
def sleepState (d : Dev) (p : Nat) : Bool :=
  if p < 33 then
    let x := reelOf d p
    decide (x.st = .off) || decide (x.st = .retired) || decide (x.st = .failed) || (decide (x.st = .admitted) && decide (x.pkt = 0))
  else if p < 41 then !cfgB d .npPortCfg ((p - 33) % 4) 0 8 && !homeVd d ((p - 33) % 4)
  else !anyVd d && connsDown d

/-- Whether a service thread lets its reel sleep: it waits without a timeout, or is FAULTED, is not halted, and has no line pending in
its mask (Table 16-3). -/
def threadRests (d : Dev) (k : Nat) : Bool :=
  let t := thrOf d k
  !t.dbg.halted && (t.dbg.faulted || match t.run with
    | .waiting mask none => (List.range 64).all fun l => !(linePending d k l && inMask d k mask l)
    | _ => false)

/-- Whether a domain meets its condition (Table 16-3). -/
def sleepCond (d : Dev) (p : Nat) : Bool :=
  sleepState d p &&
  if p < 33 then decide ((reelOf d p).st ≠ .admitted) || (reelThreads p).all (threadRests d)
  else if p < 41 then !clusterHolds d (p - 33)
  else true

/-- DOMAIN_SLEEP_REQUEST (R438): SLEEP is set, or the request is refused and counted at k = 2. -/
def sleepRequest (p : Nat) (d : Dev) : Dev :=
  if sleepState d p then
    let w := setBit (cur d .pwDomCtl p 0) 0 true
    let d := setCur d .pwDomCtl p 0 w
    { d with regs := { d.regs with dirty := addr .pwDomCtl p 0 :: d.regs.dirty } }
  else count (flag d .pwDomCtl p 0 16 true) .pwEvtCnt 2 0

/-- What a domain that enters OFF loses (R438). -/
def domLose (d : Dev) (p : Nat) : Dev :=
  if p < 33 then
    let x := reelOf d p
    putReel d p { Reel.reset with st := x.st, pend := x.pend }
  else if p < 41 then
    let c := p - 33
    (List.range 14).foldl (fun d k => setCur d .ciDropCnt c k 0) (setBoth d .ciClCfg c 0 (resetOf .ciClCfg false))
  else
    let lo := 0x1C00000
    let regs := { d.regs with cur := mdelRange d.regs.cur lo (lo + 0x200000), act := mdelRange d.regs.act lo (lo + 0x200000) }
    { d with regs := regs, bs := { Bs.reset with kept := d.bs.kept, ipId := d.bs.ipId } }

/-- DOMAIN_SLEEP_ENTRY (R438): a domain with SLEEP 1 that meets its condition goes to sleep. -/
def sleepEntry (p : Nat) (d : Dev) : Dev :=
  if cfgB d .pwDomCtl p 0 0 && awake d p && sleepCond d p then
    if p < 33 && decide ((reelOf d p).st = .admitted) then setDomSt d p 2 else setDomSt (domLose d p) p 3
  else d

/-- Whether a sleeping or OFF domain is to wake (R439, R440): SLEEP is 0, a reel command waits, a line is pending in the mask of a member
thread, or the condition has stopped holding. -/
def wakeWanted (d : Dev) (p : Nat) : Bool :=
  decide (2 ≤ domSt d p) && (!cfgB d .pwDomCtl p 0 0 || d.pw.cmds.any (fun x => x.1 = p) ||
    (if p < 33 then decide (domSt d p = 2) && !(reelThreads p).all (threadRests d) else !sleepCond d p))

/-- WAKE_REQUEST (R440): a write of SLEEP = 0 has taken effect at the boundary just passed, and the wake is queued. -/
def wakeWrite (p : Nat) (d : Dev) : Dev := wakeReq p (setBoth d .pwDomCtl p 0 (setBit (cur d .pwDomCtl p 0) 0 false))

/-- GUST_ADMIT (R441): the oldest entry whose rail is free is admitted, outside sag. -/
def gustAdmit (d : Dev) : Dev :=
  if d.pw.sag then d
  else match d.pw.fifo.find? fun e => decide (mget d.pw.rail (domRail e.1) 0 ≤ d.tick) with
    | none => d
    | some e =>
      let pw := { d.pw with
        fifo := d.pw.fifo.filter fun x => decide (x.1 ≠ e.1),
        rail := mput d.pw.rail (domRail e.1) (d.tick + 63) 0,
        ramps := mput d.pw.ramps e.1 (some (e.2, d.tick + 63 + domRestore e.1)) none }
      count { d with pw := pw } .pwEvtCnt 1 0

/-- DOMAIN_AWAKE (R441): the restore time is over. -/
def domAwake (p : Nat) (d : Dev) : Dev :=
  match mget d.pw.ramps p none with
  | some (req, t) =>
    if t ≤ d.tick then
      let d := setDomSt d p 0
      { d with pw := { d.pw with ramps := mput d.pw.ramps p none none, maxWake := min 0xFFFF (max d.pw.maxWake (d.tick - req)) } }
    else d
  | none => d

/-- A reel command (Table 2-15): for a reel that is not AWAKE it is held, which requests a wake at the boundary, and acts once the reel is
AWAKE (R439). -/
def reelCommand (r cmd : Nat) (d : Dev) : Dev :=
  if awake d r || cmd = 0 then reelCmd r cmd d else { d with pw := { d.pw with cmds := d.pw.cmds ++ [(r, cmd)] } }

/-- Commands of reels that have become AWAKE. -/
def heldReelCmds (d : Dev) : Dev :=
  let due := d.pw.cmds.filter fun x => awake d x.1
  let d := { d with pw := { d.pw with cmds := d.pw.cmds.filter fun x => !awake d x.1 } }
  due.foldl (fun d x => reelCmd x.1 x.2 d) d

/-- A rail has a gust-limiter ramp in progress (R483). -/
def railRamps (d : Dev) (rail : Nat) : Bool := decide (d.tick < mget d.pw.rail rail 0)

/-- SAG_ENTRY (R443, R445): a rail has fallen below the warning level; SAG is raised once per episode. -/
def sagEntry (d : Dev) : Dev :=
  if d.pw.sag then { d with pw := { d.pw with sagOver := none } }
  else
    let w := setBit (BitVec.ofNat 64 (d.tick % 2 ^ 32) : DWord) 63 true
    let d := setCur64 d .pwSagStatus 0 0 (setFld w 32 31 (fld (cur64 d .pwSagStatus 0 0) 32 31))
    raise { d with pw := { d.pw with sag := true, sagOver := none } } 22

/-- SAG_EXIT (R443): both rails have stayed above the recovery level for 10 µs; sag ends at the next boundary. -/
def sagExit (belowNs : Nat) (d : Dev) : Dev :=
  if d.pw.sag then { d with pw := { d.pw with sagOver := some belowNs } } else d

/-- The end of sag at a boundary (R443, R445). -/
def sagBoundary (d : Dev) : Dev :=
  let d := { d with pw := { d.pw with sagReads := [] } }
  match d.pw.sagOver with
  | none => d
  | some ns =>
    let w := setFld (setBit (cur64 d .pwSagStatus 0 0) 63 false) 32 31 (min ns (2 ^ 31 - 1))
    count { setCur64 d .pwSagStatus 0 0 w with pw := { d.pw with sag := false, sagOver := none } } .pwEvtCnt 0 0

/-- The domains at a boundary: those whose restore ends are AWAKE and take held commands, wakes are requested, one entry is admitted,
domains go to sleep. -/
def powerBoundary (d : Dev) : Dev :=
  let d := sagBoundary d
  let d := (mkeys d.pw.ramps).foldl (fun d p => domAwake p d) d
  let d := heldReelCmds d
  let d := (mkeys d.pw.st).foldl (fun d p => if wakeWanted d p then wakeReq p d else d) d
  let d := gustAdmit d
  (List.range 42).foldl (fun d p => if cfgB d .pwDomCtl p 0 0 then sleepEntry p d else d) d

end Sys2Proof.Machine
end

