-- ==== Sys2Proof/Machine/Tables.lean ====
section
/-! DEFINITION. The forwarding tables (chapter 7): placement (R184 to R188), entries and shadow words (R189, R190, R218), lookups
(R202, R204 to R206, R217), learn rings (R198, R199). -/

namespace Sys2Proof.Machine

/-! ### Slots and entries -/

/-- Way slots of a table (Table 7-1). -/
def wayCount (t : Nat) : Nat := [262144, 131072, 65536, 65536, 131072].getD t 0

/-- CAM slots of a table (Table 7-1). -/
def camCount (t : Nat) : Nat := [1024, 256, 256, 256, 1024].getD t 0

/-- All slots of a table. -/
def slotCount (t : Nat) : Nat := wayCount t + camCount t

/-- Key words of an entry of a table (Table 7-3). -/
def keyWords (t : Nat) : Nat := [1, 1, 3, 1, 2].getD t 0

/-- Data words of an entry of a table (Table 7-3). -/
def dataWords (t : Nat) : Nat := [1, 1, 1, 2, 4].getD t 0

/-- Key of a slot. -/
def slotKey (t s : Nat) : Nat := 2 ^ 20 * t + s

/-- The entry of a slot. -/
def entOf (d : Dev) (t s : Nat) : Option TEnt := mget d.lk.slots (slotKey t s) none

/-- Store or clear a slot. -/
def putEnt (d : Dev) (t s : Nat) (e : Option TEnt) : Dev := { d with lk := { d.lk with slots := mput d.lk.slots (slotKey t s) e none } }

/-- Valid entries of a table with their slots, in slot order. -/
def entsOf (d : Dev) (t : Nat) : List (Nat × TEnt) :=
  d.lk.slots.filterMap fun x =>
    if x.1 / 2 ^ 20 = t then (match x.2 with | some e => some (x.1 % 2 ^ 20, e) | none => none) else none

/-- Whether a slot has an uncorrectable error (R217): not yet read 1, marked SUSPECT 2. -/
def slotBad (d : Dev) (t s : Nat) : Nat := mget d.lk.bad (slotKey t s) 0

/-- Flags and fields of the control word (Table 7-2). -/
def TEnt.isStatic (e : TEnt) : Bool := bit e.ctl 16
def TEnt.unconf (e : TEnt) : Bool := bit e.ctl 17
def TEnt.isHit (e : TEnt) : Bool := bit e.ctl 25
def TEnt.stale (e : TEnt) : Bool := bit e.ctl 26
def TEnt.suspect (e : TEnt) : Bool := bit e.ctl 27
def TEnt.absent (e : TEnt) : Bool := bit e.ctl 28
def TEnt.version (e : TEnt) : Nat := fld e.ctl 32 16
def TEnt.domain (e : TEnt) : Nat := fld e.ctl 48 8

/-- The entry with a control bit changed. -/
def TEnt.withBit (e : TEnt) (i : Nat) (v : Bool) : TEnt := { e with ctl := setBit e.ctl i v }

/-- The entry with its VERSION one higher (Table 7-2). -/
def TEnt.bump (e : TEnt) : TEnt := { e with ctl := setFld e.ctl 32 16 (e.version + 1) }

/-- Words of a key as numbers. -/
def kwNats (kw : List DWord) : List Nat := kw.map (·.toNat)

/-- Candidate slot of a key in way `w` (R185). -/
def candOf (d : Dev) (t w : Nat) (kw : List DWord) : Nat :=
  let q := wayCount t / 4
  w * q + Config.keyedHash (1850 + t) d.ct.epoch (w :: kwNats kw) % q

/-- The four candidate slots of a key, in way order. -/
def cands (d : Dev) (t : Nat) (kw : List DWord) : List Nat := (List.range 4).map fun w => candOf d t w kw

/-- Whether a slot can take an entry. -/
def slotFree (d : Dev) (t s : Nat) : Bool := (entOf d t s).isNone && decide (slotBad d t s = 0)

/-- Whether R186 may move an entry. -/
def movable (t : Nat) (e : TEnt) : Bool := !e.suspect && !(t == 4 && e.isStatic)

/-- The occupant of a slot, if it may be moved. -/
def movableAt (d : Dev) (t s : Nat) : Option TEnt :=
  match entOf d t s with
  | some e => if movable t e then some e else none
  | none => none

/-- The first free slot among an occupant's other candidates. -/
def freeOther (d : Dev) (t s : Nat) (e : TEnt) : Option Nat := (cands d t e.kw).find? fun c => decide (c ≠ s) && slotFree d t c

/-- Step 2 of R186 from one candidate: where its occupant can move. -/
def oneMove (d : Dev) (t s : Nat) : Option (List (Nat × Nat) × Nat) :=
  match movableAt d t s with
  | some e => (freeOther d t s e).map fun c => ([(s, c)], s)
  | none => none

/-- Step 3 of R186 from one candidate: two moves, the deeper one first. -/
def twoMoves (d : Dev) (t s : Nat) : Option (List (Nat × Nat) × Nat) :=
  match movableAt d t s with
  | some e => (cands d t e.kw).findSome? fun c =>
      if c = s then none
      else match movableAt d t c with
        | some e2 => (freeOther d t c e2).map fun c2 => ([(c, c2), (s, c)], s)
        | none => none
  | none => none

/-- Steps 1 to 3 of R186: the moves and the way slot that the new entry takes. -/
def searchWays (d : Dev) (t : Nat) (kw : List DWord) : Option (List (Nat × Nat) × Nat) :=
  let cs := cands d t kw
  match cs.find? (slotFree d t) with
  | some s => some ([], s)
  | none => match cs.findSome? (oneMove d t) with
    | some r => some r
    | none => cs.findSome? (twoMoves d t)

/-- Step 4 of R186: the lowest free CAM slot. -/
def searchCam (d : Dev) (t : Nat) : Option Nat :=
  ((List.range (camCount t)).find? fun i => slotFree d t (wayCount t + i)).map (wayCount t + ·)

/-- The search of R186. -/
def search (d : Dev) (t : Nat) (kw : List DWord) : Option (List (Nat × Nat) × Nat) :=
  match searchWays d t kw with
  | some r => some r
  | none => (searchCam d t).map fun s => ([], s)

/-! ### Shadow words -/

/-- HBM offset of the shadow word of a slot (R218). -/
def shadowAddr (d : Dev) (t s : Nat) : Nat := cfgF d .lkShadowBase t 0 0 24 * 4096 + 4 * s

/-- The words of an entry in the order of Table 7-3. -/
def TEnt.words (e : TEnt) : List DWord := e.kw ++ [e.ctl] ++ e.dw

/-- The shadow word of a confirmed entry (R218). -/
def shadowCrc (e : TEnt) : Nat :=
  let c := setFld (setFld e.ctl 24 8 0) 32 16 0
  let bs := (TEnt.words { e with ctl := c }).flatMap fun w => leBytes 8 w.toNat
  2 ^ 31 + crc32c bs % 2 ^ 31

/-- The expected shadow word of a slot (R218). -/
def shadowFor (e : Option TEnt) : Nat :=
  match e with
  | none => 0
  | some e => if e.unconf then 0 else shadowCrc e

/-- Issue a shadow write (R218); tables 0 to 3 have shadow arrays. -/
def shadowWrite (d : Dev) (t s w : Nat) : Dev :=
  if t < 4 then { d with lk := { d.lk with shw := d.lk.shw ++ [(slotKey t s, w)] } } else d

/-- The shadow word of a slot with the writes under way. -/
def shadowNow (d : Dev) (t s : Nat) : Nat :=
  match (d.lk.shw.filter fun x => x.1 = slotKey t s).getLast? with
  | some x => x.2
  | none => leNat (memRdN d.hbm (shadowAddr d t s) 4)

/-- SHADOW_WRITE_DONE (R218, R219): the oldest write under way for a slot reaches HBM. -/
def shadowDone (t s : Nat) (d : Dev) : Dev :=
  match d.lk.shw.find? fun x => x.1 = slotKey t s with
  | none => d
  | some x =>
    let d := { d with lk := { d.lk with shw := d.lk.shw.erase x } }
    { d with hbm := memWrN d.hbm (shadowAddr d t s) (leBytes 4 x.2) }

/-- Remove an entry; its shadow word becomes 0. -/
def removeEnt (d : Dev) (t s : Nat) : Dev := shadowWrite (putEnt d t s none) t s 0

/-- Move an entry with its shadow word (R186, R218). -/
def moveEnt (t : Nat) (d : Dev) (m : Nat × Nat) : Dev :=
  match entOf d t m.1 with
  | none => d
  | some e =>
    let w := shadowNow d t m.1
    shadowWrite (shadowWrite (putEnt (putEnt d t m.1 none) t m.2 (some e)) t m.2 w) t m.1 0

/-- Put an entry into a slot that a search found, after its moves. -/
def placeAt (d : Dev) (t : Nat) (e : TEnt) (r : List (Nat × Nat) × Nat) : Dev :=
  putEnt (r.1.foldl (moveEnt t) d) t r.2 (some { e with camAt := d.tick })

/-- A failed placement (R186): counted, HASH_PRESSURE. -/
def placeFail (d : Dev) (t : Nat) : Dev := raise (count d .lkEvtCnt t 0) 5

/-! ### Uncorrectable errors -/

/-- Record a suspect event (Table 7-17): 0 shadow mismatch, 1 MISSING, 2 uncorrectable error. -/
def suspectInfo (d : Dev) (kind t s : Nat) : Dev :=
  let w := cur d .lkSuspectInfo 0 0
  if bit w 31 then setCur d .lkSuspectInfo 0 0 (setBit w 30 true)
  else setCur d .lkSuspectInfo 0 0 (BitVec.ofNat 32 (2 ^ 31 + kind * 2 ^ 28 + t * 2 ^ 25 + s))

/-- Mark a slot SUSPECT because a lookup or a command met an uncorrectable error in it (R217): counted at k = 13, LK_SUSPECT. -/
def markBad (t : Nat) (d : Dev) (s : Nat) : Dev :=
  if slotBad d t s ≠ 1 then d
  else
    let d := { d with lk := { d.lk with bad := mput d.lk.bad (slotKey t s) 2 0 } }
    let d := match entOf d t s with
      | some e => putEnt d t s (some (e.withBit 27 true))
      | none => d
    suspectInfo (raise (count d .lkEvtCnt 13 0) 6) 2 t s

/-- CAM slots with an uncorrectable error that has not been met yet. -/
def badCam (d : Dev) (t : Nat) : List Nat :=
  d.lk.bad.filterMap fun x =>
    if x.1 / 2 ^ 20 = t ∧ wayCount t ≤ x.1 % 2 ^ 20 ∧ x.2 = 1 then some (x.1 % 2 ^ 20) else none

/-- The unreadable slots that a lookup of a key meets. -/
def badFor (d : Dev) (t : Nat) (kw : List DWord) : List Nat := ((cands d t kw).filter fun s => slotBad d t s = 1) ++ badCam d t

/-! ### Lookups -/

/-- Result of a lookup of a key. -/
inductive LRes where
  | found (s : Nat) (e : TEnt)
  | ecc
  | miss
  deriving DecidableEq, Repr

/-- The slot that holds a key, SUSPECT entries included. -/
def findAny (d : Dev) (t : Nat) (kw : List DWord) : Option (Nat × TEnt) := (entsOf d t).find? fun x => decide (x.2.kw = kw)

/-- The slot in which a key matches: entries that are SUSPECT or unreadable take part in no match (R217, R220). -/
def findKey (d : Dev) (t : Nat) (kw : List DWord) : Option (Nat × TEnt) :=
  (entsOf d t).find? fun x => decide (x.2.kw = kw) && !x.2.suspect && decide (slotBad d t x.1 = 0)

/-- Look up one key (R112, R217). -/
def lookupKey (d : Dev) (t : Nat) (kw : List DWord) : LRes :=
  match findKey d t kw with
  | some x => .found x.1 x.2
  | none => if (badFor d t kw).isEmpty then .miss else .ecc

/-- Lengths whose filter bit is set for a VRF (R204), longest first: those of the valid entries, SUSPECT ones included. -/
def lpmLengths (d : Dev) (t vrf : Nat) : List Nat :=
  let es := entsOf d t
  let ofEnt (e : TEnt) : Nat × Nat :=
    if t = 1 then (fld (e.kw.getD 0 0) 32 12, fld (e.kw.getD 0 0) 48 6) else (fld (e.kw.getD 2 0) 0 12, fld (e.kw.getD 2 0) 16 8)
  ((List.range 129).filter fun l => es.any fun x => decide (ofEnt x.2 = (vrf, l))).reverse

/-- Key words of a prefix of `len` bits of an address (Table 7-3). -/
def lpmKey (t vrf len adr : Nat) : List DWord :=
  if t = 1 then
    [BitVec.ofNat 64 ((adr >>> (32 - len) <<< (32 - len)) % 2 ^ 32 + vrf * 2 ^ 32 + len * 2 ^ 48)]
  else
    let a := (adr >>> (128 - len) <<< (128 - len)) % 2 ^ 128
    [BitVec.ofNat 64 (a / 2 ^ 64), BitVec.ofNat 64 (a % 2 ^ 64), BitVec.ofNat 64 (vrf + len * 2 ^ 16)]

/-- Probe the lengths, longest first (R205). -/
def lpmProbe (d : Dev) (t vrf adr : Nat) : List Nat → LRes × Nat
  | [] => (.miss, 0)
  | l :: ls => match lookupKey d t (lpmKey t vrf l adr) with
    | .found s e => (.found s e, l)
    | .ecc => (.ecc, 0)
    | .miss => lpmProbe d t vrf adr ls

/-! ### Learn rings -/

/-- Bytes of a learn-ring entry (Table 7-6). -/
def noteBytes (kind t oldDest oldVp idx : Nat) (e : TEnt) (tick : Nat) : List Byte :=
  leBytes 1 kind ++ leBytes 1 t ++ leBytes 1 oldDest ++ leBytes 1 oldVp ++ leBytes 4 idx
    ++ ((sliceD (0 : DWord) e.kw 0 3).flatMap fun w => leBytes 8 w.toNat)
    ++ leBytes 8 e.ctl.toNat ++ leBytes 8 tick ++ List.replicate 16 (0 : Byte)

/-- LEARN_RING_NOTIFY (R198): write a notification, or drop and count it. -/
def learnNote (d : Dev) (r : Nat) (bs : List Byte) : Dev :=
  let w := cfg d .lkRingCfg r 0
  let prod := (cur d .lkRingProd r 0).toNat
  if !ringRoom w prod (cfg d .lkRingCons r 0).toNat then count d .lkEvtCnt 11 0
  else
    let d := { d with hank := memWrN d.hank (ringAddr w 64 prod) bs }
    let d := setCur d .lkRingProd r 0 (BitVec.ofNat 32 (prod + 1))
    { d with lk := { d.lk with adv := if r ∈ d.lk.adv then d.lk.adv else d.lk.adv ++ [r] } }

/-- The lines bound to the learn rings that advanced (R199). -/
def ringLines (d : Dev) : Dev :=
  let rs := d.lk.adv
  rs.foldl (fun d r => signalLines d 7 r (BitVec.ofNat 64 ((cur d .lkRingProd r 0).toNat + r * 2 ^ 32)))
    { d with lk := { d.lk with adv := [] } }

/-- Bridge domain of a MAC key. -/
def macBd (kw : List DWord) : Nat := fld (kw.getD 0 0) 48 12

/-- LK_COMB_CFG of a table (5: the HBM sweep). -/
def combCfg (d : Dev) (t : Nat) : Word :=
  if t = 0 then cfg d .lkCombCfgA 0 0 else if t < 4 then cfg d .lkCombCfgB (t - 1) 0 else cfg d .lkCombCfgC (t - 4) 0

/-- Ring of the notifications of a table's entry (R198). -/
def noteRing (d : Dev) (t : Nat) (kw : List DWord) : Nat :=
  if t = 0 then cfgF d .lkBdCfg (macBd kw) 0 24 2 else fld (combCfg d t) 28 2

/-- Valid MAC entries of a domain (R197). -/
def domUse (d : Dev) (dom : Nat) : Nat := ((entsOf d 0).filter fun x => x.2.domain = dom).length

end Sys2Proof.Machine
end

