-- ==== Sys2Proof/Machine/Mail.lean ====
section
/-! DEFINITION. Vport pages as read (Tables 11-2, 11-24), mailboxes, doorbell bits and receivers (R426 to R436), and the commands of
VP_CTL and VP_MIG_CTL that act at a boundary (R308, R327, R388, R391). -/

namespace Sys2Proof.Machine

/-! ### The page as read -/

/-- STATE value of a vport (Table 11-1). -/
def VpSt.code : VpSt → Nat
  | .off => 0 | .active => 1 | .frozen => 2 | .orphaned => 3

/-- STATE value of a queue (Table 11-24). -/
def QSt.code : QSt → Nat
  | .off => 0 | .active => 1 | .error => 2 | .stalled => 3

/-- VP_STATUS (Table 11-2). -/
def vpStatusWord (d : Dev) (p : Nat) : DWord :=
  BitVec.ofNat 64 ((vportOf d p).st.code + 4 * b2n (vpFull d p) + 2 ^ 8 * vpDomain d p + 2 ^ 16 * (kindRange d p 0).2
    + 2 ^ 24 * (kindRange d p 1).2 + 2 ^ 32 * (kindRange d p 2).2)

/-- VP_SQ_STATUS, VP_RQ_STATUS, VP_CQ_STATUS (Table 11-24). -/
def queueStatusWord (d : Dev) (p kind i : Nat) : DWord :=
  match globalQ d p kind i with
  | none => 0
  | some q =>
    let x := queueOf d kind q
    BitVec.ofNat 64 (x.dev % 2 ^ 32 + 2 ^ 32 * x.st.code + 2 ^ 40 * x.cause)

/-- EPOCHs at the positions of Table 16-2, from bit 0 on. -/
def epochWord (v : Vport) : Nat := v.inEpoch + 2 ^ 8 * v.outEpoch + 2 ^ 16 * v.hostEpoch + 2 ^ 24 * v.fwEpoch

/-- VP_MB_STATUS (Table 16-6). -/
def mbStatusWord (v : Vport) : DWord :=
  BitVec.ofNat 64 (b2n v.inFull + 2 * b2n v.outFull + 4 * b2n v.crossed + 8 * b2n v.peerResetFw + 32 * b2n v.refusedFw
    + 2 ^ 8 * epochWord v)

/-- VP_MIG_STATUS (Table 14-12). -/
def migStatusWord (v : Vport) : DWord :=
  BitVec.ofNat 64 (v.frozenAt % 2 ^ 32 + 2 ^ 32 * v.result + 2 ^ 35 * b2n v.saveBusy + 2 ^ 36 * b2n v.drained)

/-! ### Receivers -/

/-- The thread that owns an enabled receiver (R435). -/
def rcvOwner (d : Dev) (r : Nat) : Option Nat :=
  let w := cfg d .mbRcvCfg r 0
  if bit w 31 then some (64 * fld w 24 6 + fld w 16 6) else none

/-- FW_AWAKE (Table 16-2): the receiver is enabled and its owner's domain is AWAKE. -/
def rcvAwake (d : Dev) (r : Nat) : Bool :=
  match rcvOwner d r with
  | some k => awake d (k / 64)
  | none => false

/-- Receiver of a vport. -/
def vpRcv (d : Dev) (p : Nat) : Nat := cfgF d .vpMbCfg p 0 0 8

/-- Mark a register word as written: it takes effect at the next boundary (R526). -/
def markDirty (d : Dev) (r : Reg) (i j : Nat) : Dev :=
  { d with regs := { d.regs with dirty := addr r i j :: d.regs.dirty } }

/-- The firmware side of every vport that names a receiver resets (R429). -/
def rcvReset (d : Dev) (r : Nat) : Dev :=
  let ps := (mkeys d.hp.vports).filter fun p => decide (vpRcv d p = r)
  { d with ct := { d.ct with mbResets := d.ct.mbResets ++ ps.map fun p => (p, false) } }

/-- RCV_CFG_WRITE (Table 16-7, R429): EN stays 0 with CFG_ERR where the owner is a packet thread or owns a receiver already. -/
def rcvCfgWrite (r : Nat) (v : Word) (d : Dev) : Dev :=
  let k := 64 * fld v 24 6 + fld v 16 6
  let taken := (List.range 256).any fun q =>
    let w := cur d .mbRcvCfg q 0
    decide (q ≠ r) && bit w 31 && decide (64 * fld w 24 6 + fld w 16 6 = k)
  let bad := bit v 31 && (!isService d k || taken)
  let w := v &&& 0xBF3F0000
  let w := setBit (setBit w 31 (bit v 31 && !bad)) 30 (bad || (bit (cur d .mbRcvCfg r 0) 30 && !bit v 30))
  rcvReset (markDirty (setCur d .mbRcvCfg r 0 w) .mbRcvCfg r 0) r

/-- DOORBELL_BIT_EVENT of one receiver at a boundary (R435, R436): bits that are newly set and unmasked make the owner's lines pending,
and bits that become 1 unmasked wake the owner's domain where their WAKE bit is 1. -/
def rcvBoundary (d : Dev) (r : Nat) : Dev :=
  let all := cur d .mbDbb r 0
  let un := all &&& ~~~(cfg d .mbDbbMask r 0)
  let fresh := un &&& ~~~(mget d.pw.dbbSeen r 0)
  let waking := un &&& ~~~(mget d.pw.dbbWas r 0) &&& cfg d .mbDbbWake r 0
  let d := { d with pw := { d.pw with dbbSeen := mput d.pw.dbbSeen r un 0, dbbWas := mput d.pw.dbbWas r all 0 } }
  if fresh = 0 then d
  else match rcvOwner d r with
    | none => d
    | some k =>
      let ev : DWord := BitVec.ofNat 64 (un.toNat + 2 ^ 32 * r)
      let d := (List.range 32).foldl (fun d b =>
        if bit fresh b then
          (boundLines d 5 b).foldl (fun d kl => if kl.1 = k then setPend d kl.1 kl.2 ev none else d) d
        else d) d
      if waking = 0 then d else wakeReq (k / 64) d

/-- Receivers with bits, now or at the last boundary. -/
def liveRcvs (d : Dev) : List Nat :=
  (d.regs.cur.filterMap fun e => (locateIn e.1 .mbDbb).map fun l => l.i) ++ mkeys d.pw.dbbWas

/-- Vports whose doorbell bits are listed. -/
def dbbVports (d : Dev) : List Nat := d.regs.cur.filterMap fun e => (locateIn e.1 .vpDbb).map fun l => l.i

/-- Doorbell bits at a boundary (R434, R435). -/
def dbbBoundary (d : Dev) : Dev :=
  let d := (dbbVports d).foldl (fun d p =>
    if cur d .vpDbb p 0 &&& ~~~(cfg d .vpDbbMask p 0) = 0 then d
    else rcvSet d (vpRcv d p) (2 ^ cfgF d .vpMbCfg p 0 8 5)) d
  (liveRcvs d).eraseDups.foldl rcvBoundary d

/-! ### Accesses to the mailbox pair (Table 16-1) -/

/-- Endpoint MBW to MB_IN: its MBC status. -/
def mbInWrite (p : Nat) (w : DWord) (d : Dev) : Dev × Nat :=
  let v := vportOf d p
  if !rcvAwake d (vpRcv d p) then (count d .pwEvtCnt 3 0, 9)
  else if v.inFull then (count (putVport d p { v with refusedHost := true }) .pwEvtCnt 5 0, 0)
  else
    let d := setCur64 d .vpMbIn p 0 w
    (setDbb (putVport d p { v with inFull := true, inEpoch := v.hostEpoch }) p 0x80000000, 0)

/-- Endpoint MBR of MB_IN: the host status of Table 16-2; its sticky bits clear. -/
def mbStatusRead (p : Nat) (d : Dev) : Dev × Nat :=
  let v := vportOf d p
  let x := b2n v.inFull + 2 * b2n v.outFull + 4 * b2n v.crossed + 8 * b2n v.peerResetHost + 16 * b2n (rcvAwake d (vpRcv d p))
    + 32 * b2n v.refusedHost + 2 ^ 8 * epochWord v
  (putVport d p { v with peerResetHost := false, refusedHost := false }, x)

/-- Endpoint MBR of MB_OUT: reading a FULL mailbox is the acknowledgement. -/
def mbOutRead (p : Nat) (d : Dev) : Dev × Nat :=
  let v := vportOf d p
  let x := (cur64 d .vpMbOut p 0).toNat
  if v.outFull then (hostSignal (setDbb (putVport d p { v with outFull := false }) p 0x40000000) p, x) else (d, x)

/-- Firmware read of MB_IN. -/
def fwInRead (p : Nat) (d : Dev) : Dev × Nat :=
  let v := vportOf d p
  let x := (cur64 d .vpMbIn p 0).toNat
  if v.inFull then (hostSignal (putVport d p { v with inFull := false }) p, x) else (d, x)

/-- Firmware write of MB_OUT. -/
def fwOutWrite (p : Nat) (w : DWord) (d : Dev) : Dev :=
  let v := vportOf d p
  if v.outFull || v.st = .off || v.st = .orphaned then count (putVport d p { v with refusedFw := true }) .pwEvtCnt 5 0
  else hostSignal (putVport (setCur64 d .vpMbOut p 0 w) p { v with outFull := true, outEpoch := v.fwEpoch }) p

/-- Latch a high word for a path (R465). -/
def setLatch (d : Dev) (pth : Path) (a : Nat) (v : Word) : Dev :=
  let m := mget d.regs.latch (pathKey pth) []
  { d with regs := { d.regs with latch := mput d.regs.latch (pathKey pth) (mput m a v 0) [] } }

/-- A latched word of a path; every latch is 0 after device reset. -/
def getLatch (d : Dev) (pth : Path) (a : Nat) : Word := mget (mget d.regs.latch (pathKey pth) []) a 0

/-- A queued firmware access (R427): a read returns the word on its path, both halves from one instant, where no response has answered it. -/
def fwAccess (d : Dev) (x : FwAcc) : Dev :=
  match x.word with
  | some w => if x.out then fwOutWrite x.page w d else d
  | none =>
    let (r, a) : (Dev × Nat) × Nat := if x.out then ((d, (cur64 d .vpMbOut x.page 0).toNat), addr .vpMbOut x.page 0)
      else (fwInRead x.page d, addr .vpMbIn x.page 0)
    if x.told then r.1
    else
      let d := setLatch r.1 x.path (a + 4) (BitVec.ofNat 32 (r.2 / 2 ^ 32))
      emit d (.readData x.path (BitVec.ofNat 32 a) (BitVec.ofNat 32 r.2))

/-- One 64-bit word of the page as an endpoint reads it; none where the offset is reserved or out of range (R296, R309). -/
def pageRead (p off : Nat) (d : Dev) : Option (Dev × Nat) :=
  let sig (v : Nat) : Nat := (cur d .vpSigCfg p v).toNat
  if off % 8 ≠ 0 ∨ off = 0 then none
  else if off = 8 then some (mbStatusRead p d)
  else if off = 0x10 then some (mbOutRead p d)
  else if off = 0x18 then some (d, (cur d .vpDbb p 0).toNat + 2 ^ 32 * (cur d .vpDbbMask p 0).toNat)
  else if off = 0x20 then some (d, (vpStatusWord d p).toNat)
  else if off < 0x40 then none
  else if off < 0x140 then some (d, sig ((off - 0x40) / 4) + 2 ^ 32 * sig ((off - 0x40) / 4 + 1))
  else if off < 0x200 then some (d, (cur64 d .vpCnt p ((off - 0x140) / 8)).toNat)
  else if off < 0x800 then some (d, (queueStatusWord d p ((off - 0x200) / 0x200) (off % 0x200 / 8)).toNat)
  else none

/-- Write VP_SIG_CFG (R326): clearing MASK with PENDING set sends one SIG. -/
def sigCfgWrite (p v : Nat) (w : Word) (d : Dev) : Dev :=
  let x := cur d .vpSigCfg p v
  if bit w 0 then setBoth d .vpSigCfg p v (setBit x 0 true)
  else if bit x 0 then sigUnmask p v d else d

/-- An endpoint's MBW (R296, R309, R428, R433), its value most significant byte first (Table 10-3): the MBC status. -/
def pageWrite (p off len : Nat) (data : List Byte) (d : Dev) : Dev × Nat :=
  let w := beNat data
  if off % len ≠ 0 ∨ off < 8 ∨ (0x28 ≤ off ∧ off < 0x40) ∨ 0x800 ≤ off then (d, 8)
  else if off < 0x10 then if len = 8 then mbInWrite p (BitVec.ofNat 64 w) d else (d, 8)
  else if off < 0x18 then if len = 8 then (d, 0) else (d, 8)
  else if off = 0x18 then if len = 4 then (setDbb d p (w % 2 ^ 30), 0) else (d, 8)
  else if 0x40 ≤ off ∧ off < 0x140 then
    let v := (off - 0x40) / 4
    let d := sigCfgWrite p v (BitVec.ofNat 32 w) d
    (if len = 8 then sigCfgWrite p (v + 1) (BitVec.ofNat 32 (w / 2 ^ 32)) d else d, 0)
  else (d, 0)

/-- One DB, MBR or MBW record takes effect (R299, R313, R427); an MBR or MBW is answered by one MBC. -/
def hostAct (h : Nat) (d : Dev) (x : BlRec) : Dev :=
  let p := 256 * h + x.vport.toNat
  let tag := x.tag.toNat
  let off := x.word.toNat
  if x.ty = 0x30 then doorbell d p x.word
  else if (vportOf d p).st ≠ .active ∧ (vportOf d p).st ≠ .frozen then queueRec d h (.mbc tag x.vport.toNat 0xA [])
  else if x.ty = 0x12 then match pageRead p off d with
    | some (d, v) => queueRec d h (.mbc tag x.vport.toNat 0 (beBytes 8 v))
    | none => queueRec d h (.mbc tag x.vport.toNat 8 [])
  else
    let r := pageWrite p off (max 4 x.len.toNat) x.data d
    queueRec r.1 h (.mbc tag x.vport.toNat r.2 [])

/-- The endpoint accesses and doorbells of the last tick, then the firmware's accesses (R427). -/
def mailBoundary (d : Dev) : Dev :=
  let d := (List.range 8).foldl (fun d h =>
    let l := linkOf d h
    l.hostq.foldl (hostAct h) (if l.hostq.isEmpty then d else putLink d h { l with hostq := [] })) d
  d.ct.fwq.foldl fwAccess { d with ct := { d.ct with fwq := [] } }

/-- The resets of mailboxes at a boundary, after its accesses and after what orphans vports at it (R427, R430, R431). A vport that is OFF
has no epochs to move: both are 0 at its creation (R429). -/
def mailResets (d : Dev) : Dev :=
  let rs := d.ct.mbResets.filter fun x => !((vportOf d x.1).st = .off)
  rs.foldl (fun d x => if x.2 then mbHostReset d x.1 else mbFwReset d x.1) { d with ct := { d.ct with mbResets := [] } }

/-- CROSSED (R432) of one vport: both mailboxes have been FULL at every boundary for 32 ticks. -/
def crossRaise (p : Nat) (d : Dev) : Dev :=
  let v := vportOf d p
  if decide (32 ≤ v.bothFull) && !v.crossed then
    count (hostSignal (setDbb (putVport d p { v with crossed := true }) p 0x40000000) p) .pwEvtCnt 6 0
  else d

/-- The crossing count of a vport at a boundary. -/
def crossBoundary (d : Dev) (p : Nat) : Dev :=
  let v := vportOf d p
  if v.inFull && v.outFull then crossRaise p (putVport d p { v with bothFull := v.bothFull + 1 })
  else if v.crossed || decide (v.bothFull ≠ 0) then putVport d p { v with bothFull := 0, crossed := false } else d

/-- Firmware resets of the receivers whose owner's reel is reset, retired or failed (R429). -/
def reelMailReset (d : Dev) (r : Nat) : Dev :=
  (List.range 256).foldl (fun d q => match rcvOwner d q with
    | some k => if k / 64 = r then rcvReset d q else d
    | none => d) d

/-! ### Commands of VP_CTL and VP_MIG_CTL -/

/-- Queue a command of a vport for the next boundary. -/
def vpCmd (p : Nat) (c : VpCmd) (d : Dev) : Dev :=
  let v := vportOf d p
  putVport d p { v with cmds := v.cmds ++ [c] }

/-- VPORT_RESET at its boundary (R308): queues go to OFF, jobs and reserves are dropped; requests under way run out. A FROZEN vport
leaves FROZEN (R391). -/
def vportReset (d : Dev) (p : Nat) : Dev :=
  if (vportOf d p).st = .off then d
  else
    let d := nvmeDiscard (stopQueues (dropHeld d p) p true) p
    let v := vportOf d p
    let v := { v with resetBusy := true, st := if v.st = .frozen then .active else v.st, drained := false, saveBusy := false }
    let d := resetDone p (putVport d p v)
    { d with ct := { d.ct with mbResets := d.ct.mbResets ++ [(p, true)] } }

/-- REATTACH at its boundary (R327): only while ORPHANED and the link is ACTIVE. -/
def vportReattach (d : Dev) (p : Nat) : Dev :=
  if (vportOf d p).st = .orphaned && (linkOf d (p / 256)).st = .active && !(vportOf d p).reattaching then
    reattachDone p (readIndices d p)
  else d

/-- FREEZE (R388): accepted for an ACTIVE vport that is not being reset. -/
def freezeCmd (p : Nat) (d : Dev) : Dev :=
  let v := vportOf d p
  if v.st = .active && !v.resetBusy then vpCmd p .freeze (putVport d p { v with result := 1 }) else putVport d p { v with result := 2 }

/-- THAW (R391, R398): accepted for a FROZEN vport. -/
def thawCmd (p : Nat) (d : Dev) : Dev :=
  let v := vportOf d p
  if v.st = .frozen then vpCmd p .thaw (putVport d p { v with result := 1 }) else putVport d p { v with result := 2 }

/-- FREEZE at its boundary (R388): entries read ahead and not selected are discarded. -/
def vportFreeze (d : Dev) (p : Nat) : Dev :=
  if (vportOf d p).st ≠ .active then d
  else
    let d := (vportQueues d p).foldl (fun d kq =>
      if kq.1 = 0 then
        let x := queueOf d 0 kq.2
        let keep := x.jobs.filter fun j => !jobAhead j
        let fetch := match x.jobs.find? jobAhead with | some j => j.idx | none => x.fetch
        let d := putQueue d 0 kq.2 { x with jobs := keep, fetch := fetch }
        discardReqs d p fun w => !(match w with
          | .entry false q i _ => decide (q = kq.2) && !keep.any (fun j => j.idx = i)
          | .table false q i _ => decide (q = kq.2) && !keep.any (fun j => j.idx = i)
          | _ => false)
      else d) d
    putVport d p { vportOf d p with st := .frozen, frozenAt := d.tick, drained := false }

/-- THAW at its boundary. -/
def vportThaw (d : Dev) (p : Nat) : Dev :=
  let v := vportOf d p
  if v.st = .frozen then putVport d p { v with st := .active, drained := false, restored := false } else d

/-- A creation, or a change of counts, at its boundary (R387, R412): queues that the vport did not have start OFF. -/
def vportCreate (d : Dev) (p : Nat) (c : Word) (r : DWord) (hold : Nat) : Dev :=
  let v := vportOf d p
  let old := if v.st = .off then [] else vportQueues d p
  let d := setBoth64 (setBoth d .vpCfg p 0 c) .vpQrange p 0 r
  let d := setBoth d .vpCtl p 0 (setFld (cur d .vpCtl p 0) 24 8 hold)
  let d := if v.st = .off then putVport d p { v with st := .active } else d
  (vportQueues d p).foldl (fun d kq => if kq ∈ old then d else putQueue d kq.1 kq.2 Queue.reset) d

/-- Remove the MAC entries whose DEST and VPORT name a vport (R412). -/
def forgetMacs (d : Dev) (p : Nat) : Dev :=
  (entsOf d 0).foldl (fun d e =>
    if fld e.2.ctl 0 5 = 16 + p / 256 ∧ fld e.2.ctl 8 8 = p % 256 then removeEnt d 0 e.1 else d) d

/-- VPORT_DESTROY at its boundary (R412). -/
def vportDestroy (d : Dev) (p : Nat) : Dev :=
  if (vportOf d p).st = .off then d else forgetMacs (clearVport (vportReset d p) p) p

/-- The commands of a vport at a boundary. -/
def vportCmds (d : Dev) (p : Nat) : Dev :=
  let v := vportOf d p
  v.cmds.foldl (fun d c => match c with
    | .reset => vportReset d p
    | .reattach => vportReattach d p
    | .freeze => vportFreeze d p
    | .thaw => vportThaw d p
    | .destroy => vportDestroy d p
    | .create c r hold => vportCreate d p c r hold) (if v.cmds.isEmpty then d else putVport d p { v with cmds := [] })

/-- VPORT_DRAINED (R390): a FROZEN vport without outstanding requests, jobs, NVMe commands or partly written receive copies. -/
def vportDrained (p : Nat) (d : Dev) : Dev :=
  let v := vportOf d p
  let busyJob := (vportQueues d p).any fun kq => (queueOf d kq.1 kq.2).jobs.any fun j =>
    if kq.1 = 0 then !jobAhead j else decide (j.st = .writing)
  let busyCmd := d.bs.cmds.any fun e => match e.2 with
    | some c => decide (c.page = p)
    | none => false
  let partly := (allCopies d).any fun e => e.2.into.any fun x => decide (ownerOf d 1 x.1 = some p)
  if v.st = .frozen && !v.drained && (vportReqs d p).isEmpty && !busyJob && !busyCmd && !partly then putVport d p { v with drained := true }
  else d

end Sys2Proof.Machine
end

