-- ==== Sys2Proof/Machine/Lookup.lean ====
section
/-! DEFINITION. LKP with learning and station moves (R112, R113, R194 to R197), FLOW with its HBM backing (R114, R115, R207 to R216),
and the table commands (R191 to R193). Lookups see the tables `d0` of the boundary that began the tick (R110). -/

namespace Sys2Proof.Machine

/-! ### LKP -/

/-- The lookup engine sets HIT of the entry with a key (R202). -/
def hitKey (d : Dev) (t : Nat) (kw : List DWord) : Dev :=
  match findKey d t kw with
  | some x => putEnt d t x.1 (some (x.2.withBit 25 true))
  | none => d

/-- The result for an entry (R112): slot, the table's fields, data words. -/
def lkpOk (st s fields : Nat) (e : TEnt) : PRes := ⟨st, s * 2 ^ 24 + fields, e.dw⟩

/-- Key of a MAC lookup (Table 4-4). -/
def macKey (a : DWord) : List DWord := [BitVec.ofNat 64 (fld a 0 60)]

/-- Fields that a MAC lookup returns: control-word bits [23:0] (R190). -/
def macFields (e : TEnt) : Nat := fld e.ctl 0 24

/-- Mark the unreadable slots that a lookup of a key met (R217). -/
def markKey (d0 : Dev) (t : Nat) (d : Dev) (kw : List DWord) : Dev := (badFor d0 t kw).foldl (markBad t) d

/-- LKP SUB 0x01 (R112). -/
def lkpMacDst (d0 d : Dev) (p : Posted) : Dev × PRes :=
  let kw := macKey p.a
  let d := markKey d0 0 d kw
  match lookupKey d0 0 kw with
  | .miss => (d, rStat 0x01)
  | .ecc => (d, rStat 0x0E)
  | .found s e => (if cfgB d .lkBdCfg (macBd kw) 0 29 then hitKey d 0 kw else d, lkpOk 0x00 s (macFields e) e)

/-- DEST and VPORT that learning gives (R194). -/
def learnWhere (sk : Skein) : Nat × Nat := (sk.input, if 16 ≤ sk.input ∧ sk.input < 24 then fld sk.md 0 8 else 0)

/-- STATION_MOVE (R195) of the entry with a key, for a skein. -/
def stationMove (d : Dev) (kw : List DWord) (sk : Skein) : Dev :=
  match findKey d 0 kw with
  | none => d
  | some x =>
    let e := x.2
    let w := learnWhere sk
    let old := (fld e.ctl 0 5, fld e.ctl 8 8)
    if e.isStatic ∨ ¬ cfgB d .lkBdCfg (macBd kw) 0 30 ∨ 25 ≤ sk.input ∨ old = w ∨ e.movedAt = some d.tick then d
    else
      let hold := cfgF d .lkLearnCfg 0 0 0 16
      let held := match e.movedAt with
        | some t => decide (0 < hold ∧ d.tick ≤ t + hold)
        | none => false
      if held then count d .lkEvtCnt 9 0
      else
        let c := setBit (setFld (setFld e.ctl 0 5 w.1) 8 8 w.2) 17 true
        let e2 := { TEnt.bump { e with ctl := c } with movedAt := some d.tick }
        let d := shadowWrite (putEnt d 0 x.1 (some e2)) 0 x.1 0
        learnNote (count d .lkEvtCnt 8 0) (noteRing d 0 kw) (noteBytes 2 0 old.1 old.2 x.1 e2 d.tick)

/-- A new learned entry (R194). -/
def learnEnt (d : Dev) (kw : List DWord) (sk : Skein) : TEnt :=
  let w := learnWhere sk
  let dom := cfgF d .lkBdCfg (macBd kw) 0 0 8
  ⟨kw, BitVec.ofNat 64 (w.1 + w.2 * 2 ^ 8 + 2 ^ 17 + 2 ^ 24 + 2 ^ 25 + dom * 2 ^ 48), [0], 0, none⟩

/-- LEARN or LEARN_REFUSED (R194, R196): the first cause that holds. -/
def learn (d : Dev) (kw : List DWord) (skein : Option Skein) : Dev × PRes :=
  let refuse (k : Nat) : Dev × PRes := (count d .lkEvtCnt k 0, rStat 0x02)
  match skein with
  | none => refuse 7
  | some sk =>
    if ¬ cfgB d .lkBdCfg (macBd kw) 0 31 ∨ 25 ≤ sk.input then refuse 7
    else match findAny d 0 kw with
      | some x => if x.2.suspect then refuse 22 else (d, lkpOk 0x00 x.1 (macFields x.2) x.2)
      | none =>
        let e := learnEnt d kw sk
        if cfgF d .lkDomQuota e.domain 0 0 19 ≤ domUse d e.domain then refuse 5
        else if 64 ≤ d.lk.learned then refuse 6
        else match search d 0 kw with
          | none => (placeFail d 0, rStat 0x02)
          | some r =>
            let d := placeAt d 0 e r
            let d := shadowWrite d 0 r.2 0
            let d := { d with lk := { d.lk with learned := d.lk.learned + 1 } }
            (learnNote d (noteRing d 0 kw) (noteBytes 1 0 0 0 r.2 e d.tick), lkpOk 0x12 r.2 (macFields e) e)

/-- LKP SUB 0x02 (R113, R194 to R196). -/
def lkpMacSrc (d0 d : Dev) (p : Posted) : Dev × PRes :=
  let kw := macKey p.a
  let d := markKey d0 0 d kw
  match lookupKey d0 0 kw with
  | .ecc => (d, rStat 0x0E)
  | .found s e =>
    let d := hitKey d 0 kw
    (match p.skein with | some sk => stationMove d kw sk | none => d, lkpOk 0x00 s (macFields e) e)
  | .miss => learn d kw p.skein

/-- LKP SUB 0x03 and 0x04 (R205). -/
def lkpLpm (t : Nat) (d0 d : Dev) (p : Posted) : Dev × PRes :=
  let vrf := if t = 1 then fld p.a 32 12 else fld p.b 0 12
  let adr := if t = 1 then fld p.a 0 32 else p.a.toNat * 2 ^ 64 + p.a2.toNat
  let ls := lpmLengths d0 t vrf
  let d := ls.foldl (fun d l => markKey d0 t d (lpmKey t vrf l adr)) d
  match lpmProbe d0 t vrf adr ls with
  | (.miss, _) => (d, rStat 0x01)
  | (.ecc, _) => (d, rStat 0x0E)
  | (.found s e, l) => (hitKey d t e.kw, lkpOk 0x00 s l e)

/-- LKP SUB 0x05 (R206): a second probe without the local address. -/
def lkpTun (d0 d : Dev) (p : Posted) : Dev × PRes :=
  let low := fld p.a 0 28
  let local_ := fld p.a 32 32
  let k1 : List DWord := [BitVec.ofNat 64 (low + local_ * 2 ^ 32)]
  let k2 : List DWord := [BitVec.ofNat 64 low]
  let d := markKey d0 3 d k1
  match lookupKey d0 3 k1 with
  | .found s e => (hitKey d 3 k1, lkpOk 0x00 s 0 e)
  | .ecc => (d, rStat 0x0E)
  | .miss =>
    if local_ = 0 then (d, rStat 0x01)
    else
      let d := markKey d0 3 d k2
      match lookupKey d0 3 k2 with
      | .found s e => (hitKey d 3 k2, lkpOk 0x00 s 0 e)
      | .ecc => (d, rStat 0x0E)
      | .miss => (d, rStat 0x01)

/-! ### Flows and their homes -/

/-- HBM_EN and INIT (Table 7-14). -/
def hbmEn (d : Dev) : Bool := cfgB d .lkFlowCfg 0 0 31
def flowInit (d : Dev) : Bool := bit (cur d .lkFlowCfg 0 0) 30

/-- Home bucket of a flow (R208), and its bit of the presence map (R209). -/
def bucketOf (d : Dev) (kw : List DWord) : Nat := Config.keyedHash 1854 d.ct.epoch (4 :: kwNats kw) % 2 ^ 22
def mapBit (d : Dev) (kw : List DWord) : Nat := 8 + Config.keyedHash 209 d.ct.epoch (kwNats kw) % 24

/-- The flows homed in a bucket. -/
def homesOf (d : Dev) (b : Nat) : List Home := mget d.lk.homes b []

/-- Hank-memory address of a bucket's presence word (R209). -/
def presAddr (d : Dev) (b : Nat) : Nat := cfgF d .lkFlowCfg 0 0 0 2 * 2 ^ 24 + 4 * b

/-- The presence word. -/
def presOf (d : Dev) (b : Nat) : Word := BitVec.ofNat 32 (leNat (memRdN d.hank (presAddr d b) 4))

/-- Store the presence word. -/
def putPres (d : Dev) (b : Nat) (w : Word) : Dev := { d with hank := memWrN d.hank (presAddr d b) (leBytes 4 w.toNat) }

/-- COUNT of a bucket's presence word follows its homes. -/
def putHomes (d : Dev) (b : Nat) (hs : List Home) : Dev :=
  let d := { d with lk := { d.lk with homes := mput d.lk.homes b hs [] } }
  putPres d b (setFld (presOf d b) 0 4 hs.length)

/-- The device rewrites a bucket, and with it MAP (R209). -/
def rebuildMap (d : Dev) (b : Nat) : Dev :=
  let hs := homesOf d b
  putPres d b (hs.foldl (fun w h => setBit w (mapBit d h.kw) true) (BitVec.ofNat 32 hs.length))

/-- The home of a flow. -/
def homeOf (d : Dev) (kw : List DWord) : Option Home := (homesOf d (bucketOf d kw)).find? fun h => decide (h.kw = kw)

/-- Whether the presence word shows a flow absent from HBM (R209). -/
def flowAbsent (d : Dev) (kw : List DWord) : Bool := !bit (presOf d (bucketOf d kw)) (mapBit d kw)

/-- Whether a flow's bucket has room, or holds its home already. -/
def homeRoom (d : Dev) (kw : List DWord) : Bool :=
  (homeOf d kw).isSome || decide ((homesOf d (bucketOf d kw)).length < 8)

/-- Give a flow its home (R208, R209); a flow that has one and comes on die is no longer held in HBM. -/
def takeHome (d : Dev) (kw : List DWord) (held : Option TEnt) : Dev :=
  let b := bucketOf d kw
  let hs := homesOf d b
  let hs := if (homeOf d kw).isSome then hs.map fun h => if h.kw = kw then { h with held := held } else h else hs ++ [⟨kw, held⟩]
  let d := putHomes d b hs
  putPres d b (setBit (presOf d b) (mapBit d kw) true)

/-- Give up a flow's home (R209). -/
def dropHome (d : Dev) (kw : List DWord) : Dev :=
  let b := bucketOf d kw
  putHomes d b ((homesOf d b).filter fun h => decide (h.kw ≠ kw))

/-- FLOW_DEMOTION (R213) of the flow in a slot: its entry goes to its home slot, and its STALE becomes 0; it is counted at k = 17. -/
def demote (d : Dev) (s : Nat) (e : TEnt) : Dev :=
  let d := putEnt d 4 s none
  let d := takeHome d e.kw (some (e.withBit 26 false))
  count { d with lk := { d.lk with demos := d.lk.demos ++ [e.kw] } } .lkEvtCnt 17 0

/-- The candidate that R213 frees: an ABSENT placeholder, else the lowest-way non-static candidate with HIT = 0, else the
lowest-way non-static candidate. -/
def victim (d : Dev) (kw : List DWord) : Option (Nat × TEnt) :=
  let cs := (cands d 4 kw).filterMap fun s => (entOf d 4 s).map fun e => (s, e)
  match cs.find? fun x => x.2.absent with
  | some x => some x
  | none =>
    let ns := cs.filter fun x => !x.2.isStatic && !x.2.suspect
    match ns.find? fun x => !x.2.isHit with
    | some x => some x
    | none => ns.head?

/-- Place a flow on die (R186, R213); the answer holds its slot. -/
def placeFlow (d : Dev) (e : TEnt) : Dev × Option Nat :=
  match search d 4 e.kw with
  | some r => (placeAt d 4 e r, some r.2)
  | none =>
    if !hbmEn d then (placeFail d 4, none)
    else match victim d e.kw with
      | none => (placeFail d 4, none)
      | some x =>
        let d := if x.2.absent then putEnt d 4 x.1 none else demote d x.1 x.2
        (placeAt d 4 e ([], x.1), some x.1)

/-- A new flow entry with its control word and data words. -/
def flowEnt (kw : List DWord) (ctl : Nat) (dw : List DWord) : TEnt := ⟨kw, BitVec.ofNat 64 ctl, dw, 0, none⟩

/-- Whether a promotion is in progress for a key (R211). -/
def promoting (d : Dev) (kw : List DWord) : Bool := d.lk.promos.any fun x => decide (x.1 = kw)

/-- Whether FLOW operations on a key return FETCHING: a demotion write or a promotion is in progress for it (R211, R213). -/
def inFlight (d : Dev) (kw : List DWord) : Bool := decide (kw ∈ d.lk.demos) || promoting d kw

/-- Start a promotion (R210), unless one is in progress for the key. A promotion of a flow whose demotion write is in progress waits for the
write (R213). -/
def startPromo (d : Dev) (kw : List DWord) : Dev :=
  if promoting d kw then d
  else if 256 ≤ d.lk.promos.length then count d .lkEvtCnt 16 0
  else count { d with lk := { d.lk with promos := d.lk.promos ++ [(kw, d.tick)] } } .lkEvtCnt 15 0

/-- The key of a FLOW operation (R114). -/
def flowKey (p : Posted) : List DWord := [p.a, p.a2]

/-- FLOW FIND (R114, R207, R210, R214). -/
def flowFind (d0 d : Dev) (p : Posted) : Dev × PRes :=
  let kw := flowKey p
  let d := markKey d0 4 d kw
  match lookupKey d0 4 kw with
  | .found s e => (hitKey d 4 kw, if e.absent then rStat 0x01 else lkpOk 0x00 s 0 e)
  | .ecc => (d, rStat 0x0E)
  | .miss =>
    if !hbmEn d0 || flowInit d0 then (d, rStat 0x01)
    else if promoting d0 kw then (d, rStat 0x0B)
    else if !inFlight d0 kw && flowAbsent d0 kw then (d, rStat 0x01)
    else (startPromo d kw, rStat 0x0B)

/-- Insert a flow for FIND_OR_INSERT (R207, R210, R214): the home bucket's COUNT, then the rate of 128 per boundary, then the
placement. A placeholder becomes a real entry. -/
def flowInsert (d : Dev) (kw : List DWord) (w : DWord) : Dev × PRes :=
  let e := flowEnt kw (2 ^ 24 + 2 ^ 25) [w, 0, 0, 0]
  if hbmEn d && !homeRoom d kw then (count d .lkEvtCnt 4 0, rStat 0x02)
  else if 128 ≤ d.lk.inserted then (count d .lkEvtCnt 20 0, rStat 0x02)
  else
    let r := match findKey d 4 kw with
      | some x => (putEnt d 4 x.1 (some { e with camAt := x.2.camAt }), some x.1)
      | none => placeFlow d e
    match r.2 with
    | none => (r.1, rStat 0x02)
    | some s =>
      let d := if hbmEn d then takeHome r.1 kw none else r.1
      ({ d with lk := { d.lk with inserted := d.lk.inserted + 1 } }, lkpOk 0x13 s 0 e)

/-- FLOW FIND_OR_INSERT (R115, R207, R210, R214). Where the table holds the key in a SUSPECT or unreadable slot, nothing is inserted, since
a table never holds a key twice (R185), and the operation returns FULL (DESIGN CHOICE, log entry 287). -/
def flowFindIns (d0 d : Dev) (p : Posted) : Dev × PRes :=
  let kw := flowKey p
  let d := markKey d0 4 d kw
  let ins (d : Dev) : Dev × PRes :=
    match findKey d 4 kw with
    | some x => if x.2.absent then flowInsert d kw p.b else (hitKey d 4 kw, lkpOk 0x00 x.1 0 x.2)
    | none => if (findAny d 4 kw).isSome then (d, rStat 0x02) else flowInsert d kw p.b
  match lookupKey d0 4 kw with
  | .found s e => if e.absent then (if flowInit d0 then (hitKey d 4 kw, rStat 0x02) else ins (hitKey d 4 kw))
      else (hitKey d 4 kw, lkpOk 0x00 s 0 e)
  | .ecc => (d, rStat 0x0E)
  | .miss =>
    if !hbmEn d0 then ins d
    else if flowInit d0 then (d, rStat 0x02)
    else if promoting d0 kw then (d, rStat 0x0B)
    else if !inFlight d0 kw && flowAbsent d0 kw then ins d
    else (startPromo d kw, rStat 0x0B)

/-- What FLOW UPDATE and DELETE return for a key that no slot matches: FETCHING while it is in flight (R211, R213), else MISS. -/
def flowGone (d0 : Dev) (kw : List DWord) : PRes := rStat (if hbmEn d0 && !flowInit d0 && inFlight d0 kw then 0x0B else 0x01)

/-- FLOW UPDATE (R114, R210, R214): it acts only on die and returns the entry as it stood when the tick began. -/
def flowUpdate (d0 d : Dev) (p : Posted) : Dev × PRes :=
  let kw := flowKey p
  let d := markKey d0 4 d kw
  match lookupKey d0 4 kw with
  | .ecc => (d, rStat 0x0E)
  | .miss => (d, flowGone d0 kw)
  | .found s e =>
    let d := hitKey d 4 kw
    if e.absent then (d, rStat 0x01)
    else
      let d := match findKey d 4 kw with
        | some x => if x.2.absent then d else putEnt d 4 x.1 (some (TEnt.bump { x.2 with dw := p.b :: x.2.dw.drop 1 }))
        | none => d
      (d, lkpOk 0x00 s 0 e)

/-- FLOW DELETE (R114, R214): the home goes with the flow as it stands at its place in the order (R208). -/
def flowDelete (d0 d : Dev) (p : Posted) : Dev × PRes :=
  let kw := flowKey p
  let d := markKey d0 4 d kw
  match lookupKey d0 4 kw with
  | .found s e =>
    let d := match findKey d 4 kw with
      | some x =>
        let d1 := putEnt d 4 x.1 none
        if hbmEn d && !x.2.absent then dropHome d1 kw else d1
      | none => d
    (d, if e.absent then rStat 0x01 else lkpOk 0x00 s 0 e)
  | .ecc => (d, rStat 0x01)
  | .miss => (d, flowGone d0 kw)

/-- A promotion whose read has completed acts (R211): the flow comes on die with its stored data words, HIT and STALE, or an ABSENT placeholder does. A
promotion waits for a demotion write of its key, and is retried at the next boundary where no slot is found (R213). -/
def promoDone (kw : List DWord) (d : Dev) : Dev :=
  if !promoting d kw || decide (kw ∈ d.lk.demos) then d
  else
    let isOver (d : Dev) : Dev := { d with lk := { d.lk with
      promos := d.lk.promos.filter fun x => decide (x.1 ≠ kw), readDone := d.lk.readDone.filter fun x => decide (x ≠ kw) } }
    if (findAny d 4 kw).isSome then isOver d
    else
      let held := match homeOf d kw with
        | some h => h.held
        | none => none
      let e := match held with
        | some e => e
        | none => flowEnt kw (2 ^ 24 + 2 ^ 28) [0, 0, 0, 0]
      match placeFlow d e with
      | (d, none) => d
      | (d, some _) => isOver (if held.isSome then takeHome d kw none else d)

/-- A demotion whose write has completed (R213): the flow is in its home slot, and the bucket was rewritten. -/
def demoDone (kw : List DWord) (d : Dev) : Dev :=
  if kw ∈ d.lk.demos then rebuildMap { d with lk := { d.lk with demos := d.lk.demos.erase kw } } (bucketOf d kw) else d

/-- FLOW_PROMOTION_DONE (R211): the read of the home bucket completes; the promotion acts at step 3 of the boundary. -/
def promoRead (kw : List DWord) (d : Dev) : Dev :=
  if promoting d kw && !decide (kw ∈ d.lk.readDone) then { d with lk := { d.lk with readDone := d.lk.readDone ++ [kw] } } else d

/-- DEMOTION_WRITE_DONE (R213): the HBM write completes; the demotion is over at step 3 of the boundary. -/
def demoWrite (kw : List DWord) (d : Dev) : Dev :=
  if kw ∈ d.lk.demos then { d with lk := { d.lk with writeDone := d.lk.writeDone ++ [kw] } } else d

/-- Step 3 of R187: demotions and promotions whose HBM transfers have completed, the demotions first, and promotions whose 64 ticks are
over (R211). -/
def transfersDone (d : Dev) : Dev :=
  let ws := d.lk.writeDone
  let d := ws.foldl (fun d kw => demoDone kw d) { d with lk := { d.lk with writeDone := [] } }
  (d.lk.promos.filter fun x => decide (x.2 + 64 ≤ d.tick) || decide (x.1 ∈ d.lk.readDone)).foldl (fun d x => promoDone x.1 d) d

/-! ### Table commands -/

/-- Entry words of a command set (Table 7-20). -/
def cmdWords (d : Dev) (s : Nat) : List DWord :=
  (List.range 8).map fun j => BitVec.ofNat 64 ((cur d .lkCmdData s (2 * j)).toNat + (cur d .lkCmdData s (2 * j + 1)).toNat * 2 ^ 32)

/-- Put entry words into a command set. -/
def putCmdWords (d : Dev) (s : Nat) (ws : List DWord) : Dev :=
  (List.range 8).foldl (fun d j =>
    let w := ws.getD j 0
    setBoth (setBoth d .lkCmdData s (2 * j) (BitVec.ofNat 32 w.toNat)) .lkCmdData s (2 * j + 1) (BitVec.ofNat 32 (w.toNat / 2 ^ 32))) d

/-- Whether the key words keep R190: bits that the table does not name, and prefix bits beyond the length, are 0. -/
def keyOk (t : Nat) (kw : List DWord) : Bool :=
  let w0 := kw.getD 0 0
  let w2 := kw.getD 2 0
  match t with
  | 0 => decide (fld w0 60 4 = 0)
  | 1 =>
    let l := fld w0 48 6
    decide (fld w0 44 4 = 0 ∧ fld w0 54 10 = 0 ∧ l ≤ 32 ∧ fld w0 0 (32 - l) = 0)
  | 2 =>
    let l := fld w2 16 8
    let a := w0.toNat * 2 ^ 64 + (kw.getD 1 0).toNat
    decide (fld w2 12 4 = 0 ∧ fld w2 24 40 = 0 ∧ l ≤ 128 ∧ a % 2 ^ (128 - l) = 0)
  | 3 => decide (fld w0 28 4 = 0)
  | _ => true

/-- Whether a supplied control word keeps Table 7-2 and R189: reserved bits 0, bits [15:0] and DOMAIN 0 but in the MAC table,
VALID 1 (R191). -/
def ctlOk (t : Nat) (c : DWord) : Bool :=
  decide (fld c 5 3 = 0 ∧ fld c 18 6 = 0 ∧ fld c 29 3 = 0 ∧ fld c 56 8 = 0) && bit c 24
    && decide (t = 0 ∨ (fld c 0 16 = 0 ∧ fld c 48 8 = 0))

/-- The entry that a command supplies, with flags and VERSION 0. -/
def cmdEnt (t : Nat) (ws : List DWord) : TEnt :=
  let c := ws.getD (keyWords t) 0
  ⟨ws.take (keyWords t), setFld (setFld c 25 4 0) 32 16 0, (ws.drop (keyWords t + 1)).take (dataWords t), 0, none⟩

/-- Whether the shadow word supplied in data word 7 is needed and differs (R193). -/
def shadowWrong (t : Nat) (e : TEnt) (ws : List DWord) : Bool :=
  decide (t < 4) && !e.unconf && decide (fld (ws.getD 7 0) 0 32 ≠ shadowCrc e)

/-- READ (Table 7-4). -/
def lkRead (d : Dev) (s t : Nat) (byIx : Bool) (ix : Nat) (ws : List DWord) : Dev × Nat × Nat :=
  let give (d : Dev) (i : Nat) (e : TEnt) : Dev × Nat × Nat :=
    let out := sliceD (0 : DWord) e.words 0 7 ++ [BitVec.ofNat 64 (if t < 4 then shadowNow d t i else 0)]
    (putCmdWords d s out, 0, i)
  if byIx then
    if slotCount t ≤ ix then (d, 5, 0)
    else if slotBad d t ix ≠ 0 then (markBad t d ix, 6, ix)
    else match entOf d t ix with
      | none => (d, 1, 0)
      | some e => give d ix e
  else
    let kw := ws.take (keyWords t)
    if !keyOk t kw then (d, 5, 0)
    else
      let r := lookupKey d t kw
      let d := markKey d t d kw
      match r with
      | .found i e => give d i e
      | .ecc => (d, 6, 0)
      | .miss => (d, 1, 0)

/-- Whether a key may stand in a slot. -/
def slotFor (d : Dev) (t ix : Nat) (kw : List DWord) : Bool :=
  decide (ix ∈ cands d t kw) || (decide (wayCount t ≤ ix) && decide (ix < slotCount t))

/-- The occupant of a flow slot is replaced or deleted: its home is given up. -/
def releaseFlow (d : Dev) (t : Nat) (e : Option TEnt) : Dev :=
  match e with
  | some e => if t = 4 ∧ hbmEn d ∧ ¬ e.absent then dropHome d e.kw else d
  | none => d

/-- WRITE (Table 7-4, R191, R193). -/
def lkWrite (d : Dev) (t ix : Nat) (ws : List DWord) : Dev × Nat × Nat :=
  let e := cmdEnt t ws
  if slotCount t ≤ ix ∨ ¬ keyOk t e.kw ∨ ¬ ctlOk t (ws.getD (keyWords t) 0) ∨ ¬ slotFor d t ix e.kw then (d, 5, 0)
  else match findAny d t e.kw with
    | some x => if x.1 ≠ ix then (d, 2, x.1) else go e
    | none => go e
where
  /-- The write itself, once the key is valid in no other slot. -/
  go (e : TEnt) : Dev × Nat × Nat :=
    if shadowWrong t e ws then (d, 7, ix)
    else
      let old := entOf d t ix
      let e := match old with
        | some o => { e with ctl := setFld e.ctl 32 16 (o.version + 1) }
        | none => e
      let d1 := releaseFlow d t old
      if t = 4 ∧ hbmEn d ∧ ¬ homeRoom d1 e.kw then (d, 5, 0)
      else
        let d := if t = 4 ∧ hbmEn d then takeHome d1 e.kw none else d1
        let d := { d with lk := { d.lk with bad := mput d.lk.bad (slotKey t ix) 0 0 } }
        let d := putEnt d t ix (some { e with camAt := d.tick })
        (shadowWrite d t ix (shadowFor (some e)), 0, ix)

/-- INSERT (Table 7-4, R191, R193). -/
def lkInsert (d : Dev) (t : Nat) (ws : List DWord) : Dev × Nat × Nat :=
  let e := cmdEnt t ws
  if ¬ keyOk t e.kw ∨ ¬ ctlOk t (ws.getD (keyWords t) 0) then (d, 5, 0)
  else
    let hb := decide (t = 4) && hbmEn d
    let d := markKey d t d e.kw
    match findAny d t e.kw with
    | some x =>
      if !x.2.absent then (d, 2, x.1)
      else if flowInit d then (d, 3, 0)
      else if !homeRoom d e.kw then (count d .lkEvtCnt 4 0, 3, 0)
      else (takeHome (putEnt d t x.1 (some { e with camAt := x.2.camAt })) e.kw none, 0, x.1)
    | none =>
      if hb && (homeOf d e.kw).isSome then (d, 2, 0)
      else if shadowWrong t e ws then (d, 7, 0)
      else if hb && flowInit d then (d, 3, 0)
      else if hb && !homeRoom d e.kw then (count d .lkEvtCnt 4 0, 3, 0)
      else if t = 4 then
        match placeFlow d e with
        | (d, none) => (d, 3, 0)
        | (d, some i) => (if hb then takeHome d e.kw none else d, 0, i)
      else match search d t e.kw with
        | none => (placeFail d t, 3, 0)
        | some r => (shadowWrite (placeAt d t e r) t r.2 (shadowFor (some e)), 0, r.2)

/-- DELETE (Table 7-4). A SUSPECT entry is deleted only by its slot (R220), so that its flow is not found by key; a flow by key wherever it
is held (R191). An unreadable slot that a command by key reads is marked (R217). -/
def lkDelete (d : Dev) (t : Nat) (byIx : Bool) (ix : Nat) (ws : List DWord) : Dev × Nat × Nat :=
  if byIx then
    if slotCount t ≤ ix then (d, 5, 0)
    else match entOf d t ix with
      | none => (d, 1, 0)
      | some e =>
        let d := { d with lk := { d.lk with bad := mput d.lk.bad (slotKey t ix) 0 0 } }
        (removeEnt (releaseFlow d t (some e)) t ix, 0, ix)
  else
    let kw := ws.take (keyWords t)
    if !keyOk t kw then (d, 5, 0)
    else
      let d := markKey d t d kw
      match findKey d t kw with
      | some x =>
        if x.2.absent then (removeEnt d t x.1, 1, 0) else (removeEnt (releaseFlow d t (some x.2)) t x.1, 0, x.1)
      | none =>
        if t = 4 ∧ hbmEn d ∧ (homeOf d kw).isSome ∧ (findAny d t kw).isNone then
          (rebuildMap (dropHome d kw) (bucketOf d kw), 0, 0)
        else (d, 1, 0)

/-- CAS (Table 7-4, R193): the flags and the VERSION count on. -/
def lkCas (d : Dev) (t : Nat) (ws : List DWord) : Dev × Nat × Nat :=
  let c := ws.getD (keyWords t) 0
  let n := cmdEnt t ws
  if ¬ keyOk t n.kw ∨ ¬ ctlOk t c then (d, 5, 0)
  else
    let d := markKey d t d n.kw
    match findKey d t n.kw with
    | none => (d, 1, 0)
    | some x =>
      let o := x.2
      if o.absent then (d, 1, 0)
      else if fld c 32 16 ≠ o.version then (d, 4, x.1)
      else
        let e := TEnt.bump { o with ctl := setFld (setFld n.ctl 25 4 (fld o.ctl 25 4)) 32 16 o.version, dw := n.dw }
        if shadowWrong t e ws then (d, 7, x.1)
        else (shadowWrite (putEnt d t x.1 (some e)) t x.1 (shadowFor (some e)), 0, x.1)

/-- Perform the command of set `s` at the boundary (R192): BUSY clears and the result is shown. -/
def lkPerform (d : Dev) (s : Nat) : Dev :=
  let w := cur d .lkCmd s 0
  if !bit w 31 then d
  else
    let t := fld w 4 3
    let byIx := bit w 9
    let ix := fld w 10 20
    let ws := cmdWords d s
    let r : Dev × Nat × Nat :=
      if 4 < t then (d, 5, 0)
      else match fld w 0 4 with
        | 1 => lkRead d s t byIx ix ws
        | 2 => if byIx then lkWrite d t ix ws else (d, 5, 0)
        | 3 => if byIx then (d, 5, 0) else lkInsert d t ws
        | 4 => lkDelete d t byIx ix ws
        | 5 => if byIx then (d, 5, 0) else lkCas d t ws
        | _ => (d, 5, 0)
    let d := flag r.1 .lkCmd s 0 31 false
    setCur d .lkCmdResult s 0 (BitVec.ofNat 32 (r.2.1 * 2 ^ 24 + r.2.2))

/-- A write to LK_CMD (R192): a nonzero OP starts a command; while BUSY is 1 the write is ignored, sets OVERRUN and is counted. -/
def lkCmdWrite (s : Nat) (v : Word) (d : Dev) : Dev :=
  let w := cur d .lkCmd s 0
  if bit w 31 then count (flag d .lkCmd s 0 30 true) .lkEvtCnt 21 0
  else
    let nw := setBit (setBit (v &&& 0x3FFFFE7F) 30 (bit w 30 && !bit v 30)) 31 (decide (fld v 0 4 ≠ 0))
    setBoth d .lkCmd s 0 nw

/-- A write to LK_CMD_DATA (R192). -/
def lkDataWrite (s j : Nat) (v : Word) (d : Dev) : Dev :=
  if bit (cur d .lkCmd s 0) 31 then count (flag d .lkCmd s 0 30 true) .lkEvtCnt 21 0 else setBoth d .lkCmdData s j v

/-- LK_CMD with its fields (Table 7-18). -/
def lkCmdWord (op t : Nat) (byIx : Bool) (ix : Nat) : Word := BitVec.ofNat 32 (op + t * 16 + b2n byIx * 512 + ix % 2 ^ 20 * 1024)

/-! ### The comb -/

/-- Ticks between visits; 0 acts as 1 (Table 7-13). -/
def combPeriod (d : Dev) (t : Nat) : Nat := orIf0 (fld (combCfg d t) 0 24) 1

/-- The boundary of the next visit of table t, or with t = 5 of the HBM sweep; none while it is not enabled. -/
def combDue (d : Dev) (t : Nat) : Option Nat := mget d.lk.combAt t none

/-- Set the next visit. -/
def putCombDue (d : Dev) (t : Nat) (b : Option Nat) : Dev := { d with lk := { d.lk with combAt := mput d.lk.combAt t b none } }

/-- Whether the comb of a table, or the HBM sweep, is enabled (R200, R215). -/
def combOn (d : Dev) (t : Nat) : Bool := bit (combCfg d t) 31 && (decide (t < 5) || hbmEn d)

/-- The first visit comes one period after the boundary that finds the comb enabled; R200 and R215 do not place it (DESIGN CHOICE, log
entry 60). -/
def combStart (d : Dev) (t : Nat) : Dev :=
  if !combOn d t then putCombDue d t none
  else if (combDue d t).isNone then putCombDue d t (some (d.tick + combPeriod d t)) else d

/-- Whether a visit is due. -/
def combIsDue (d : Dev) (t : Nat) : Bool := combOn d t && (combDue d t).any fun b => decide (b ≤ d.tick)

/-- AGE_REMOVE (R201). -/
def ageRemove (d : Dev) (t s : Nat) (e : TEnt) : Dev :=
  let d := count d .lkEvtCnt 10 0
  if e.absent then putEnt d t s none
  else if t = 4 ∧ hbmEn d then demote d s e
  else learnNote (removeEnt d t s) (noteRing d t e.kw) (noteBytes (if t = 4 then 4 else 3) t 0 0 s e d.tick)

/-- What the comb does at one slot (R200); SUSPECT entries are not aged (R220). -/
def combSlot (t : Nat) (d : Dev) (s : Nat) : Dev :=
  match entOf d t s with
  | none => d
  | some e =>
    if e.suspect then d
    else if e.isHit then putEnt d t s (some ((e.withBit 25 false).withBit 26 false))
    else if !e.stale then putEnt d t s (some (e.withBit 26 true))
    else if e.isStatic then d
    else ageRemove d t s e

/-- CAM_DRAIN (R203): the movable CAM entry that has been there longest takes the way slot that steps 1 to 3 of R186 find. A drain is a
placement: one that finds no slot moves nothing and fails under R186. -/
def camDrain (t : Nat) (d : Dev) : Dev :=
  let cs := sortBy (fun x : Nat × TEnt => x.2.camAt) ((entsOf d t).filter fun x => decide (wayCount t ≤ x.1) && movable t x.2)
  match cs.head? with
  | none => d
  | some x => match searchWays d t x.2.kw with
    | none => placeFail d t
    | some r => count (moveEnt t (r.1.foldl (moveEnt t) d) (x.1, r.2)) .lkEvtCnt 18 0

/-- COMB_VISIT (R200, R203) of a table whose visit is due. -/
def combVisit (t : Nat) (d : Dev) : Dev :=
  if !combIsDue d t then d
  else
    let pos := mget d.lk.comb t 0
    let n := min 64 (slotCount t - pos)
    let d := ((List.range n).map (pos + ·)).foldl (combSlot t) d
    let next := if slotCount t ≤ pos + n then 0 else pos + n
    camDrain t (putCombDue { d with lk := { d.lk with comb := mput d.lk.comb t next 0 } } t (some (d.tick + combPeriod d t)))

/-- The HBM sweep at one bucket (R215); every rewrite of the bucket rebuilds MAP (R209). -/
def sweepBucket (d : Dev) (b : Nat) : Dev :=
  (homesOf d b).foldl (fun d h =>
    match h.held with
    | none => d
    | some e =>
      let hs := homesOf d b
      let put (e : TEnt) : Dev := { d with lk := { d.lk with
        homes := mput d.lk.homes b (hs.map fun x => if x.kw = h.kw then { x with held := some e } else x) [] } }
      if e.isHit then rebuildMap (put ((e.withBit 25 false).withBit 26 false)) b
      else if !e.stale then rebuildMap (put (e.withBit 26 true)) b
      else if e.isStatic then d
      else
        let d := count (rebuildMap (dropHome d h.kw) b) .lkEvtCnt 10 0
        learnNote d (noteRing d 5 h.kw) (noteBytes 4 4 0 0 0 e d.tick)) d

/-- HBM_SWEEP_VISIT (R215): 64 buckets every PERIOD ticks. -/
def sweepVisit (d : Dev) : Dev :=
  if !combIsDue d 5 then d
  else
    let pos := mget d.lk.comb 5 0
    let d := ((List.range 64).map (pos + ·)).foldl sweepBucket d
    putCombDue { d with lk := { d.lk with comb := mput d.lk.comb 5 ((pos + 64) % 2 ^ 22) 0 } } 5 (some (d.tick + combPeriod d 5))

/-! ### The card walker -/

/-- Slots of tables 0 to 3 that the card walker runs through. -/
def walkTotal : Nat := 526080

/-- The table and slot at a position of the card walker (R219). -/
def walkAt (p : Nat) : Nat × Nat :=
  if p < 263168 then (0, p) else if p < 394496 then (1, p - 263168) else if p < 460288 then (2, p - 394496) else (3, p - 460288)

/-- Whether an HBM word has an uncorrectable error. -/
def hbmBad (d : Dev) (a : Nat) : Bool := decide (2 ^ 40 + a / 8 ∈ d.ft.bad)

/-- CARD_WALKER_VISIT (R219, R220) of one slot. An unreadable slot that is not marked yet is compared by the entry it was given (DESIGN
CHOICE, log entry 288). -/
def walkSlot (d : Dev) (p : Nat) : Dev :=
  let t := (walkAt p).1
  let s := (walkAt p).2
  let e := entOf d t s
  let skip := match e with
    | some e => e.unconf || e.suspect
    | none => false
  if skip || (d.lk.shw.any fun x => decide (x.1 = slotKey t s)) then d
  else if hbmBad d (shadowAddr d t s) then count d .lkEvtCnt 19 0
  else if leNat (memRdN d.hbm (shadowAddr d t s) 4) = shadowFor e then d
  else
    let d := raise (count d .lkEvtCnt 14 0) 6
    match e with
    | some e => suspectInfo (putEnt d t s (some (e.withBit 27 true))) 0 t s
    | none => suspectInfo d 1 t s

/-- The card walker at a boundary: RATE slots (Table 7-15). -/
def walker (d : Dev) : Dev :=
  let w := cfg d .lkWalkCfg 0 0
  if !bit w 31 then d
  else
    let n := min 64 (orIf0 (fld w 0 7) 1)
    let pos := d.lk.walk
    let d := ((List.range n).map fun i => (pos + i) % walkTotal).foldl walkSlot d
    { d with lk := { d.lk with walk := (pos + n) % walkTotal } }

/-! ### The boundary -/

/-- One LKP operation. -/
def lkpOp (d0 d : Dev) (p : Posted) : Dev × PRes :=
  match p.op with
  | .lkpMacDst => lkpMacDst d0 d p
  | .lkpMacSrc => lkpMacSrc d0 d p
  | .lkpLpm4 => lkpLpm 1 d0 d p
  | .lkpLpm6 => lkpLpm 2 d0 d p
  | _ => lkpTun d0 d p

/-- One FLOW operation. -/
def flowOp (d0 d : Dev) (p : Posted) : Dev × PRes :=
  match p.op with
  | .flowFind => flowFind d0 d p
  | .flowFindIns => flowFindIns d0 d p
  | .flowUpdate => flowUpdate d0 d p
  | _ => flowDelete d0 d p

/-- Kinds of posted operations. -/
def isLkp : POp → Bool
  | .lkpMacDst | .lkpMacSrc | .lkpLpm4 | .lkpLpm6 | .lkpTun => true
  | _ => false

def isFlow : POp → Bool
  | .flowFind | .flowFindIns | .flowUpdate | .flowDelete => true
  | _ => false

/-- Occupancy of the CAMs (Table 7-22). -/
def camStatus (d : Dev) : Dev :=
  (List.range 5).foldl (fun d t =>
    let n := ((entsOf d t).filter fun x => decide (wayCount t ≤ x.1)).length
    let w := cur d .lkCamStatus t 0
    setCur d .lkCamStatus t 0 (BitVec.ofNat 32 (n + max (fld w 16 11) n * 2 ^ 16))) d

/-- TABLE_CHANGES_APPLY (R187): learning and moves, flow operations, completed transfers, commands, comb visits and drains, card walker
marks; `ops` is in service order, and `d0` holds the tables as they stood when the tick began (R110). -/
def tableBoundary (ops : List Posted) (d0 d : Dev) : Dev :=
  let d := { d with lk := { d.lk with learned := 0, inserted := 0 } }
  let d := (ops.filter fun p => isLkp p.op).foldl (perform fun d p => lkpOp d0 d p) d
  let d := (ops.filter fun p => isFlow p.op).foldl (perform fun d p => flowOp d0 d p) d
  let d := transfersDone d
  let d := (List.range 4).foldl lkPerform d
  let d := (List.range 5).foldl (fun d t => combVisit t d) ((List.range 6).foldl combStart d)
  let d := walker (sweepVisit d)
  ringLines (camStatus d)

/-! ### Configuration writes -/

/-- LK_RING_CFG_WRITE (R198, Table 7-11): enabling sets PROD and CONS to 0; BASE and LOG2_DEPTH change only while EN is 0. -/
def ringCfgWrite (r : Nat) (v : Word) (d : Dev) : Dev :=
  let w := cur d .lkRingCfg r 0
  let nw := v &&& 0x83FFFFDF
  if bit w 31 then setBoth d .lkRingCfg r 0 (setBit w 31 (bit nw 31))
  else
    let d := setBoth d .lkRingCfg r 0 nw
    if bit nw 31 then setBoth (setCur d .lkRingProd r 0 0) .lkRingCons r 0 0 else d

/-- FLOW_CFG_WRITE (R216, R529, R542): HBM_EN, HBM_BASE and PRES_BASE change only while the on-die flow cache holds no entry; HBM_BASE
23 is refused (R529), and 24 to 31 refuse setting HBM_EN (Table 7-14). Setting HBM_EN clears the areas and sets INIT. -/
def flowCfgWrite (v : Word) (d : Dev) : Dev :=
  let w := cur d .lkFlowCfg 0 0
  let same := decide (v &&& 0x80001F03 = w &&& 0x80001F03)
  let w1 := setBit w 29 (bit w 29 && !bit v 29)
  if same then setBoth d .lkFlowCfg 0 0 w1
  else if !(entsOf d 4).isEmpty ∨ fld v 8 5 = 23 ∨ (bit v 31 ∧ 24 ≤ fld v 8 5) then setBoth d .lkFlowCfg 0 0 (setBit w 29 true)
  else
    let nw := (w1 &&& 0x60000000) ||| (v &&& 0x80001F03)
    let on := bit v 31 && !bit w 31
    let d := setBoth d .lkFlowCfg 0 0 (setBit nw 30 (on || (bit w 30 && bit v 31)))
    let d := { d with lk := { d.lk with homes := [], promos := [], demos := [], readDone := [], writeDone := [] } }
    if on then
      let a := presAddr d 0
      { d with hank := memClear d.hank a (a + 2 ^ 24) }
    else d

/-- FLOW_INIT_DONE (R216). -/
def flowInitDone (d : Dev) : Dev :=
  let w := cur d .lkFlowCfg 0 0
  setBoth d .lkFlowCfg 0 0 (setBit w 30 false)

end Sys2Proof.Machine
end

