-- ==== Sys2Proof/Machine/Posted.lean ====
section
/-! DEFINITION. The posted operations of memory, counters, meters, hashes, cipher attachment and frame buffers (R109, R110, R116, R117,
R121 to R123, R253, R467, R530), as a tick boundary performs them. -/

namespace Sys2Proof.Machine

/-- Whether two ranges of bytes meet. -/
def meets (a n b m : Nat) : Bool := decide (a < b + m) && decide (b < a + n) && decide (0 < n) && decide (0 < m)

/-- Slots of the tables that have a shadow array (R218). -/
def shadowSlots : Nat → Nat
  | 0 => 263168 | 1 => 131328 | 2 => 65792 | _ => 65792

/-- The counter-pair area (R467): base and bytes. -/
def pairArea (d : Dev) : Nat × Nat := (fld (cfg64 d .ftCntCfg 0 0) 0 24 * 4096, 16 * fld (cfg64 d .ftCntCfg 0 0) 32 25)

/-- Areas of hank memory that programs may not reach (R145, R209, Table 21-4). -/
def hankAreas (d : Dev) : List (Nat × Nat) :=
  let rings := d.regs.act.filterMap fun e => match locateIn e.1 .drChanCfg0 with
    | some l => if bit e.2 31 then some (chanArea d l.i) else none
    | none => none
  if hbmEn d then (presAddr d 0, 2 ^ 24) :: rings else rings

/-- Areas of HBM that programs may not reach (R529, R530); the staging slots are configured once BS_STAGE has been written. -/
def hbmAreas (d : Dev) : List (Nat × Nat) :=
  [(0xBC0000000, 2 ^ 30), pairArea d]
    ++ (if hbmEn d then [(cfgF d .lkFlowCfg 0 0 8 5 * 2 ^ 31, 2 ^ 31)] else [])
    ++ (if d.bs.stageSet then [(stageAddr d 0, 2 ^ 33)] else [])
    ++ (if cfgB d .ftHbmSpare 0 0 31 then [(cfgF d .ftHbmSpare 0 0 0 7 * 2 ^ 29, 3 * 2 ^ 29)] else [])

/-- The shadow arrays, which only MRD may reach (R218). -/
def shadowAreas (d : Dev) : List (Nat × Nat) := (List.range 4).map fun t => (shadowAddr d t 0, 4 * shadowSlots t)

/-- What a memory address names (Table 4-7): the memory's number as in `Ft.bad`, and the offset. -/
def memRegion (who a : Nat) : Option (Nat × Nat × Nat) :=
  let off := a % 2 ^ 60
  match a / 2 ^ 60 with
  | 1 => some (2 + who / 64, off, 2 ^ 20)
  | 2 => some (0, off, 2 ^ 26)
  | 3 => some (1, off, 0xC00000000)
  | _ => none

/-- The checks of R121 on an access of `n` bytes that is aligned to `al`: its status, memory and offset. -/
def memCheck (d : Dev) (who a n al : Nat) (read : Bool) : Nat × Nat × Nat :=
  match memRegion who a with
  | none => (0x0C, 0, 0)
  | some (m, off, size) =>
    if off % al ≠ 0 ∨ size < off + n then (0x0C, 0, 0)
    else
      let areas := if m = 0 then hankAreas d else if m = 1 then hbmAreas d ++ (if read then [] else shadowAreas d) else []
      if areas.any fun r => meets off n r.1 r.2 then (0x0D, 0, 0) else (0x00, m, off)

/-- Bytes of a memory. -/
def memGet (d : Dev) (m off n : Nat) : List Byte :=
  match m with
  | 0 => memRdN d.hank off n
  | 1 => memRdN d.hbm off n
  | r + 2 => memRdN (reelOf d r).rmem off n

/-- Write bytes of a memory. -/
def memPut (d : Dev) (m off : Nat) (bs : List Byte) : Dev :=
  match m with
  | 0 => { d with hank := memWrN d.hank off bs }
  | 1 => { d with hbm := memWrN d.hbm off bs }
  | r + 2 =>
    let x := reelOf d r
    putReel d r { x with rmem := memWrN x.rmem off bs }

/-- Whether a range holds a word with an uncorrectable error (R473). -/
def memBad (d : Dev) (m off n : Nat) : Bool :=
  d.ft.bad.any fun b => decide (b / 2 ^ 40 = m) && meets (8 * (b % 2 ^ 40)) 8 off n

/-- A word that is written is good again (R473). -/
def memHeal (d : Dev) (m off : Nat) : Dev := { d with ft := { d.ft with bad := d.ft.bad.filter fun b => b ≠ 2 ^ 40 * m + off / 8 } }

/-- MRD (R122): memory as it stood at the boundary that began the tick, which is `d0`. -/
def opMrd (d0 : Dev) (p : Posted) : PRes :=
  let n := 8 * (max p.n 2 - 1)
  let (st, m, off) := memCheck d0 p.who p.a.toNat n 8 true
  if st ≠ 0 then rStat st
  else if p.n = 1 then rStat 0
  else if memBad d0 m off n then rStat 0x0E
  else
    let bs := memGet d0 m off n
    ⟨0, 0, (List.range (p.n - 1)).map fun i => BitVec.ofNat 64 (leNat (sliceD 0 bs (8 * i) 8))⟩

/-- MWR (R122): a word with an uncorrectable error becomes good when all of it is written, and an access to a part of it returns
ECC. -/
def opMwr (d : Dev) (p : Posted) (sz : Nat) : Dev × PRes :=
  let n := 2 ^ sz
  let (st, m, off) := memCheck d p.who p.a.toNat n n false
  if st ≠ 0 then (d, rStat st)
  else if n < 8 ∧ memBad d m off n then (d, rStat 0x0E)
  else (memPut (if n = 8 then memHeal d m off else d) m off (leBytes n p.b.toNat), rStat 0)

/-- MAT (R122): atomic on the 8-byte word at A; `f` gives the new word. -/
def opMat (d : Dev) (p : Posted) (f : Nat → Nat) : Dev × PRes :=
  let (st, m, off) := memCheck d p.who p.a.toNat 8 8 false
  if st ≠ 0 then (d, rStat st)
  else if memBad d m off 8 then (d, rStat 0x0E)
  else
    let old := leNat (memGet d m off 8)
    (memPut d m off (leBytes 8 (f old % 2 ^ 64)), ⟨0, 0, [BitVec.ofNat 64 old]⟩)

/-- The new word of a MAT operation. -/
def matNew (p : Posted) (old : Nat) : Nat :=
  match p.op with
  | .matAdd => old + p.b.toNat
  | .matSwap => p.b.toNat
  | .matCas => if old = p.b.toNat then p.b2.toNat else old
  | .matOr => old ||| p.b.toNat
  | _ => old &&& p.b.toNat

/-- Whether the counter pairs are configured and cleared, and an index lies among them (R467, R468). -/
def pairOk_ (d : Dev) (i : Nat) : Bool :=
  decide (i < fld (cfg64 d .ftCntCfg 0 0) 32 25) && !bit (cur64 d .ftCntCfg 0 0) 62

/-- Packets and bytes of a counter pair. -/
def pairGet (d : Dev) (i : Nat) : Nat × Nat :=
  let a := (pairArea d).1 + 16 * i
  (leNat (memRdN d.hbm a 8), leNat (memRdN d.hbm (a + 8) 8))

/-- CNT ADD and READ (R116, R466, R467). -/
def opCnt (d : Dev) (p : Posted) : Dev × PRes :=
  let i := fld p.a 0 24
  if !pairOk_ d i then (d, rStat 0x0C)
  else
    let (pk, by_) := pairGet d i
    match p.op with
    | .cntAdd =>
      let pk' := pk + 1
      let by' := by_ + fld p.b 0 32
      let d := { d with hbm := memWrN d.hbm ((pairArea d).1 + 16 * i) (leBytes 8 pk' ++ leBytes 8 by') }
      let n := i / 65536
      (if 2 ^ 64 ≤ pk' ∨ 2 ^ 64 ≤ by' then setWrap d .ftCntWrap (n / 32) (n % 32) else d, rStat 0)
    | _ => (d, ⟨0, 0, [BitVec.ofNat 64 pk, BitVec.ofNat 64 by_]⟩)

/-- MTR (R253). -/
def opMtr (d : Dev) (p : Posted) (pre : Nat) : Dev × PRes :=
  let m := fld p.a 0 16
  let r := mtrCharge (meterOf d m) pre (fld p.b 0 32)
  (putMeter d m r.1, ⟨0, r.2, []⟩)

/-- HASH (R117): the keyed hash of the two input words. -/
def opHash (d : Dev) (p : Posted) (key : Nat) : PRes :=
  ⟨0, Config.keyedHash (1170 + key) d.ct.epoch [p.a.toNat, p.b.toNat] % 2 ^ 32, []⟩

/-- One operation of this file; `d0` is the device with its memories as the tick began. -/
def draftOp (d0 d : Dev) (p : Posted) : Dev × PRes :=
  match p.op with
  | .mrd => (d, opMrd d0 p)
  | .mwr sz => opMwr d p sz.toNat
  | .matAdd | .matSwap | .matCas | .matOr | .matAnd => opMat d p (matNew p)
  | .cntAdd | .cntRead => opCnt d p
  | .mtr pre => opMtr d p pre.toNat
  | .hash key => (d, opHash d p key.toNat)
  | .cattAttach => (d, rStat (cattStatus d0 (fld p.a 0 20)))
  | .cattDetach => (d, rStat 0)
  | .frmAlloc | .frmSend | .frmFree => frmOp d p
  | _ => (d, rStat 0)

/-- Operations that this file performs; tables, locks and channels have their own units. -/
def isDraft : POp → Bool
  | .mrd | .mwr _ | .matAdd | .matSwap | .matCas | .matOr | .matAnd | .cntAdd | .cntRead | .mtr _ | .hash _ | .cattAttach | .cattDetach
  | .frmAlloc | .frmSend | .frmFree => true
  | _ => false

/-- The operations of a tick in service order; each thread's stay in the order it issued them (R110, R134). -/
def inService (d : Dev) (ops : List Posted) : List Posted := sortBy (fun p : Posted => svcPos d p.who) ops

/-- POSTED_RESULT_ARRIVES for the operations of this file (R108, R110). -/
def draftBoundary (ops : List Posted) (d : Dev) : Dev :=
  (ops.filter fun p => isDraft p.op).foldl (perform (draftOp (atStart d))) d

end Sys2Proof.Machine
end

