-- ==== Sys2Proof/Machine/Fault.lean ====
section
/-! DEFINITION. The fault tree, counter pairs, memory errors, HBM sparing and margins (R464 to R484, R510). -/

namespace Sys2Proof.Machine

/-- Mark both words of a 64-bit register as written (R525, R526). -/
def markDirty64 (d : Dev) (r : Reg) (i j : Nat) : Dev :=
  { d with regs := { d.regs with dirty := (addr r i j + 4) :: addr r i j :: d.regs.dirty } }

/-! ### The fault tree -/

/-- The word that a line of type 0x6 delivers (R470). -/
def eventWord (d : Dev) (c n : Nat) : DWord := BitVec.ofNat 64 (c + min n 0xFFFFFF * 2 ^ 8 + d.tick % 2 ^ 32 * 2 ^ 32)

/-- A line of type 0x6 becomes, or stays, pending (R470). -/
def signalEvent (c : Nat) (d : Dev) (kl : Nat × Nat) : Dev :=
  let key := lineKey kl.1 kl.2
  let n := mget d.ft.lineCnt key 0 + 1
  setPend { d with ft := { d.ft with lineCnt := mput d.ft.lineCnt key n 0 } } kl.1 kl.2 (eventWord d c n) none

/-- A raise of a class takes effect (R469, R471, R472): the counter, the pending bit, the event lines, the log of 256. -/
def raiseOne (d : Dev) (c : Nat) : Dev :=
  let d := count d .ftEvtCnt c 0
  let d := flag d .ftEvtPend 0 0 c true
  let d := (boundLines d 6 c).foldl (signalEvent c) d
  let log := d.ft.log ++ [(c, d.tick)]
  { d with ft := { d.ft with log := log.drop (log.length - 256), fresh := d.ft.fresh ||| 2 ^ c } }

/-- The raises of a boundary (R469). -/
def raiseBoundary (d : Dev) : Dev :=
  let cs := d.ft.raising
  cs.foldl raiseOne { d with ft := { d.ft with raising := [] } }

/-- The four words of a log entry (R471). -/
def logWords : Option (Nat × Nat) → Nat → Word
  | none, _ => 0
  | some e, 0 => BitVec.ofNat 32 e.1
  | some e, 2 => BitVec.ofNat 32 e.2
  | some e, 3 => BitVec.ofNat 32 (e.2 / 2 ^ 32)
  | some _, _ => 0

/-- FT_LOG_READ (R471): the oldest entry is removed, its words 1 to 3 are latched for the path. -/
def logRead (p : Path) (d : Dev) : Dev × Word :=
  let e := d.ft.log.head?
  let d := { d with ft := { d.ft with log := d.ft.log.tail } }
  let a := addr .ftLog 0 0
  (setLatch (setLatch (setLatch d p (a + 4) (logWords e 1)) p (a + 8) (logWords e 2)) p (a + 12) (logWords e 3), logWords e 0)

/-! ### Counter pairs -/

/-- PAIRS and BASE as stored. -/
def pairsOf (w : DWord) : Nat × Nat := (fld w 32 25, fld w 0 24)

/-- FT_CNT_CFG_WRITE (R468, R529, R542): BASE and PAIRS change only while PAIRS is 0; a write of PAIRS from 0 starts the clearing. -/
def cntCfgWrite (v : DWord) (d : Dev) : Dev :=
  let old := cur64 d .ftCntCfg 0 0
  let old := if bit v 63 then setBit old 63 false else old
  let (np, nb) := pairsOf v
  let (op, ob) := pairsOf old
  let bad := decide (16777216 < np) || (decide (op ≠ 0) && (decide (np ≠ op) || decide (nb ≠ ob)))
    || (decide (np ≠ 0) && decide (0xBC0000000 < 4096 * nb + 16 * np))
  let put (d : Dev) (w : DWord) : Dev := markDirty64 (setCur64 d .ftCntCfg 0 0 w) .ftCntCfg 0 0
  if bad then put d (setBit old 63 true)
  else
    let w := setFld (setFld old 32 25 np) 0 24 nb
    if op = 0 ∧ np ≠ 0 then
      let lo := 4096 * nb
      let hi := lo + 16 * np
      let keep := d.ft.bad.filter fun b => !(decide (b / 2 ^ 40 = 1) && decide (lo ≤ 8 * (b % 2 ^ 40)) && decide (8 * (b % 2 ^ 40) < hi))
      put { d with hbm := memClear d.hbm lo hi, ft := { d.ft with bad := keep } } (setBit w 62 true)
    else put d w

/-- CNT_AREA_INIT_DONE (R468). -/
def cntInitDone (d : Dev) : Dev := setCur64 d .ftCntCfg 0 0 (setBit (cur64 d .ftCntCfg 0 0) 62 false)

/-- A word of the selected pair as it stood at the last boundary (R468). -/
def cntRdWord (d : Dev) (w : Nat) : Word :=
  let i := cfgF d .ftCntRdIdx 0 0 0 24
  let n := (pairsOf (cfg64 d .ftCntCfg 0 0)).1
  if n = 0 then 0
  else if n ≤ i then BitVec.ofNat 32 (Config.pairBeyond i w)
  else
    let x := pairGet d i
    let v := if w < 2 then x.1 else x.2
    BitVec.ofNat 32 (if w % 2 = 0 then v else v / 2 ^ 32)

/-- FT_CNT_RD_READ (R468): the low packet word; words 1 to 3 are latched for the path. -/
def cntRdRead (p : Path) (d : Dev) : Dev × Word :=
  let a := addr .ftCntRd 0 0
  (setLatch (setLatch (setLatch d p (a + 4) (cntRdWord d 1)) p (a + 8) (cntRdWord d 2)) p (a + 12) (cntRdWord d 3), cntRdWord d 0)

/-! ### Memory errors -/

/-- The channel of an HBM granule (R474). -/
def hbmChannel (d : Dev) (a : Nat) : Nat := Config.keyedHash 474 d.ct.epoch [a / 256] % 32

/-- HBM_CHANNEL_FAIL (R475): the first channel that fails while sparing is armed is spared; a further one sets NO_SPARE. -/
def channelFail (ch : Nat) (d : Dev) : Dev :=
  if !cfgB d .ftHbmSpare 0 0 31 || decide (d.ft.spare = some ch) then d
  else match d.ft.spare with
    | some _ => raise (flag d .ftHbmStatus 0 0 31 true) 9
    | none =>
      let w := BitVec.ofNat 32 (ch * 2 ^ 16 + 2 ^ 8)
      raise { setCur d .ftHbmStatus 0 0 w with ft := { d.ft with spare := some ch } } 9

/-- HBM_SPARE_DONE (R475): the copy has ended. -/
def spareDone (d : Dev) : Dev :=
  let w := cur d .ftHbmStatus 0 0
  if fld w 8 2 = 1 then setCur d .ftHbmStatus 0 0 (setFld (setFld w 8 2 2) 0 7 100) else d

/-- Ticks of a history that lie within the last 1,048,576 ticks. -/
def recent (d : Dev) (t : Nat) : Bool := decide (d.tick < t + 1048576)

/-- MEM_CORRECTABLE (R217, R473): lookup SRAM counts at k = 12 of LK_EVT_CNT, every other memory in FT_MEM_CNT[0]; more than CE_THRESH in
the window raise MEM_CE. -/
def memCorrectable (m : MemAt) (d : Dev) : Dev :=
  let d := match m with
    | .lookup _ _ => count d .lkEvtCnt 12 0
    | .lookupFlags _ _ => count d .lkEvtCnt 12 0
    | _ => count d .ftMemCnt 0 0
  let ce := (d.tick :: d.ft.ce).filter (recent d)
  let d := { d with ft := { d.ft with ce := ce } }
  if cfgF d .ftMemCfg 0 0 0 16 < ce.length then raise d 7 else d

/-- A word of memory `m` at offset `off` returns ECC until it is written (R473). -/
def memSpoil (d : Dev) (m off : Nat) : Dev :=
  let b := 2 ^ 40 * m + off / 8
  if b ∈ d.ft.bad then d else { d with ft := { d.ft with bad := b :: d.ft.bad } }

/-- An uncorrectable error in an HBM access of 32 bytes (R474, R475): its words return ECC; more than UE_LIMIT of one channel in the
window start sparing. -/
def hbmUncorrectable (off : Nat) (d : Dev) : Dev :=
  let a := off / 32 * 32
  let d := memSpoil (memSpoil (memSpoil (memSpoil d 1 a) 1 (a + 8)) 1 (a + 16)) 1 (a + 24)
  let ch := hbmChannel d off
  let ue := ((ch, d.tick) :: d.ft.ue).filter fun x => recent d x.2
  let d := { d with ft := { d.ft with ue := ue } }
  if orIf0 (cfgF d .ftHbmSpare 0 0 16 8) 1 < (ue.filter fun x => x.1 = ch).length then channelFail ch d else d

/-- A thread faults over a memory error, where it executes (R54, R56). -/
def memFault (d : Dev) (t : Tid) (cause : Nat) : Dev :=
  let k := tkey t
  let x := thrOf d k
  if isService d k || holdsSkein x then
    faultThread d k cause x.pc (if cause = 0x0B then 0 else mget (reelOf d (k / 64)).imem x.pc 0)
  else d

/-- A domain reset of a reel (R473, R485): a reel in service is retired under R67, any other is reset. -/
def reelDomainReset (r : Nat) (d : Dev) : Dev :=
  let x := reelOf d r
  if x.st = .admitted ∨ x.st = .draining then reelFault r d else askReel d r .reset

/-- What an uncorrectable error does in each memory (Table 18-8, R217). -/
def memAct (m : MemAt) (d : Dev) : Dev :=
  match m with
  | .imem t => reelFault t.reel.val (memFault d t 0x0B)
  | .regFile t => memFault d t 0x09
  | .localMem t => memFault d t 0x0A
  | .reelMem r off => memSpoil d (2 + r.val) off.toNat
  | .hank off => memSpoil d 0 off.toNat
  | .hbm off => hbmUncorrectable off.toNat d
  | .lookup t s =>
    if slotBad d t.val s.toNat = 0 then { d with lk := { d.lk with bad := mput d.lk.bad (slotKey t.val s.toNat) 1 0 } } else d
  | .lookupFlags t ss => ss.foldl (fun d s => match entOf d t.val s.toNat with
    | some e => putEnt d t.val s.toNat (some (((e.withBit 25 false).withBit 26 false).withBit 27 true))
    | none => d) d
  | .packetBuffer f => match frameOf d f with
    | none => d
    | some x => if x.whole then frameEnds f true d else putFrame d f (some { x with bad := true })
  | .holdIn f => match frameOf d f with
    | some x => if x.st = .cipher then holdDrop d f (x.input / 4 % 4) 0 else d
    | none => d
  | .holdOut c => match copyOf d c with
    | none => d
    | some x =>
      let k := outCluster x.dest
      if c ∈ eqOf d k then dropCopy (putEq (ciCount d k 0) k ((eqOf d k).filter fun y => y ≠ c)) c x else d
  | .keyCache sa => if (keyOf d sa.toNat).isSome then askFill (evictKey d sa.toNat) sa.toNat else d
  | .replay h => endpointReset d h.val
  | .hostArray h => { d with ct := { d.ct with domReset := d.ct.domReset ++ [h.val] } }
  | .clusterArray c => { d with ct := { d.ct with domReset := d.ct.domReset ++ [8 + c.val] } }
  | .reelArray r => reelDomainReset r.val d

/-- MEM_UNCORRECTABLE (R473): lookup SRAM follows R217; any other is counted in FT_MEM_CNT[1] and raises MEM_UE. -/
def memUncorrectable (m : MemAt) (d : Dev) : Dev :=
  let d := memAct m d
  match m with
  | .lookup _ _ => d
  | .lookupFlags _ _ => d
  | _ => raise (count d .ftMemCnt 1 0) 8

/-! ### Margins -/

/-- One rail, A or B. -/
def railOf (d : Dev) (b : Bool) : Rail := if b then d.mg.b else d.mg.a

/-- Store a rail. -/
def putRail (d : Dev) (b : Bool) (x : Rail) : Dev := { d with mg := if b then { d.mg with b := x } else { d.mg with a := x } }

/-- FAIL of a rail (R510). -/
def avsFail (d : Dev) (b : Bool) : Bool := bit (cur d .mgAvsStatus 0 0) (if b then 31 else 30)

/-- The transaction and up to 3 retries (R510): whether one answered within 10 mV of the setpoint, and the last readback. -/
def avsTry (mv : Nat) : Nat → List (Option Nat) → Option Nat → Bool × Option Nat
  | 0, _, last => (false, last)
  | _ + 1, [], last => (false, last)
  | n + 1, none :: rs, last => avsTry mv n rs last
  | n + 1, some v :: rs, _ => if v ≤ mv + 10 ∧ mv ≤ v + 10 then (true, some v) else avsTry mv n rs (some v)

/-- Write a rail's setpoint through AVSBus (R510). -/
def avsWrite (b : Bool) (mv : Nat) (rs : List (Option Nat)) (d : Dev) : Dev :=
  let (ok, last) := avsTry mv 4 rs none
  let d := putRail d b { railOf d b with mv := mv, lost := !ok }
  let d := match last with
    | some v => setCur d .mgAvsStatus 0 0 (setFld (cur d .mgAvsStatus 0 0) (if b then 16 else 0) 10 v)
    | none => d
  if ok then d else flag d .mgAvsStatus 0 0 (if b then 31 else 30) true

/-- LOW, HIGH and STEP as they act (Table 18-11). -/
def mgLow (d : Dev) : Nat := cfgF d .mgCfg 0 0 16 8
def mgHigh (d : Dev) : Nat := max (mgLow d + 1) (cfgF d .mgCfg 0 0 8 8)
def mgStep (d : Dev) : Nat := orIf0 (cfgF d .mgCfg 0 0 0 4) 1

/-- The slack of a monitor in ps. -/
def slackOf (m : Measure) (i : Nat) : Int := sextInt 16 (m.slack.getD i 0).toNat

/-- The slack of a rail: the least of its 24 monitors, 0 to 23 of rail A and 24 to 47 of rail B (R481). -/
def railSlack (m : Measure) (b : Bool) : Int :=
  let o := if b then 24 else 0
  (List.range 24).foldl (fun s i => min s (slackOf m (o + i))) (slackOf m o)

/-- The regulator's answers of a measurement for one rail. -/
def avsAnswers (m : Measure) (b : Bool) : List (Option Nat) := (if b then m.avsB else m.avsA).map fun x => x.map fun v => v.toNat

/-- Re-plan one rail (R482, R510): raise, move down a rung, or report exhaustion; with six PERIOD measurements above HIGH a lowering
waits for a boundary without a gust-limiter ramp (R483). -/
def replan (b : Bool) (periodic : Bool) (m : Measure) (d : Dev) : Dev :=
  let rs := avsAnswers m b
  let d := if (railOf d b).lost && !avsFail d b then avsWrite b (railOf d b).mv rs d else d
  let s := railSlack m b
  let x := railOf d b
  let mv := if avsFail d b then 800 else x.mv
  if s < (mgLow d : Int) then
    let d := putRail d b { x with high := 0, settle := none }
    let settled (d : Dev) : Dev := raise (putRail d b { railOf d b with settle := some d.tick }) 24
    if mv < 800 then settled (avsWrite b (min 800 (mv + mgStep d)) rs d)
    else if d.rung < 2 then settled { d with mg := { d.mg with rungDue := some (d.rung + 1) } }
    else raise d 25
  else
    let x := { x with settle := none }
    if !periodic then putRail d b x
    else if (mgHigh d : Int) < s then
      if x.high + 1 < 6 then putRail d b { x with high := x.high + 1 }
      else putRail d b { x with high := 0, low := if mv ≤ 720 || avsFail d b then none else some rs }
    else putRail d b { x with high := 0 }

/-- MG_MON and MG_TEMP after a measurement (R481, R513). -/
def showMeasure (m : Measure) (d : Dev) : Dev :=
  let d := (List.range 48).foldl (fun d i =>
    setCur d .mgMon i 0 (BitVec.ofNat 32 (2 ^ 31 + b2n (decide (16 ≤ i % 24)) * 2 ^ 25 + b2n (decide (24 ≤ i)) * 2 ^ 24 + (m.slack.getD i 0).toNat))) d
  setCur d .mgTemp 0 0 (setFld (cur d .mgTemp 0 0) 0 16 m.tj.toNat)

/-- MARGIN_MEASURE (R481, R482, R444): in sag the measurement is discarded. -/
def marginMeasure (m : Measure) (d : Dev) : Dev :=
  if d.pw.sag then d
  else
    let d := showMeasure m d
    if cfgB d .mgCfg 0 0 31 then replan true true m (replan false true m d) else d

/-- Whether a rail's SETTLE of 200 µs is over. -/
def settled (d : Dev) (b : Bool) : Bool :=
  match (railOf d b).settle with
  | some t => decide (t + 6250 ≤ d.tick)
  | none => false

/-- MARGIN_SETTLE_EXPIRY (R482): the rails whose SETTLE is over are measured again. -/
def marginSettle (m : Measure) (d : Dev) : Dev :=
  if d.pw.sag || !(settled d false || settled d true) then d
  else
    let a := settled d false
    let b := settled d true
    let d := showMeasure m d
    if !cfgB d .mgCfg 0 0 31 then putRail (putRail d false { railOf d false with settle := none }) true { railOf d true with settle := none }
    else
      let d := if a then replan false false m d else d
      if b then replan true false m d else d

/-- Lowerings that may start at a boundary (R482, R483); one that waits while AUTO becomes 0 does not start. -/
def lowerBoundary (d : Dev) : Dev :=
  let one (b : Bool) (d : Dev) : Dev :=
    match (railOf d b).low with
    | none => d
    | some rs =>
      if !cfgB d .mgCfg 0 0 31 then putRail d b { railOf d b with low := none }
      else if d.pw.sag || railRamps d (b2n b) then d
      else avsWrite b (max 720 ((railOf d b).mv - mgStep d)) rs (putRail d b { railOf d b with low := none })
  one true (one false d)

/-- A rung change takes effect at a boundary (R9). -/
def rungBoundary (d : Dev) : Dev :=
  match d.mg.rungDue with
  | none => d
  | some r => { d with rung := r, mg := { d.mg with rungDue := none } }

end Sys2Proof.Machine
end

