-- ==== Sys2Proof/Machine/Migrate.lean ====
section
/-! DEFINITION. Live migration (R392 to R398): sessions, the sealed object, SAVE and RESTORE. -/

namespace Sys2Proof.Machine

/-! ### Draws, keys, addresses -/

/-- Bytes from the random bit generator (R417). -/
def drawBytes : Nat → Dev → Dev × List Byte
  | 0, d => (d, [])
  | n + 1, d =>
    let r := draw64 d
    let x := drawBytes n r.1
    (x.1, leBytes 8 r.2.toNat ++ x.2)

/-- A private key, or a signature's secret, of P-521. -/
def drawKey (d : Dev) : Dev × Nat :=
  let r := drawBytes 9 d
  (r.1, leNat r.2 % (ecN - 1) + 1)

/-- A public key in the encoding of R392. -/
def pubOf (priv : Nat) : List Byte :=
  match ecMul priv ecG with
  | some p => ecBytes p
  | none => List.replicate 136 0

/-- A signature with the identity key. -/
def idSign (priv : Nat) (digest : List Byte) (d : Dev) : Dev × List Byte :=
  let r := drawKey d
  (r.1, ecdsaSign priv r.2 digest)

/-- Whether a signature by a public key holds. -/
def sigOk (pub digest sig : List Byte) : Bool :=
  match ecPoint pub with
  | some p => ecdsaOk p digest sig
  | none => false

/-- Whether an HBM range may not hold a migration object (R529, R530, Table 14-11). -/
def migDenied (d : Dev) (off len : Nat) : Bool :=
  decide (off % 64 ≠ 0) || decide (0xC00000000 < off + len) ||
    (hbmAreas d ++ shadowAreas d).any fun a => decide (off < a.1 + a.2) && decide (a.1 < off + len)

/-- A migration session. -/
def sessOf (d : Dev) (s : Nat) : Option Session := mget d.ct.sessions s none

/-- Store a session. -/
def putSess (d : Dev) (s : Nat) (x : Option Session) : Dev := { d with ct := { d.ct with sessions := mput d.ct.sessions s x none } }

/-- The session key K (R393), with the peer's ephemeral public key given. -/
def sessKey (x : Session) (peer : List Byte) : Option (List Byte) :=
  match ecPoint peer with
  | none => none
  | some p => match ecMul x.priv p with
    | none => none
    | some z =>
      let dst := if x.source then peer else x.pub
      let src := if x.source then x.pub else peer
      some ((sha512 (beBytes 4 1 ++ beBytes 66 z.1 ++ leBytes 8 x.value ++ dst ++ src)).take 32)

/-- IV of an object (R393). -/
def migIv (seq : Nat) : List Byte := List.replicate 4 0 ++ leBytes 8 seq

/-- End a SE_MIG_CMD operation with a status (Table 14-13). -/
def migEnd (d : Dev) (st : Nat) : Dev := setCur d .seMigCmd 0 0 (setBit (setFld (cur d .seMigCmd 0 0) 27 4 st) 31 false)

/-- ADDR0 or ADDR1. -/
def migAddr (d : Dev) (i : Nat) : Nat := (cur64 d .seMigAddr i 0).toNat

/-- MIG_OFFER (R392): a destination session, its ephemeral key and the signed offer. -/
def migOffer (idKey s : Nat) (d : Dev) : Dev :=
  if migDenied d (migAddr d 0) 280 ∨ migDenied d (migAddr d 1) 136 then migEnd d 1
  else
    let peer := memRdN d.hbm (migAddr d 1) 136
    let (d, v) := draw64 d
    let (d, priv) := drawKey d
    let body := leBytes 8 v.toNat ++ pubOf priv
    let (d, sig) := idSign idKey (sha512 body) d
    let d := { d with hbm := memWrN d.hbm (migAddr d 0) (body ++ sig) }
    migEnd (putSess d s (some ⟨false, v.toNat, peer, priv, pubOf priv, none, 0⟩)) 0

/-- MIG_ACCEPT (R392): the offer is verified and a source session opened. -/
def migAccept (s : Nat) (d : Dev) : Dev :=
  if migDenied d (migAddr d 0) 280 ∨ migDenied d (migAddr d 1) 136 then migEnd d 1
  else
    let offer := memRdN d.hbm (migAddr d 0) 280
    let peer := memRdN d.hbm (migAddr d 1) 136
    let their := (offer.drop 8).take 136
    if !sigOk peer (sha512 (offer.take 144)) (offer.drop 144) || (ecPoint their).isNone then migEnd d 4
    else
      let (d, priv) := drawKey d
      migEnd (putSess d s (some ⟨true, leNat (offer.take 8), peer, priv, pubOf priv, some their, 1⟩)) 0

/-- MIG_CLOSE (R392): the session and its keys are erased. -/
def migClose (s : Nat) (d : Dev) : Dev := migEnd (putSess d s none) 0

/-! ### SAVE -/

/-- SAVE (R394): accepted while the vport is FROZEN and DRAINED, for a source session, toward an OFFSET that is allowed. -/
def saveCmd (p : Nat) (d : Dev) : Dev :=
  let v := vportOf d p
  let w := cfg64 d .vpMigSave p 0
  let res (n : Nat) : Dev := putVport d p { v with result := n }
  if v.st ≠ .frozen || !v.drained || v.saveBusy then res 2
  else match sessOf d (fld w 40 4) with
    | none => res 3
    | some x =>
      if !x.source then res 3
      else if migDenied d (fld w 0 36) 64 then res 5
      else
        let d := putVport d p { v with saveBusy := true, result := 1 }
        { d with ct := { d.ct with savePend := d.ct.savePend ++ [p] } }

/-- A queue record (R395): w0 to w3 of Table 11-13 and the reserve count. -/
def queueRecord (d : Dev) (p kind i : Nat) : List Byte :=
  match globalQ d p kind i with
  | none => List.replicate 40 0
  | some q =>
    let x := queueOf d kind q
    let w2 := x.w2 &&& ctxMask kind
    let w2 := if kind < 2 then setFld w2 16 14 (qCq x - (kindRange d p 2).1) else w2
    let w2 := setFld (setFld w2 60 3 x.st.code) 6 8 x.cause
    leBytes 8 x.w0.toNat ++ leBytes 8 x.w1.toNat ++ leBytes 8 w2.toNat ++ leBytes 4 x.dev ++ leBytes 4 x.host ++ leBytes 8 x.reserve.length

/-- The vport part (Table 14-8). -/
def vportPart (d : Dev) (p : Nat) : List Byte :=
  let n (k : Nat) : Nat := (kindRange d p k).2
  let head := leBytes 4 (n 0 + 2 ^ 8 * n 1 + 2 ^ 16 * n 2) ++ leBytes 1 (p / 256) ++ leBytes 1 (p % 256) ++ leBytes 2 0
    ++ leBytes 8 (vportOf d p).frozenAt ++ leBytes 1 (fld (cur d .vpCtl p 0) 24 8)
  let mb := leBytes 8 (cur64 d .vpMbIn p 0).toNat ++ leBytes 8 (cur64 d .vpMbOut p 0).toNat ++ leBytes 4 (cur d .vpDbb p 0).toNat
    ++ leBytes 4 (cur d .vpDbbMask p 0).toNat ++ leBytes 8 0
  let sig := (List.range 64).flatMap fun v => leBytes 4 (cur d .vpSigCfg p v).toNat
  let cnt := (List.range 24).flatMap fun k => leBytes 8 (cur64 d .vpCnt p k).toNat
  let qs := [0, 1, 2].flatMap fun kind => (List.range 64).flatMap fun i => queueRecord d p kind i
  let rs := (List.range (n 2)).flatMap fun i => match globalQ d p 2 i with
    | none => []
    | some q =>
      let x := queueOf d 2 q
      x.reserve.zipIdx.flatMap fun e => cqeBytes e.1 (qSize x) ((x.dev + e.2) % 2 ^ 32)
  sliceD 0 head 0 64 ++ mb ++ sig ++ cnt ++ qs ++ rs

/-- The MAC entries of a vport: valid, not suspect, with DEST 16 + h and VPORT v (R394, R395). -/
def vportMacs (d : Dev) (p : Nat) : List (List Byte) :=
  (entsOf d 0).filterMap fun e =>
    if !e.2.suspect && fld e.2.ctl 0 5 = 16 + p / 256 && fld e.2.ctl 8 8 = p % 256 then
      some (leBytes 8 (e.2.kw.getD 0 0).toNat ++ leBytes 8 e.2.ctl.toNat ++ leBytes 8 (e.2.dw.getD 0 0).toNat ++ leBytes 8 0)
    else none

/-- Entries in the reserves of a vport. -/
def reserveCount (d : Dev) (p : Nat) : Nat :=
  (vportQueues d p).foldl (fun n kq => if kq.1 = 2 then n + (queueOf d 2 kq.2).reserve.length else n) 0

/-- The capture of a SAVE at its boundary (R394). -/
def saveCapture (d : Dev) (p : Nat) : Dev :=
  let v := vportOf d p
  let w := cfg64 d .vpMigSave p 0
  let fail (n : Nat) : Dev := putVport d p { v with saveBusy := false, result := n }
  match sessOf d (fld w 40 4) with
  | none => fail 3
  | some x =>
    let ents := vportMacs d p
    if v.st ≠ .frozen then fail 2
    else if 3582 < reserveCount d p ∨ 16384 < ents.length then fail 4
    else
      let part := vportPart d p
      if migDenied d (fld w 0 36) (0xC0 + part.length + 32 * ents.length + 136) then fail 5
      else
        let d := putSess d (fld w 40 4) (some { x with seq := x.seq + 1 })
        let sv : Save := ⟨p, fld w 0 36, vpFull d p, x, x.seq, part, ents⟩
        { d with ct := { d.ct with saves := d.ct.saves ++ [sv] } }

/-- SAVE commands at a boundary. -/
def saveBoundary (d : Dev) : Dev :=
  let ps := d.ct.savePend
  ps.foldl saveCapture { d with ct := { d.ct with savePend := [] } }

/-- The sealed object without its signature (Table 14-7). -/
def saveObject (x : Save) : List Byte :=
  let body := x.part ++ x.ents.flatten
  let aad := leBytes 4 0x56424D41 ++ leBytes 2 1 ++ leBytes 2 (b2n x.cls) ++ leBytes 8 x.sess.value ++ leBytes 8 x.seq
    ++ leBytes 4 x.part.length ++ leBytes 4 x.ents.length ++ x.sess.pub
  match sessKey x.sess (x.sess.peerPub.getD []) with
  | none => aad
  | some k =>
    let s := gcmSeal k (migIv x.seq) aad body
    aad ++ s.2 ++ leBytes 8 0 ++ s.1

/-- SAVE_WRITTEN (R394): the oldest captured object is written, with the identity signature; SAVE_BUSY clears. -/
def saveWritten (idKey : Nat) (d : Dev) : Dev :=
  match d.ct.saves with
  | [] => d
  | x :: rest =>
    let obj := saveObject x
    let (d, sig) := idSign idKey (sha512 obj) d
    let d := { d with hbm := memWrN d.hbm x.off (obj ++ sig), ct := { d.ct with saves := rest } }
    putVport d x.page { vportOf d x.page with saveBusy := false }

/-! ### RESTORE -/

/-- Cut bytes into entries of `k`. -/
def cutBytes (k : Nat) : Nat → List Byte → List (List Byte)
  | 0, _ => []
  | n + 1, b => b.take k :: cutBytes k n (b.drop k)

/-- State of a queue from its code. -/
def QSt.ofCode : Nat → QSt
  | 1 => .active | 2 => .error | 3 => .stalled | _ => .off

/-- A reserve entry from its 16 bytes (Table 11-10); a block-service entry is kept as it is. -/
def restoreEntry (b : List Byte) : CEnt :=
  let n (o k : Nat) : Nat := leNat (sliceD 0 b o k)
  let kind := n 0 1 % 128
  if kind = 1 ∨ kind = 2 then ⟨kind, n 1 1, n 2 2, n 4 4, n 8 4, n 12 4, [], none⟩ else ⟨0, 0, 0, 0, 0, 0, b, none⟩

/-- The range of a kind that a creation under way takes. -/
def pendRange (kind : Nat) : VpCmd → Option (Nat × Nat)
  | .create c r _ => match kind with
    | 0 => some (fld r 0 15, fld r 16 7)
    | 1 => some (fld r 24 15, fld r 40 7)
    | _ => some (fld c 3 14, fld c 17 7)
  | _ => none

/-- Whether a range of global queues of a kind is held by no vport. -/
def rangeFree (d : Dev) (self kind base n : Nat) : Bool :=
  (mkeys d.hp.vports).all fun p =>
    let v := vportOf d p
    let rs := (if v.st = .off then [] else [kindRange d p kind]) ++ v.cmds.filterMap (pendRange kind)
    decide (p = self) || decide (n = 0) || rs.all fun r => decide (r.2 = 0) || decide (base + n ≤ r.1) || decide (r.1 + r.2 ≤ base)

/-- Class limits of the counts (Table 11-3) and the numbers of queues in the device (R310). -/
def countsFit (full : Bool) (sq rq cq : Nat × Nat) : Bool :=
  let lim := if full then 64 else 8
  decide (sq.2 ≤ lim) && decide (rq.2 ≤ lim) && decide (cq.2 ≤ 64) && decide (sq.1 + sq.2 ≤ 32768) && decide (rq.1 + rq.2 ≤ 32768)
    && decide (cq.1 + cq.2 ≤ 16384)

/-- Write VP_CFG and VP_QRANGE. -/
def putRanges (d : Dev) (p dom : Nat) (full : Bool) (sq rq cq : Nat × Nat) : Dev :=
  let c := dom * 2 ^ 24 + cq.2 * 2 ^ 17 + cq.1 * 8 + b2n full
  let r := rq.2 * 2 ^ 40 + rq.1 * 2 ^ 24 + sq.2 * 2 ^ 16 + sq.1
  setBoth64 (setBoth d .vpCfg p 0 (BitVec.ofNat 32 c)) .vpQrange p 0 (BitVec.ofNat 64 r)

/-- The contents of the vport part in a new FROZEN vport (R397, R431). -/
def restoreVport (d : Dev) (p dom : Nat) (full : Bool) (bases : Nat × Nat × Nat) (b : List Byte) : Dev :=
  let n (o k : Nat) : Nat := leNat (sliceD 0 b o k)
  let c := n 0 4
  let d := putRanges d p dom full (bases.1, c % 128) (bases.2.1, c / 2 ^ 8 % 128) (bases.2.2, c / 2 ^ 16 % 128)
  let d := setBoth d .vpCtl p 0 (setFld (cur d .vpCtl p 0) 24 8 (n 16 1))
  let d := setCur64 (setCur64 d .vpMbIn p 0 (BitVec.ofNat 64 (n 0x40 8))) .vpMbOut p 0 (BitVec.ofNat 64 (n 0x48 8))
  let d := setBoth (setCur d .vpDbb p 0 (BitVec.ofNat 32 (n 0x50 4))) .vpDbbMask p 0 (BitVec.ofNat 32 (n 0x54 4))
  let d := (List.range 64).foldl (fun d v => setBoth d .vpSigCfg p v (BitVec.ofNat 32 (n (0x60 + 4 * v) 4))) d
  let d := (List.range 24).foldl (fun d k => setCur64 d .vpCnt p k (BitVec.ofNat 64 (n (0x160 + 8 * k) 8))) d
  let d := putVport d p { Vport.reset with
    st := .frozen, frozenAt := n 8 8, restored := true, hostEpoch := 1, peerResetHost := true, peerResetFw := true }
  let r := (vportQueues d p).foldl (fun (acc : Dev × Nat) kq =>
    let i := kq.2 - (kindRange acc.1 p kq.1).1
    let o := 0x220 + 40 * (64 * kq.1 + i)
    let w2 : DWord := BitVec.ofNat 64 (n (o + 16) 8)
    let st := fld w2 60 3
    let cause := fld w2 6 8
    let w2 := setFld (setFld w2 60 3 0) 6 8 0
    let w2 := if kq.1 < 2 then setFld w2 16 14 (fld w2 16 14 + bases.2.2) else w2
    let dev := n (o + 24) 4
    let k := if kq.1 = 2 then n (o + 32) 8 % 128 else 0
    let rs := (cutBytes 16 k (b.drop acc.2)).map restoreEntry
    let x : Queue := { Queue.reset with
      w0 := BitVec.ofNat 64 (n o 8), w1 := BitVec.ofNat 64 (n (o + 8) 8), w2 := w2, st := QSt.ofCode st, cause := cause, dev := dev,
      host := n (o + 28) 4, fetch := dev, reserve := rs, places := k, visible := dev, idxSent := (dev + 1) % 2 ^ 32,
      stall := if rs.isEmpty then none else some acc.1.tick }
    (putQueue acc.1 kq.1 kq.2 x, acc.2 + 16 * k)) (d, 0x2020)
  r.1

/-- Read the host-written words of every queue that is not OFF (R397). -/
def restoreReads (d : Dev) (p : Nat) : Dev :=
  let qs := (vportQueues d p).filter fun kq => (queueOf d kq.1 kq.2).st ≠ .off
  qs.foldl (fun d kq => (issueRead d p (queueOf d kq.1 kq.2).w1.toNat 4 (poolRetry d) (fun _ => .idxRd kq.1 kq.2)).1) d

/-- MIG_RESTORE (R396, R397): the checks in order; then the vport is created and the reads begin. -/
def migRestore (s : Nat) (d : Dev) : Dev :=
  let a := migAddr d 0
  let rd (o k : Nat) : List Byte := memRdN d.hbm (a + o) k
  let num (o k : Nat) : Nat := leNat (rd o k)
  let vlen := num 0x18 4
  let ents := num 0x1C 4
  let blen := vlen + 32 * ents
  match sessOf d s with
  | none => migEnd d 3
  | some x =>
    if x.source ∨ num 8 8 ≠ x.value then migEnd d 3
    else if migDenied d a (0xC0 + 136) then migEnd d 1
    else if vlen < 8224 ∨ 65536 < vlen ∨ 16384 < ents then migEnd d 4
    else if migDenied d a (0xC0 + blen + 136) then migEnd d 1
    else if !sigOk x.peer (sha512 (rd 0 (0xC0 + blen))) (rd (0xC0 + blen) 136) then migEnd d 4
    else if num 0x10 8 ≤ x.seq then migEnd d 5
    else
      let src := rd 0x20 136
      match x.peerPub with
      | some b => if b ≠ src then migEnd d 4 else go x src
      | none => go x src
where
  /-- From the binding of SRC_PUB on. -/
  go (x : Session) (src : List Byte) : Dev :=
    let a := migAddr d 0
    let w := cur d .seMigCmd 0 0
    let p := 256 * fld w 16 3 + fld w 19 8
    let arg := cur64 d .seMigArg 0 0
    let rd (o k : Nat) : List Byte := memRdN d.hbm (a + o) k
    let num (o k : Nat) : Nat := leNat (rd o k)
    let vlen := num 0x18 4
    let ents := num 0x1C 4
    match sessKey x src with
    | none => migEnd d 4
    | some k =>
      let d := putSess d s (some { x with peerPub := some src })
      match gcmOpen k (migIv (num 0x10 8)) (rd 0 0xA8) (rd 0xC0 (vlen + 32 * ents)) (rd 0xA8 16) with
      | none => migEnd d 4
      | some body =>
        let d := putSess d s (some { x with peerPub := some src, seq := num 0x10 8 })
        let full := decide (num 6 2 % 2 = 1)
        let c := leNat (body.take 4)
        let sq := (fld arg 8 15, c % 128)
        let rq := (fld arg 23 15, c / 2 ^ 8 % 128)
        let cq := (fld arg 38 14, c / 2 ^ 16 % 128)
        if (vportOf d p).st ≠ .off ∨ (linkOf d (p / 256)).st ≠ .active then migEnd d 2
        else if !countsFit full sq rq cq || !rangeFree d p 0 sq.1 sq.2 || !rangeFree d p 1 rq.1 rq.2 || !rangeFree d p 2 cq.1 cq.2 then
          migEnd d 1
        else
          let d := restoreReads (restoreVport d p (fld arg 0 8) full (sq.1, rq.1, cq.1) (body.take vlen)) p
          { d with ct := { d.ct with restore := some ⟨p, cutBytes 32 ents (body.drop vlen), 0, 0⟩ } }

/-- The MAC entry of a RESTORE as INSERT takes it (R397). -/
def restoreMac (p dom : Nat) (b : List Byte) : List DWord :=
  let w (o : Nat) : DWord := BitVec.ofNat 64 (leNat (sliceD 0 b o 8))
  let c : DWord := BitVec.ofNat 64 (16 + p / 256 + p % 256 * 2 ^ 8 + fld (w 8) 16 1 * 2 ^ 16 + 2 ^ 17 + 2 ^ 24 + dom * 2 ^ 48)
  [w 0, c, w 16]

/-- Place up to 64 MAC entries of a RESTORE at a boundary (R397). -/
def restorePlace (d : Dev) : Dev :=
  match d.ct.restore with
  | none => d
  | some r =>
    let now := r.ents.take 64
    let res := now.foldl (fun (acc : Dev × Nat × Nat) b =>
      let y := lkInsert acc.1 0 (restoreMac r.page (vpDomain acc.1 r.page) b)
      if y.2.1 = 0 then (y.1, acc.2.1 + 1, acc.2.2) else (y.1, acc.2.1, acc.2.2 + 1)) (d, r.placed, r.failed)
    { res.1 with ct := { res.1.ct with restore := some { r with ents := r.ents.drop 64, placed := res.2.1, failed := res.2.2 } } }

/-- RESTORE_DONE (R397): every index has been read and every entry tried. -/
def restoreDone (d : Dev) : Dev :=
  match d.ct.restore with
  | none => d
  | some r =>
    if r.ents.isEmpty && !readsIndex d r.page then
      let d := setCur d .seMigResult 0 0 (BitVec.ofNat 32 (r.placed + r.failed * 2 ^ 16))
      migEnd { d with ct := { d.ct with restore := none } } 0
    else d

end Sys2Proof.Machine
end

