-- ==== Sys2Proof/Machine/Image.lean ====
section
/-! DEFINITION. Images, the reel image store, LOAD, and the reload of a claimed spare (R42, R67, R419 to R422, R478). -/

namespace Sys2Proof.Machine

/-- A little-endian number of `k` bytes at offset `o`. -/
def leAt (b : List Byte) (o k : Nat) : Nat := leNat (sliceD 0 b o k)

/-! ### The image and its verification (Table 15-9, R420) -/

/-- A component of an image. -/
structure Comp where
  ty : Nat
  id : Nat
  off : Nat
  len : Nat
  digest : List Byte
  deriving DecidableEq, Repr

/-- The components that the header lists. -/
def imgComps (b : List Byte) : List Comp :=
  (List.range (min 64 (leAt b 0x18 4))).map fun i =>
    let o := 0xB0 + 88 * i
    ⟨leAt b o 4, leAt b (o + 4) 4, leAt b (o + 8) 8, leAt b (o + 16) 8, sliceD 0 b (o + 24) 64⟩

/-- The bytes of a component. -/
def compBytes (b : List Byte) (c : Comp) : List Byte := (b.drop c.off).take c.len

/-- TOTAL_LEN. -/
def imgLen (b : List Byte) : Nat := leAt b 0x10 8

/-- Step 1 of R420: the header is consistent. -/
def imgHeaderOk (b : List Byte) : Bool :=
  let n := leAt b 0x18 4
  let t := imgLen b
  let cs := imgComps b
  decide (leAt b 0 4 = 0x58494D47) && decide (leAt b 4 2 = 1) && decide (leAt b 6 2 < 4) && decide (leAt b 8 4 ≤ 64)
    && decide (1 ≤ n ∧ n ≤ 64) && decide (leAt b 0x1C 4 < 4) && decide (t ≤ 48 * 2 ^ 20) && decide (t ≤ b.length)
    && decide (0xB0 + 88 * n + 136 ≤ t)
    && cs.all (fun c => decide (1 ≤ c.ty ∧ c.ty ≤ 3) && decide (0xB0 + 88 * n ≤ c.off) && decide (c.off + c.len + 136 ≤ t)
        && (decide (c.ty ≠ 2) || decide (c.id < 256)))
    && decide ((cs.filter fun c => c.ty = 1).length = 1)

/-- Step 2 of R420: the key's hash is programmed in its slot, and the slot is not revoked. -/
def imgKeyOk (otp : Otp) (b : List Byte) : Bool :=
  let s := leAt b 0x1C 4
  let h := mget otp.imgKey s []
  !h.isEmpty && !otp.revoke.testBit s && decide (sha512 (sliceD 0 b 0x20 136) = h)

/-- IM_WORDS and RM_BYTES of a reel image (Table 15-10). -/
def reelWords (c : List Byte) : Nat := leAt c 0 4
def reelRm (c : List Byte) : Nat := leAt c 4 4

/-- The value of RL_THREAD_CFG that a reel image gives a thread. -/
def reelThread (c : List Byte) (n : Nat) : Word := BitVec.ofNat 32 (leAt c (0x108 + 4 * n) 4)

/-- The program table's entry of a selector. -/
def reelProg (c : List Byte) (n : Nat) : Word := BitVec.ofNat 32 (leAt c (8 + 4 * n) 4)

/-- A reel image meets R42: every local-memory window lies in its spindle's memory. -/
def reelFits (c : List Byte) : Bool := (List.range 64).all fun n => decide (fld (reelThread c n) 8 6 + fld (reelThread c n) 16 7 ≤ 64)

/-- Step 7 of R420 for one reel image, with the sizes of Table 15-10. -/
def reelOk (c : List Byte) : Bool :=
  decide (1 ≤ reelWords c ∧ reelWords c ≤ 65536) && decide (reelRm c ≤ 1048576 ∧ reelRm c % 8 = 0)
    && decide (c.length = 0x4308 + 4 * reelWords c + reelRm c) && reelFits c
    && (List.range 64).all (fun n => !bit (reelProg c n) 31 || decide (fld (reelProg c n) 0 16 < reelWords c))

/-- Whether an image has DEBUG or UNVERIFIED set. -/
def imgDebug (b : List Byte) : Bool := decide (leAt b 6 2 % 4 ≠ 0)

/-- R420: the steps in order; 0 where all hold, else the status of the first that fails. The boot ROM also fails a reel image of ID
255 with VERIFY (R499). -/
def verifyImage (otp : Otp) (debugEn boot : Bool) (b : List Byte) : Nat :=
  let t := imgLen b
  let cs := imgComps b
  if !imgHeaderOk b then 6
  else if !imgKeyOk otp b then 6
  else if !sigOk (sliceD 0 b 0x20 136) (sha512 (b.take (t - 136))) (sliceD 0 b (t - 136) 136) then 6
  else if leAt b 8 4 < otp.rollback then 7
  else if !cs.all (fun c => decide (sha512 (compBytes b c) = c.digest)) then 6
  else if imgDebug b && !debugEn then 3
  else if !cs.all (fun c => decide (c.ty ≠ 2) || reelOk (compBytes b c)) then 6
  else if boot && cs.any (fun c => decide (c.ty = 2) && decide (c.id = 255)) then 6
  else 0

/-- What is kept of an image that runs (R425). -/
def runningOf (b : List Byte) : Running :=
  let cs := imgComps b
  { svn := leAt b 8 4, slot := leAt b 0x1C 4, debug := imgDebug b,
    sp := ((cs.find? fun c => c.ty = 1).map (·.digest)).getD [],
    image := sha512 (b.take (0xB0 + 88 * cs.length)) }

/-! ### The reel image store (R422, Table 21-3) -/

/-- HBM address of a store slot. -/
def storeAddr (n : Nat) : Nat := 0xBD4000000 + 0x180000 * n

/-- Place the reel images of an image in the store. -/
def placeReels (b : List Byte) (d : Dev) : Dev :=
  ((imgComps b).filter fun c => c.ty = 2).foldl (fun d c =>
    let dbg := if imgDebug b then c.id :: d.ct.dbgStore else d.ct.dbgStore.filter (· ≠ c.id)
    let ct := { d.ct with store := mput d.ct.store c.id c.digest [], dbgStore := dbg }
    { d with hbm := memWrN d.hbm (storeAddr c.id) (compBytes b c), ct := ct }) d

/-- Whether a reel in LOADING, SPARE, ADMITTED or DRAINING was loaded from an image ID of the image (R422). -/
def reelIdInUse (d : Dev) (b : List Byte) : Bool :=
  (imgComps b).any fun c => decide (c.ty = 2) && (List.range 33).any fun r =>
    let x := reelOf d r
    decide (x.img = c.id) && (x.st = .loading || x.st = .spare || x.st = .admitted || x.st = .draining)

/-- The bytes of the reel image in a store slot; none where the slot is empty. -/
def storeImage (d : Dev) (id : Nat) : Option (List Byte) :=
  if mget d.ct.store id [] = [] then none
  else
    let h := memRdN d.hbm (storeAddr id) 8
    some (memRdN d.hbm (storeAddr id) (min 0x180000 (0x4308 + 4 * leAt h 0 4 + leAt h 4 4)))

/-! ### LOAD -/

/-- Put little-endian words into a map from key `i` on. -/
def putWords : Nat → List Byte → Nat → SMap Word → SMap Word
  | 0, _, _, m => m
  | n + 1, b, i, m => putWords n (b.drop 4) (i + 1) (mput m i (BitVec.ofNat 32 (leNat (b.take 4))) 0)

/-- A reel with the contents of an image (R422, Table 15-10): words beyond IM_WORDS and reel memory beyond RM_BYTES are zero. -/
def reelWith (c : List Byte) (img : Nat) : Reel :=
  let th (n : Nat) : ThreadCfg := let w := reelThread c n; ⟨bit w 0, fld w 8 6, fld w 16 7⟩
  { Reel.reset with
    st := .spare, img := img,
    imem := putWords (reelWords c) (c.drop 0x4308) 0 [],
    rmem := memWrN [] 0 ((c.drop (0x4308 + 4 * reelWords c)).take (reelRm c)),
    prog := (List.range 64).foldl (fun m s =>
      let w := reelProg c s
      mput m s (if bit w 31 then some ⟨fld w 0 16, fld w 16 3 + 1⟩ else none) none) [],
    cfg := (List.range 64).foldl (fun m n => mput m n (th n) ThreadCfg.none) [],
    pkt := ((List.range 64).filter fun n => !(th n).service).length }

/-- The event configuration and bindings that an image gives a reel's threads; PENDING is 0 and a reserved TYPE sets
BIND_ERR (R154). The raises of the groups whose recovery thread is among them end (R161). -/
def loadBinds (c : List Byte) (r : Nat) (d : Dev) : Dev :=
  let d := (List.range 64).foldl (fun d n =>
    let bad := (List.range 64).any fun l => decide (10 ≤ leAt c (0x308 + 256 * n + 4 * l) 4 / 2 ^ 28)
    let w : Word := BitVec.ofNat 32 (leAt c (0x208 + 4 * n) 4)
    setBoth d .rlEvtCfg r n (setBit (w &&& 0x1FF) 10 bad)) d
  let d := (List.range 4096).foldl (fun d i =>
    setBoth d .rlEvtBind r i (BitVec.ofNat 32 (leAt c (0x308 + 4 * i) 4) &&& 0xF000FFFF)) d
  let gs := (reelThreads r).flatMap (recGroups d)
  { d with dr := { d.dr with raises := d.dr.raises.filter fun e => decide (e.1 ∉ gs) } }

/-- Record the digest of the image that a reel was loaded from (R425). -/
def setReelDig (d : Dev) (r : Nat) (g : List Byte) : Dev := { d with ct := { d.ct with reelDig := mput d.ct.reelDig r g [] } }

/-- A load that is refused leaves the reel OFF; what it has pending for the boundary stays. -/
def badLoad (r : Nat) (d : Dev) : Dev :=
  let d2 := resetReel d r
  putReel d2 r { reelOf d2 r with pend := (reelOf d r).pend }

/-- REEL_LOAD_DONE (R42, R422, R478): the reel becomes SPARE; it fails its built-in test to FAILED; or an empty slot or an image that
does not meet R42 sets LOAD_ERR and leaves it OFF. -/
def loadDone (r : Nat) (testOk : Bool) (d : Dev) : Dev :=
  let x := reelOf d r
  if x.st ≠ .loading then d
  else
    let err := flag d .rlReelStatus r 0 9 true
    if !testOk then raise (putReel err r { x with st := .failed }) 1
    else match storeImage d x.img with
      | none => badLoad r err
      | some c =>
        if !reelFits c then badLoad r err
        else
          let d := loadBinds c r (putReel (stopReel d r) r { reelWith c x.img with pend := x.pend })
          let dbg := if x.img ∈ d.ct.dbgStore then r :: d.ct.dbgReels else d.ct.dbgReels.filter (· ≠ r)
          setReelDig { d with ct := { d.ct with dbgReels := dbg } } r (mget d.ct.store x.img [])

/-- SPARE_ADMIT (R67): the claimed spare's reel memory is reloaded from its image, and the reel is admitted at the next boundary. -/
def spareAdmit (r : Nat) (d : Dev) : Dev :=
  let x := reelOf d r
  if x.st = .spare && x.claimed then
    let rm := match storeImage d x.img with
      | some c => memWrN [] 0 ((c.drop (0x4308 + 4 * reelWords c)).take (reelRm c))
      | none => []
    askReel (putReel d r { x with rmem := rm }) r .activate
  else d

/-- The reel image of the boot ROM (R495), with the default designation of R37: threads 7 of every spindle are service threads. -/
def romReel : Reel :=
  let th (n : Nat) : ThreadCfg := ⟨decide (n % 8 = 7), 0, 0⟩
  { Reel.reset with
    st := .spare, img := 255,
    imem := mputs [] 0 0 ((List.range (Config.romWords % 65537)).map Config.romWord),
    prog := [(63, some ⟨Config.romEntry % 65536, 1⟩)],
    cfg := (List.range 64).foldl (fun m n => mput m n (th n) ThreadCfg.none) [],
    pkt := 56 }

end Sys2Proof.Machine
end

