-- ==== Sys2Proof/Machine/TimeOps.lean ====
section
/-! DEFINITION. The time counter's commands and its part of the boundary (R446 to R457). -/

namespace Sys2Proof.Machine

/-- TIME_STEP_GO (R448): a step waits for the next boundary; a second GO while one waits is ignored. -/
def stepGo (load : Bool) (d : Dev) : Dev :=
  if d.tm.step.isSome then d
  else
    let d := setBoth d .tmStepCtl 0 0 (setBit (setBit (cur d .tmStepCtl 0 0) 1 load) 2 true)
    { d with tm := { d.tm with step := some load } }

/-- The time after a step (R448). Nanoseconds of 10^9 or more, loaded as they are, make a time that no rule states. -/
def stepTime (d : Dev) (load : Bool) : Time :=
  let sec := (cfg d .tmStepSecLo 0 0).toNat + 2 ^ 32 * cfgF d .tmStepSecHi 0 0 0 16
  let ns := (cfg d .tmStepNs 0 0).toNat
  if load then (if ns < 1000000000 then ⟨sec, ns, 0⟩ else ⟨Config.loadSec sec ns % 2 ^ 48, Config.loadNs sec ns % 1000000000, 0⟩)
  else
    let t := d.tm.now
    timeAdd { t with sec := intMod 48 ((t.sec : Int) + sextInt 48 sec) } (sextInt 32 ns * 2 ^ 32)

/-- Take the step that waits (R448). -/
def stepApply (d : Dev) : Dev :=
  match d.tm.step with
  | none => d
  | some load =>
    let t := stepTime d load
    { setBoth d .tmStepCtl 0 0 (setBit (cur d .tmStepCtl 0 0) 2 false) with tm := { d.tm with now := t, step := none } }

/-- PPS_OUT rises, where OUT_EN is 1 (R455). -/
def ppsRise (d : Dev) : Dev :=
  if cfgB d .tmPpsCfg 0 0 31 then { d with tm := { d.tm with high := some d.tick, rose := true } } else d

/-- PPS_OUT_EDGE (R455): the nanoseconds carry into the seconds by counting within the tick in progress. -/
def ppsEdge (d : Dev) : Dev :=
  if (timeAdd d.tm.now (tickUnits d)).sec ≠ d.tm.now.sec && !d.tm.rose then ppsRise d else d

/-- Ticks for which PPS_OUT stays high: WIDTH ms (R455). -/
def ppsWidth (d : Dev) : Nat := 31250 * orIf0 (cfgF d .tmPpsCfg 0 0 0 8) 1

/-- PPS_OUT_PULSE_END (R455). -/
def ppsEnd (d : Dev) : Dev :=
  match d.tm.high with
  | some t => if t + ppsWidth d ≤ d.tick then { d with tm := { d.tm with high := none } } else d
  | none => d

/-- PPS_IN_EDGE (R456): an edge of the selected polarity, `ps` picoseconds after the last boundary, latches the time and the tick. -/
def ppsIn (falling : Bool) (ps : Nat) (d : Dev) : Dev :=
  let w := cfg d .tmPpsCfg 0 0
  if !bit w 30 || bit w 29 != falling then d
  else
    let d := if bit (cur d .tmPpsCfg 0 0) 28 then count d .tmEvtCnt 3 0 else d
    let t := timeAt d ps
    let put (d : Dev) (i v : Nat) : Dev := setCur d .tmPpsIn i 0 (BitVec.ofNat 32 v)
    let d := put (put (put (put (put d 0 t.ns) 1 t.sec) 2 (t.sec / 2 ^ 32)) 3 d.tick) 4 (d.tick / 2 ^ 32)
    flag d .tmPpsCfg 0 0 28 true

/-- The seconds carry when a time counts on by a number of fraction units. -/
def carries (t : Time) (units : Int) : Bool := decide ((timeAdd t units).sec ≠ t.sec)

/-- Frames that carry a predicted transmit time of the tick that ends, where a step falls at its end: each counts at k = 2 (R453). -/
def stepLate (d : Dev) : Dev :=
  let d := if d.tm.step.isSome then (List.range d.tm.predicted).foldl (fun d _ => count d .tmEvtCnt 2 0) d else d
  { d with tm := { d.tm with predicted := 0 } }

/-- The time counter at a boundary (R446 to R448, R455): a step first, then the advance by the tick that ends, whose length in
fraction units is `units`; a carry by counting, before the step or after it, is a PPS_OUT edge, and the tick relation is latched. -/
def timeBoundary (units : Int) (d : Dev) : Dev :=
  let before := carries d.tm.now units
  let d := stepApply (stepLate d)
  let carried := before || carries d.tm.now units
  let t := timeAdd d.tm.now units
  let d := { d with tm := { d.tm with now := t } }
  let d := if carried && !d.tm.rose then ppsRise d else d
  let d := if d.tm.rose then
      let put (d : Dev) (i v : Nat) : Dev := setCur d .tmPpsOut i 0 (BitVec.ofNat 32 v)
      put (put (put (put d 0 d.tick) 1 (d.tick / 2 ^ 32)) 2 t.ns) 3 t.frac
    else d
  ppsEnd { d with tm := { d.tm with rose := false } }

/-- SyncE output `k` presents a clock (R457): EN is 1 and the link of the chosen sub-port is up. -/
def synceOn (d : Dev) (k : Nat) : Bool :=
  cfgB d .tmSynceCfg k 0 31 && portUp d (cfgF d .tmSynceCfg k 0 16 4) && decide (destState d (cfgF d .tmSynceCfg k 0 16 4) = .up)

end Sys2Proof.Machine
end

