-- ==== Sys2Proof/Machine/RegOps.lean ====
section
/-! DEFINITION. Register writes whose rules say more than an access code (R18, R124, R136, R152 to R154, R161, R286, R488, R519, R529), and
the two ways a written word reaches the value in use (R526, R527). -/

namespace Sys2Proof.Machine

/-! ### How a written value takes effect -/

/-- The word at an address takes effect: the value in use becomes the stored one. -/
def activate1 (d : Dev) (a : Nat) : Dev :=
  let r := resetAt a
  { d with regs := { d.regs with act := mput d.regs.act a (mget d.regs.cur a r) r } }

/-- The written words that satisfy `p` take effect (R526). -/
def takeEffect (p : Nat → Bool) (d : Dev) : Dev :=
  let now := d.regs.dirty.filter p
  let d := { d with regs := { d.regs with dirty := d.regs.dirty.filter fun a => !p a } }
  now.eraseDups.foldl activate1 d

/-- Whether a word is staged in a block (R527). -/
def stagedIn (b : Blk) (a : Nat) : Bool :=
  match locate a with
  | some l => decide ((regDef l.reg).kind = .staged b)
  | none => false

/-- Every staged value of a block is copied into its active value (R527). -/
def commitBlock (d : Dev) (b : Blk) : Dev :=
  { d with regs := { d.regs with act := copyWords (stagedIn b) d.regs.cur d.regs.act } }

/-- Whether the staged CTX_MAX values fit (Table 14-4). -/
def ctxFit (d : Dev) : Bool :=
  decide ((List.range 256).foldl (fun n i => n + fld (cur d .bsDomCtx i 0) 0 16) 0 ≤ 32768)

/-- A COMMIT that the next boundary carries out (R527): while STRICT is 1 a commit that would break a check of Table 14-4 is refused
with CFG_ERR (R225, R348, R384). -/
def commitOne (d : Dev) (b : Blk) : Dev :=
  let strict := bit (cur d .ctIsoCfg 0 0) 31
  match b with
  | .sw => if strict && !partsFit d then flag d .swCommit 0 0 1 true else commitBlock d b
  | .ci => if strict && !ciShareOk d then flag d .ciCommit 0 0 1 true else commitBlock d b
  | .bs => if strict && !ctxFit d then flag d .bsCommit 0 0 1 true else commitBlock d b
  | _ => commitBlock d b

/-- TK_COMMIT, LK_COMMIT, SW_COMMIT, SC_COMMIT, CI_COMMIT, BS_COMMIT (R527): several in one tick make one commit. -/
def askCommit (b : Blk) (d : Dev) : Dev :=
  if b ∈ d.sw.commits then d else { d with sw := { d.sw with commits := d.sw.commits ++ [b] } }

/-- SW_PE_COMMIT (R177): the swap waits for the boundary. -/
def askPeCommit (d : Dev) : Dev := { d with sw := { d.sw with peCommit := true } }

/-- The checks of Table 14-4 over the active values (R384). -/
def strictOk (d : Dev) : Bool :=
  decide ((List.range 30).foldl (fun n i => n + cfgF d .swInPart i 0 0 19) 0 ≤ 393216)
    && decide ((List.range 256).foldl (fun n i => n + cfgF d .ciCacheShare i 0 0 15) 0 ≤ 16384)
    && decide ((List.range 256).foldl (fun n i => n + cfgF d .bsDomCtx i 0 0 16) 0 ≤ 32768)

/-- A change of STRICT at the boundary (R384). -/
def strictBoundary (d : Dev) : Dev :=
  match d.ct.strictDue with
  | none => d
  | some b =>
    let d := { d with ct := { d.ct with strictDue := none } }
    if b && !strictOk d then setBoth d .ctIsoCfg 0 0 (setBit (cur d .ctIsoCfg 0 0) 30 true)
    else setBoth d .ctIsoCfg 0 0 (setBit (cur d .ctIsoCfg 0 0) 31 b)

/-- Store a word that takes effect at the next boundary (R526). -/
def putSoon (d : Dev) (r : Reg) (i j : Nat) (v : Word) : Dev := markDirty (setCur d r i j v) r i j

/-! ### Locks, channels, lines, groups, the buffer pool -/

/-- LOCK_CFG_WRITE (R136, R542): RANKED and RANK change only while the lock is free, unqueued and not poisoned. -/
def lockCfgWrite (l : Nat) (v : Word) (d : Dev) : Dev :=
  let w := cur d .drLockCfg l 0
  let x := lockOf d l
  let w9 := setBit w 9 (bit w 9 && !bit v 9)
  if fld v 0 9 = fld w 0 9 ∨ (x.holder.isNone && x.queue.isEmpty && !x.poison) then
    putSoon d .drLockCfg l 0 (setFld w9 0 9 (fld v 0 9))
  else count (putSoon d .drLockCfg l 0 (setBit w 9 true)) .drLockEvtCnt 4 0

/-- LOCK_POISON_CLEAR (Table 5-2): writing 1 to POISON clears it only while the lock is not held. -/
def lockPoisonClear (l : Nat) (d : Dev) : Dev :=
  let x := lockOf d l
  if x.holder.isNone then putLock d l { x with poison := false } else d

/-- A write of DR_CHAN_CFG0 (R152): while ENABLE is 1 it changes only ENABLE; enabling with an area outside hank memory or a depth that
Table 5-4 refuses leaves ENABLE at 0 with CFG_ERR; clearing ENABLE acts at the next boundary. -/
def chanCfg0Write (c : Nat) (v : Word) (d : Dev) : Dev :=
  let w := cur d .drChanCfg0 c 0
  let w := setBit w 30 (bit w 30 && !bit v 30)
  if bit w 31 then
    let d := putSoon d .drChanCfg0 c 0 (setBit w 31 (bit v 31))
    if bit v 31 then d else { d with dr := { d.dr with chanOff := c :: d.dr.chanOff } }
  else
    let w := setFld (setFld w 6 20 (fld v 6 20)) 0 4 (fld v 0 4)
    let n := fld v 0 4
    let bad := decide (n = 0) || decide (10 < n) || decide (2 ^ 26 < fld v 6 20 * 64 + 64 * 2 ^ n)
    let w := setBit (setBit w 31 (bit v 31 && !bad)) 30 (bit w 30 || (bit v 31 && bad))
    putSoon d .drChanCfg0 c 0 w

/-- A write of DR_CHAN_CFG1 (R152): its fields change only while ENABLE is 0. -/
def chanCfg1Write (c : Nat) (v : Word) (d : Dev) : Dev :=
  if bit (cur d .drChanCfg0 c 0) 31 then d else putSoon d .drChanCfg1 c 0 (v &&& 0xFF03FFFF)

/-- Whether a thread is the recovery thread of an enabled group, as the registers stand. -/
def isRecovery (d : Dev) (k : Nat) : Bool :=
  (List.range 256).any fun g =>
    let w := cur d .tkWgCfg g 0
    bit w 31 && decide (64 * fld w 22 6 + fld w 16 6 = k)

/-- EVT_BIND_WRITE (R153, R154): the binding takes effect at the next boundary, which clears the line's pending bit; a reserved TYPE sets
BIND_ERR; line 63 of a recovery thread is the device's. -/
def evtBindWrite (k l : Nat) (v : Word) (d : Dev) : Dev :=
  if l = 63 && isRecovery d k then d
  else
    let d := putSoon d .rlEvtBind (k / 64) (64 * (k % 64) + l) (v &&& 0xF000FFFF)
    let d := if 10 ≤ fld v 28 4 then flag d .rlEvtCfg (k / 64) (k % 64) 10 true else d
    { d with dr := { d.dr with rebind := lineKey k l :: d.dr.rebind } }

/-- WG_CFG_WRITE (R161): a group is not enabled with a packet thread, or a thread of a reel that is OFF, as its recovery thread.
Enabling one binds line 63 of the thread to DOLDRUMS, which clears what the line had pending (R153, R154, R160). -/
def wgCfgWrite (g : Nat) (v : Word) (d : Dev) : Dev :=
  let w := cur d .tkWgCfg g 0
  let k := 64 * fld v 22 6 + fld v 16 6
  let bad := bit v 31 && (decide (32 < fld v 22 6) || !isService d k || decide ((reelOf d (k / 64)).st = .off))
  let n := v &&& 0x0FFFFFFF
  let d := putSoon d .tkWgCfg g 0 (setBit (setBit n 31 (bit v 31 && !bad)) 30 (bad || (bit w 30 && !bit v 30)))
  if bit v 31 && !bad then { d with dr := { d.dr with rebind := lineKey k 63 :: d.dr.rebind } } else d

/-- A write of TK_FRM_BASE (R124): BASE changes only while EN is 0. -/
def frmBaseWrite (v : Word) (d : Dev) : Dev :=
  let n := v &&& 0x3FFFFC0
  if n = cur d .tkFrmBase 0 0 then d
  else if bit (cur d .tkFrmCfg 0 0) 31 then flag d .tkFrmCfg 0 0 30 true
  else putSoon d .tkFrmBase 0 0 n

/-- A write of TK_FRM_CFG (R124, R542). -/
def frmCfgWrite (v : Word) (d : Dev) : Dev :=
  let w := cur d .tkFrmCfg 0 0
  let w := setBit w 30 (bit w 30 && !bit v 30)
  let n := fld v 0 14
  let put (w : Word) : Dev := putSoon d .tkFrmCfg 0 0 w
  if bit w 31 then
    if !bit v 31 && !d.rl.held.isEmpty then put (setBit w 30 true)
    else put (setBit (setBit w 31 (bit v 31)) 30 (bit w 30 || decide (n ≠ fld w 0 14)))
  else
    let bad := bit v 31 && decide (2 ^ 26 < (cur d .tkFrmBase 0 0).toNat + 4160 * n)
    put (setBit (setBit (setFld w 0 14 n) 31 (bit v 31 && !bad)) 30 (bit w 30 || bad))

/-! ### Ports and links -/

/-- A write of NP_PORT_CFG (R18): MODE 0b11 leaves the mode and sets MODE_ERR; a mode written while the port is up is held. -/
def npCfgWrite (x : Nat) (v : Word) (d : Dev) : Dev :=
  let w := cur d .npPortCfg x 0
  let m := if fld v 0 2 = 3 then fld w 0 2 else fld v 0 2
  let err := decide (fld v 0 2 = 3) || (bit w 9 && !bit v 9)
  putSoon d .npPortCfg x 0 (setBit (setBit (setFld w 0 2 m) 8 (bit v 8)) 9 err)

/-- A write of NP_PMD_CFG (R519): the reserved MEDIA leaves the field. -/
def npPmdWrite (x : Nat) (v : Word) (d : Dev) : Dev :=
  let w := cur d .npPmdCfg x 0
  let n := v &&& 0xFF13
  if fld v 0 2 = 3 then flag (putSoon d .npPmdCfg x 0 (setFld n 0 2 (fld w 0 2))) .npPortCfg x 0 9 true
  else putSoon d .npPmdCfg x 0 n

/-- A write of BL_PMD_CFG (R519). -/
def blPmdWrite (h : Nat) (v : Word) (d : Dev) : Dev :=
  let n := v &&& 0xF03
  putSoon d .blPmdCfg h 0 (if fld v 0 2 = 3 then setFld n 0 2 (fld (cur d .blPmdCfg h 0) 0 2) else n)

/-- BL_CFG_WRITE (R286): ETYPE is held until the link is DOWN; the other fields take effect at the next boundary. -/
def blCfgWrite (h : Nat) (v : Word) (d : Dev) : Dev := putSoon d .blCfg h 0 (v &&& 0x801FFFFF)

/-- A write of SC_MIR_SESS (Table 9-21): EN stays 0 with CFG_ERR where DEST is not 0 to 15 or 24. -/
def mirSessWrite (s : Nat) (v : Word) (d : Dev) : Dev :=
  let w := cur d .scMirSess s 0
  let x := fld v 0 5
  let bad := bit v 31 && !(decide (x < 16) || decide (x = 24))
  let n := v &&& 0x3FFFFF1F
  putSoon d .scMirSess s 0 (setBit (setBit n 31 (bit v 31 && !bad)) 30 (bad || (bit w 30 && !bit v 30)))

/-- Resets in CT_RESET that the next boundary makes (R488). -/
def askReset (x : Nat) (d : Dev) : Dev :=
  if x ∈ d.ct.domReset then d else { d with ct := { d.ct with domReset := d.ct.domReset ++ [x] } }

/-! ### Locked fields and protected areas -/

/-- Whether the lock bit `b` of CT_LOCK is set (R528). -/
def lockBit (d : Dev) (b : Nat) : Bool := bit (cur d .ctLock 0 0) b

/-- A refused write of a locked field (R528). -/
def lockViol (d : Dev) : Dev := flag d .ctLock 0 0 31 true

/-- BB_CFG_WRITE (R528, R542): SW_COUNT changes only while the BB lock bit is clear. -/
def bbCfgWrite (v : Word) (d : Dev) : Dev :=
  let w := cur d .bbCfg 0 0
  let n := fld v 0 11
  let w1 := setFld w 16 4 (fld v 16 4)
  if lockBit d 0 && decide (n ≠ fld w 0 11) then lockViol (putSoon d .bbCfg 0 0 w1) else putSoon d .bbCfg 0 0 (setFld w1 0 11 n)

/-- A write of BS_STAGE (R528, R529). -/
def bsStageWrite (v : Word) (d : Dev) : Dev :=
  let n := fld v 0 5
  if lockBit d 1 then (if n = fld (cur d .bsStage 0 0) 0 5 then d else lockViol d)
  else if 20 ≤ n then d
  else
    let d := putSoon d .bsStage 0 0 (BitVec.ofNat 32 n)
    { d with bs := { d.bs with stageSet := true } }

/-- A write of FT_HBM_SPARE (R475, R528, R529). -/
def hbmSpareWrite (v : Word) (d : Dev) : Dev :=
  let w := cur d .ftHbmSpare 0 0
  let w1 := setFld w 16 8 (fld v 16 8)
  if lockBit d 2 then
    let d := putSoon d .ftHbmSpare 0 0 w1
    if v &&& 0x8000007F = w &&& 0x8000007F then d else lockViol d
  else if 92 ≤ fld v 0 7 then d
  else putSoon d .ftHbmSpare 0 0 (setBit (setFld w1 0 7 (fld v 0 7)) 31 (bit v 31))

/-- A write of LK_SHADOW_BASE (R218, R529). -/
def shadowBaseWrite (t : Nat) (v : Word) (d : Dev) : Dev :=
  let n := fld v 0 24
  if meets (4096 * n) (4 * shadowSlots t) 0xBC0000000 (2 ^ 30) then d else putSoon d .lkShadowBase t 0 (BitVec.ofNat 32 n)

/-- A write of BB_WAY (R529): a way base in the security processor's window changes nothing. -/
def bbWayWrite (b w : Nat) (v : DWord) (d : Dev) : Dev :=
  if v.toNat / 2 ^ 60 = 3 ∧ meets (v.toNat % 2 ^ 60) 1 0xBC0000000 (2 ^ 30) then d
  else markDirty64 (setCur64 d .bbWay b w v) .bbWay b w

/-- A write of an admin ring's configuration (R371), which has the layout and the rules of LK_RING_CFG. -/
def admCfgWrite (cfgR prodR consR : Reg) (v : Word) (d : Dev) : Dev :=
  let w := cur d cfgR 0 0
  let n := v &&& 0x83FFFFDF
  if bit w 31 then setBoth d cfgR 0 0 (setBit w 31 (bit n 31))
  else
    let d := setBoth d cfgR 0 0 n
    if bit n 31 then setBoth (setBoth d prodR 0 0 0) consR 0 0 0 else d

/-! ### Commands with BUSY -/

/-- A write of SW_MC_DATA: OVERRUN while a command waits (Table 8-17). -/
def mcDataWrite (j : Nat) (v : Word) (d : Dev) : Dev :=
  if bit (cur d .swMcCmd 0 0) 31 then flag d .swMcCmd 0 0 30 true else setBoth d .swMcData j 0 v

/-- A write of SC_MTR_DATA: OVERRUN while a command waits, counted at k = 7 (Table 9-7). -/
def mtrDataWrite (j : Nat) (v : Word) (d : Dev) : Dev :=
  if bit (cur d .scMtrCmd 0 0) 31 then count (flag d .scMtrCmd 0 0 30 true) .scEvtCnt 7 0 else setBoth d .scMtrData j 0 v

/-- A write of a command register whose OVERRUN bit 30 is W1C: the bit clears unless the command is BUSY, then the command starts or only
its fields are stored. -/
def cmdRegWrite (r : Reg) (v mask : Word) (start : Bool) (go : Dev → Dev) (d : Dev) : Dev :=
  let w := cur d r 0 0
  if bit w 31 then go d
  else
    let w := setBit w 30 (bit w 30 && !bit v 30)
    let d := setBoth d r 0 0 ((w &&& ~~~mask) ||| (v &&& mask))
    if start then go d else d

/-- A bobbin command (R333, R334): the bobbin's registers as written are those it acts on. -/
def bobCmd (b cmd : Nat) (d : Dev) : Dev :=
  let lo := 0x1800000 + 0x100 * b
  let d := takeEffect (fun a => decide (lo ≤ a) && decide (a < lo + 0x100)) d
  match cmd with
  | 1 => bobStart b d
  | 2 => bobResume b d
  | 3 => bobAbort b d
  | _ => d

/-- A SAVE command (R394) takes the target as written in VP_MIG_SAVE. -/
def saveWrite (p : Nat) (d : Dev) : Dev :=
  let a := addr .vpMigSave p 0
  saveCmd p (takeEffect (fun x => decide (x = a) || decide (x = a + 4)) d)

end Sys2Proof.Machine
end

