-- ==== Sys2Proof/Machine/RegFile.lean ====
section
/-! DEFINITION. The register file as the access paths see it: what a read returns and what it does (R5, R12, R408, R439, R465, R524, R525,
R531), and what a write does (R5, R408, R464, R525, R526, R528). -/

namespace Sys2Proof.Machine

/-! ### Reads -/

/-- Bytes of a capture entry (Table 21-6). -/
def capBytes (e : Capture) : List Byte :=
  let s := e.skein
  leBytes 8 e.tick ++ leBytes 4 (e.who / 64 * 256 + e.who % 64) ++ leBytes 4 (min e.pc 0xFFFF * 65536 + e.flags.toNat)
    ++ ([s.input, s.len, s.cls, s.bucket, s.sel, Config.seqFirst + s.seq, s.pflags.toNat, s.md.toNat].flatMap (leBytes 8))
    ++ leBytes 2 e.bytes.length ++ List.replicate 46 0 ++ hvBytes s.hv ++ hvBytes e.h
    ++ ((List.range 32).flatMap fun i => leBytes 8 (mget e.g i 0).toNat)
    ++ ((List.range 8).flatMap fun i => leBytes 8 (mget e.p i 0).toNat)
    ++ List.replicate 64 0 ++ sliceD 0 e.bytes 0 2048

/-- TK_CAP_CTL (Table 21-5): 0 while debug is disabled (R531). -/
def capCtl (d : Dev) : Nat :=
  let n := d.rl.capture.length
  if d.ct.debugEn then n * 65536 + b2n (decide (0 < n)) * 2 ^ 31 else 0

/-- TK_CAP_DATA (R531). -/
def capData (d : Dev) (w : Nat) : Nat :=
  match d.rl.capture with
  | e :: _ => if d.ct.debugEn then leNat ((sliceD 0 (capBytes e) (4 * w) 4)) else 0
  | [] => 0

/-- RL_DBG_CTL (Table 2-12). -/
def dbgWord (d : Dev) (k : Nat) : Nat :=
  let t := thrOf d k
  let pc := if t.dbg.halted || t.dbg.faulted then min t.pc 0xFFFF else 0
  fld (cur d .rlDbgCtl (k / 64) (k % 64)) 0 4 + b2n t.dbg.halted * 256 + b2n t.dbg.faulted * 512 + t.dbg.cause * 1024 + pc * 65536

/-- DR_LOCK_STATUS (Table 5-2). -/
def lockWord (d : Dev) (l : Nat) : Nat :=
  let x := lockOf d l
  let h := x.holder.getD 0
  h % 64 + h / 64 * 256 + x.queue.length * 65536 + b2n x.poison * 2 ^ 30 + b2n x.holder.isSome * 2 ^ 31

/-- DR_CHAN_STATUS (Table 5-6). -/
def chanWord (d : Dev) (c : Nat) : Nat :=
  let x := chanOf d c
  let n := (x.slots.filter fun e => match e.2 with
    | some s => decide (s.st = .reserved)
    | none => false).length
  x.readable + n * 65536

/-- SW_DEST_CTL (R237, R246): LULL is 1 while the output is frozen and no copy is partly crossed, at its
egress, with the editor or with port transmit; a copy that has left is no copy of State. -/
def destWord (d : Dev) (x : Nat) : Nat :=
  let lull := frozen d x && (allCopies d).all fun e => decide (e.2.dest ≠ x) || decide (e.2.crossed = 0)
  let st := if 25 ≤ x then 0 else match destState d x with
    | .up => 0
    | .hold _ _ => 1
    | .down => 2
  fld (cur d .swDestCtl x 0) 0 1 + 2 * b2n lull + 4 * st

/-- BL_STATUS (Table 10-8). -/
def blWord (d : Dev) (h : Nat) : Nat :=
  let l := linkOf d h
  let st := match l.st with
    | .down => 0
    | .init => 1
    | .active => 2
  st * 2 ^ 30 + l.epPeer.getD 0 * 65536 + l.epOwn * 256

/-- BB_STATUS (Table 11-18). -/
def bobWord (d : Dev) (b : Nat) : Nat :=
  let x := bobOf d b
  let w := cur d .bbStatus b 0
  let st := match x.st with
    | .idle => 0
    | .running => 1
    | .pausing => 2
    | .paused => 3
    | .done => 4
    | .halted => 5
  st + 8 * fld w 3 2 + 256 * fld w 8 8 + x.live.length * 65536

/-- The value of a register that is computed from the device's state: none where a read returns the stored word. -/
def viewOf (d : Dev) (r : Reg) (i j : Nat) : Option Nat :=
  let w := (cur d r i j).toNat
  match r with
  | .ctCmdStatus => some d.ct.bootId
  | .ctCmdLast => some (mget d.ct.last i 0)
  | .seStatus => some (fld (cur d r i j) 12 12 * 2 ^ 12 + fld (cur d r i j) 4 2 * 16 + b2n d.ct.certBad * 128 + b2n d.ct.trngFail * 64
      + b2n d.ct.debugSeen * 2 + b2n d.ct.debugEn)
  | .seImgStatus => some (if d.ct.activation.isSome then setFld (cur d r i j) 0 8 (Config.flashProgress d.tick % 101) else cur d r i j).toNat
  | .ctBootStatus => some (setFld (cur d r i j) 28 4 d.ct.phase.code).toNat
  | .tkTickLo => some (d.tick % 2 ^ 32)
  | .tkDqStatus => some (fld (cur d r i j) 8 7 * 256 + (dqOf d i).length)
  | .tkPuntCfg => some (w + (mget d.dr.punt i PuntQ.empty).places * 65536 + (mget d.dr.punt i PuntQ.empty).entries.length * 65536)
  | .scWaftQ => some (w + (d.dr.waft.places + d.dr.waft.entries.length) * 65536)
  | .tkWgStatus => some (fld (cur d r i j) 16 8 * 65536 + mget d.dr.members i 0 * 2 ^ 24 + mget d.dr.dold i 0)
  | .tkCapCtl => some (capCtl d)
  | .tkCapData => some (capData d i)
  | .rlReelStatus => some (fld (cur d r i j) 8 2 * 256 + (reelOf d i).st.code + (reelOf d i).pkt * 65536)
  | .rlThreadCfg =>
    let c := thrCfg d (64 * i + j)
    some (b2n c.service + c.lmBase * 256 + c.lmSize * 65536)
  | .rlDbgCtl => some (dbgWord d (64 * i + j))
  | .rlEvtBind =>
    let b := if doldLine d (64 * i + j / 64) (j % 64) then 9 * 2 ^ 28 else w
    some (b + b2n (linePending d (64 * i + j / 64) (j % 64)) * 65536)
  | .drLockStatus => some (lockWord d i)
  | .drChanStatus => some (chanWord d i)
  | .lkDomUse => some (domUse d i)
  | .swDestCtl => some (destWord d i)
  | .blStatus => some (blWord d i)
  | .blReplayUse => some ((linkOf d i).sent.foldl (fun n s => n + s.bytes) 0)
  | .vpStatus => some (vpStatusWord d i).toNat
  | .vpSqStatus => some (queueStatusWord d i 0 j).toNat
  | .vpRqStatus => some (queueStatusWord d i 1 j).toNat
  | .vpCqStatus => some (queueStatusWord d i 2 j).toNat
  | .vpCtl => some (w + (vportOf d i).st.code * 65536 + b2n (vportOf d i).resetBusy * 256)
  | .vpMigStatus => some (migStatusWord (vportOf d i)).toNat
  | .vpMbStatus => some (mbStatusWord (vportOf d i)).toNat
  | .bbDone => some (bobOf d i).done
  | .bbStatus => some (bobWord d i)
  | .bsVdBusy => some (vdBusy d i)
  | .bsConnStatus => some (connStatus d i).toNat
  | .pwDomCtl => some (w + domSt d i * 256)
  | .pwGustStatus => some (w + d.pw.maxWake * 65536)
  | .tmNowFrac => some d.tm.now.frac
  | .ftHbmStatus => some (if fld (cur d r i j) 8 2 = 1 then w + Config.spareProgress d.tick % 100 else w)
  | .ftHbmChBusy => some (Config.channelBusy i d.tick % 1001)
  | .mgStatus => some (d.rung + d.mg.a.mv * 2 ^ 16 + d.mg.b.mv * 2 ^ 32)
  | _ => none

/-- Registers whose words after the first are those that a read of the first latched for the path (R12, R454, R455, R456, R465, R468, R471). -/
def latchedWord (l : Loc) : Bool :=
  match l.reg with
  | .tkTickHi | .tmNowNs | .tmNowSecLo | .tmNowSecHi => true
  | .ftLog | .ftCntRd => decide (l.i ≠ 0)
  | .tmTxts => decide (l.j ≠ 0)
  | .blPeerIdHi => true
  | .tmPpsOut => decide (l.i = 1)
  | .tmPpsIn => decide (l.i = 2) || decide (l.i = 4)
  | _ => l.hi

/-- The register that a read of a LO word latches beside it (Table 10-17, chapter 17): its HI word. -/
def hiOf (r : Reg) (i : Nat) : Option (Reg × Nat) :=
  match r with
  | .blPeerIdLo => some (.blPeerIdHi, i)
  | .tmPpsOut => if i = 0 then some (.tmPpsOut, 1) else none
  | .tmPpsIn => if i = 1 then some (.tmPpsIn, 2) else if i = 3 then some (.tmPpsIn, 4) else none
  | _ => none

/-- TM_TXTS_READ (R454): word 0 removes the oldest record and latches words 1 to 3. -/
def txtsRead (pth : Path) (n : Nat) (d : Dev) : Dev × Word :=
  let a := addr .tmTxts n 0
  let lost := b2n (decide (n ∈ d.tm.lost)) * 2 ^ 30
  let d := { d with tm := { d.tm with lost := d.tm.lost.filter (· ≠ n) } }
  let put (d : Dev) (o v : Nat) : Dev := setLatch d pth (a + o) (BitVec.ofNat 32 v)
  match mget d.tm.fifo n [] with
  | [] => (put (put (put d 4 0) 8 0) 12 0, BitVec.ofNat 32 lost)
  | x :: rest =>
    let d := { d with tm := { d.tm with fifo := mput d.tm.fifo n rest [] } }
    (put (put (put d 4 x.ns) 8 x.sec) 12 (x.sec / 2 ^ 32),
      BitVec.ofNat 32 (2 ^ 31 + lost + x.msg % 16 * 2 ^ 24 + x.dom % 256 * 65536 + x.seq % 65536))

/-- TM_NOW_FRAC_READ (Table 17-1): the other words of the time are latched from the same instant. -/
def nowRead (pth : Path) (d : Dev) : Dev × Word :=
  let t := d.tm.now
  let put (d : Dev) (r : Reg) (v : Nat) : Dev := setLatch d pth (addr r 0 0) (BitVec.ofNat 32 v)
  (put (put (put d .tmNowNs t.ns) .tmNowSecLo t.sec) .tmNowSecHi (t.sec / 2 ^ 32 % 65536), BitVec.ofNat 32 t.frac)

/-- TICK_CNT_LO_READ (R12): the high word is latched. -/
def tickRead (pth : Path) (d : Dev) : Dev × Word :=
  (setLatch d pth (addr .tkTickHi 0 0) (BitVec.ofNat 32 (d.tick / 2 ^ 32)), BitVec.ofNat 32 d.tick)

/-- Firmware reads MB_IN or MB_OUT (R427, R428): the access waits for the boundary, which answers it, unless a response has (`told`), and
acknowledges a FULL MB_IN. -/
def fwReadAsk (pth : Path) (p : Nat) (out told : Bool) (d : Dev) : Dev :=
  { d with ct := { d.ct with fwq := d.ct.fwq ++ [⟨pth, p, out, none, told⟩] } }

/-- Firmware writes MB_OUT (R427). -/
def fwOutAsk (pth : Path) (p : Nat) (w : DWord) (d : Dev) : Dev :=
  { d with ct := { d.ct with fwq := d.ct.fwq ++ [⟨pth, p, true, some w, false⟩] } }

/-- The power domain whose logic holds a register (R439). -/
def regDomain (l : Loc) (a : Nat) : Option Nat :=
  match l.reg with
  | .rlReelCtl | .rlReelStatus | .rlReelImg => none
  | .ciClCfg | .ciDropCnt => some (33 + l.i)
  | _ =>
    if 0x300000 ≤ a ∧ a < 0x580000 then some ((a - 0x300000) / 0x10000)
    else if 0x1C00000 ≤ a ∧ a < 0x1E00000 then some 41
    else none

/-- Whether the register's domain is not AWAKE (R439). -/
def regDown (d : Dev) (l : Loc) (a : Nat) : Bool :=
  match regDomain l a with
  | some p => !awake d p
  | none => false

/-- What a read of the first or only word of a register does and returns; RC fields clear (R5). -/
def readAt (pth : Path) (a : Nat) (l : Loc) (d : Dev) : Dev × Word :=
  match l.reg with
  | .tkTickLo => tickRead pth d
  | .tmNowFrac => nowRead pth d
  | .tmTxts => txtsRead pth l.i d
  | .ftLog => logRead pth d
  | .ftCntRd => cntRdRead pth d
  | .ciRekeyQ => rekeyRead d
  | .bsLocked => lockedRead d
  | r =>
    let v := (viewOf d r l.i l.j).getD (if (regDef r).wide then (cur64 d r l.i l.j).toNat else (cur d r l.i l.j).toNat)
    let d := if (regDef r).wide then setLatch d pth (a + 4) (BitVec.ofNat 32 (v / 2 ^ 32)) else d
    let d := match hiOf r l.i with
      | some x => setLatch d pth (addr x.1 x.2 0) (cur d x.1 x.2 0)
      | none => d
    let d := if (regDef r).rc = 0 then d else setCur d r l.i l.j (cur d r l.i l.j &&& ~~~(half (regDef r).rc false))
    let d := match r with
      | .pwGustStatus => { d with pw := { d.pw with maxWake := 0 } }
      | .vpMbIn => fwReadAsk pth l.i false true d
      | _ => d
    (d, BitVec.ofNat 32 v)

/-- A read of a page by its endpoint's path: the word at an offset that Table 11-1 gives the endpoint (R309, R465). -/
def endpointRead (h : Fin 8) (a : Nat) (d : Dev) : Dev × Word :=
  let p := (a - 0x1000000) / 0x1000
  let off := a % 0x1000
  if a < 0x1000000 ∨ 0x1800000 ≤ a ∨ p / 256 ≠ h.val then (d, 0)
  else if off % 8 = 4 then (d, getLatch d (.mbx h) a)
  else match pageRead p off d with
    | some (d, v) => (setLatch d (.mbx h) (a + 4) (BitVec.ofNat 32 (v / 2 ^ 32)), BitVec.ofNat 32 v)
    | none => (d, 0)

/-- A read of a register at its place `l`, address `a` (R439, R465, R525): 0 in a domain that sleeps, the latched word of a high half. -/
def readLoc (pth : Path) (a : Nat) (l : Loc) (d : Dev) : Dev × Word :=
  if regDown d l a then (d, 0)
  else if latchedWord l then (d, getLatch d pth a)
  else readAt pth a l d

/-- A register read on a path (R5, R408, R439, R465, R524, R525). Of a read and a write in one cycle the read's row comes first, and so returns
the value held before the write (R7, DESIGN CHOICE, log entry 295). -/
def readReg (pth : Path) (a : Nat) (d : Dev) : Dev × Word :=
  match pth with
  | .mbx h => endpointRead h a d
  | _ =>
    match locate a with
    | none => (d, 0)
    | some l => readLoc pth a l d

/-- A read at the place `l`, address `a`, that shows its word on the path; a mailbox word waits for the boundary (R427). -/
def showLoc (pth : Path) (a : Nat) (l : Loc) (d : Dev) : Dev :=
  if !l.hi && (decide (l.reg = .vpMbIn) || decide (l.reg = .vpMbOut)) then fwReadAsk pth l.i (decide (l.reg = .vpMbOut)) false d
  else
    let x := readLoc pth a l d
    emit x.1 (.readData pth (BitVec.ofNat 32 a) x.2)

/-- Whether an address is a mailbox word, or the doorbell bits, of a page of a host port (Table 11-2): an access of the endpoint to one
takes effect at the next boundary (R427). -/
def pageMail (h : Fin 8) (a : Nat) : Bool :=
  decide (0x1000000 ≤ a) && decide (a < 0x1800000) && decide ((a - 0x1000000) / 0x1000 / 256 = h.val)
    && (decide (a % 0x1000 = 8) || decide (a % 0x1000 = 0x10) || decide (a % 0x1000 = 0x18))

/-- An access to a page of a host port by its endpoint's path: an MBR (0x12) of 8 bytes or an MBW (0x13) (R303, R309). It carries tag 0, since
the command gives none (DESIGN CHOICE, log entry 250). -/
def pageAsk (h : Fin 8) (ty a : Nat) (bs : List Byte) (d : Dev) : Dev :=
  hostRecord h.val ⟨BitVec.ofNat 8 ty, BitVec.ofNat 8 ((a - 0x1000000) / 0x1000 % 256), 0,
    BitVec.ofNat 16 (if ty = 0x12 then 8 else bs.length), 0, 0, BitVec.ofNat 64 (a % 0x1000), bs⟩ d

/-- A read of a host port: a mailbox word is answered at the boundary (R427), any other word is shown on its path. -/
def showPage (h : Fin 8) (a : Nat) (d : Dev) : Dev :=
  if pageMail h a then pageAsk h 0x12 a [] d
  else
    let x := endpointRead h a d
    emit x.1 (.readData (.mbx h) (BitVec.ofNat 32 a) x.2)

/-- A read of a register by name, its low word, on a path; the word is what the path is given. -/
def readNamed (pth : Path) (r : Reg) (i j : Nat) (d : Dev) : Dev :=
  match pth with
  | .mbx h => showPage h (addr r i j) d
  | p => showLoc p (addr r i j) ⟨r, i, j, false⟩ d

/-- A read at an address shown on its path. -/
def readShown (pth : Path) (a : Nat) (d : Dev) : Dev :=
  match pth with
  | .mbx h => showPage h a d
  | p => match locate a with
    | none => emit d (.readData p (BitVec.ofNat 32 a) 0)
    | some l => showLoc p a l d

/-! ### Writes -/

/-- Who writes: the path, whether the write belongs to a checked command or the initial list, and the command's COUNTER and BODY (R408,
R424, R501). -/
structure WSrc where
  path : Path
  checked : Bool
  counter : Nat
  body : List Byte
  deriving DecidableEq, Repr

/-- M_CONFIG is extended (R424). -/
def extendConfig (opcode counter : Nat) (body : List Byte) (d : Dev) : Dev :=
  { d with ct := { d.ct with mconfig := sha512 (d.ct.mconfig ++ beBytes 2 opcode ++ beBytes 8 counter ++ sha512 body) } }

/-- Error counters whose SAT clears COUNT (R464). -/
def satCounter : Reg → Bool
  | .ctCmdRefuseCnt | .ctBootSkipped | .rlOverrunCnt | .drLockEvtCnt | .drChanVoidCnt | .lkEvtCnt | .swAdmDrop | .swInDrop | .swInRxdrop
  | .swEvtCnt | .swPgExcCnt | .swEdDrop | .scEcnMark | .scEvtCnt | .blErrCnt | .ciDropCnt | .bsEvtCnt | .pwEvtCnt | .tmEvtCnt | .ggEvtCnt
  | .ftEvtCnt | .ftMemCnt => true
  | _ => false

/-- The word that a write of `v` leaves by the access codes of R5. -/
def codeWord (r : Reg) (hi : Bool) (w v : Word) : Word :=
  let d := regDef r
  let rw := half d.rw hi
  (((w &&& ~~~rw) ||| (v &&& rw)) &&& ~~~(v &&& half d.w1c hi)) ||| (v &&& half d.w1s hi)

/-- Bits of a word of a memory entry that are not reserved (R6): parse nodes (Table 6-2), templates (Table 6-8) and receive SCs (Table 12-8). -/
def entryMask (l : Loc) : Word :=
  match l.reg with
  | .swPgNode =>
    if l.j = 0 then 0x1F3F07FF
    else if l.j = 1 then 0x3F3FFFFF
    else if l.j = 3 then 0xFFFF03FF
    else if 4 ≤ l.j ∧ l.j < 12 then 0x83FFFFFF
    else if 12 ≤ l.j then 0x807F1F3F
    else 0xFFFFFFFF
  | .swEdTpl => if l.j = 32 then 0xFF else if 33 ≤ l.j then 0x0FFFFFFF else 0xFFFFFFFF
  | .ciRxsc =>
    let k := l.j % 8
    if 2 ≤ k ∧ k < 6 then 0x800FFFFF else if k = 7 then 3 else 0xFFFFFFFF
  | _ => 0xFFFFFFFF

/-- A write that the access codes alone govern. A plain register's RW fields take effect at the next boundary (R526), a staged or banked
register's stay staged (R527, R177). -/
def plainWrite (l : Loc) (v : Word) (d : Dev) : Dev :=
  let w := cur d l.reg l.i l.j
  if satCounter l.reg then (if bit v 31 then setCur d l.reg l.i l.j 0 else d)
  else
    let n := codeWord l.reg false w (v &&& entryMask l)
    match (regDef l.reg).kind with
    | .plain => putSoon d l.reg l.i l.j n
    | .staged _ => setCur d l.reg l.i l.j n
    | .banked => if bit (cur d .swPeCommit 0 0) 1 then flag d .swPeCommit 0 0 2 true else setCur d l.reg l.i l.j n

/-- A plain write of a 64-bit register, both words at once (R525). -/
def plainWrite64 (l : Loc) (v : DWord) (d : Dev) : Dev :=
  let w := cur64 d l.reg l.i l.j
  let lo := codeWord l.reg false (BitVec.ofNat 32 w.toNat) (BitVec.ofNat 32 v.toNat)
  let hi := codeWord l.reg true (BitVec.ofNat 32 (w.toNat / 2 ^ 32)) (BitVec.ofNat 32 (v.toNat / 2 ^ 32))
  let d := setCur64 d l.reg l.i l.j (BitVec.ofNat 64 (lo.toNat + hi.toNat * 2 ^ 32))
  match (regDef l.reg).kind with
  | .plain => markDirty64 d l.reg l.i l.j
  | _ => d

/-- A write of CT_LOCK from a checked command or the initial list (R528). -/
def ctLockWrite (src : WSrc) (v : Word) (d : Dev) : Dev :=
  if src.checked then
    let d := setBoth d .ctLock 0 0 (codeWord .ctLock false (cur d .ctLock 0 0) v)
    extendConfig 3 src.counter src.body d
  else d

/-- Whether a register accepts writes only from a checked command (R408). -/
def checkedOnly : Reg → Bool
  | .ctCmdCfg | .ctLock | .ftNoticeCfg | .ftNoticeMask | .ftNoticeMac | .mgCfg => true
  | _ => false

/-- Whether a register accepts writes only from a critical command (R408, R463). CT_ISO_CFG has REFUSED beside STRICT. -/
def criticalOnly : Reg → Bool
  | .seMigCmd | .ggCfg | .ggPort | .ggRing | .ggRoute | .ggEvtCnt | .ggPeer => true
  | _ => false

/-- VALID and MORE of a record clear by writing 1 to VALID (Tables 3-12, 7-22). -/
def recordClear (r : Reg) (i : Nat) (v : Word) (d : Dev) : Dev :=
  if bit v 31 then setCur d r i 0 (setBit (setBit (cur d r i 0) 31 false) 30 false) else d

/-- A write of RL_REEL_CTL (Table 2-13): its RW fields, then its command. -/
def reelCtlWrite (r : Nat) (v : Word) (d : Dev) : Dev := reelCommand r (fld v 0 3) (putSoon d .rlReelCtl r 0 (v &&& 0xFF0100))

/-- A write of VP_CTL (Table 11-21). -/
def vpCtlWrite (p : Nat) (v : Word) (d : Dev) : Dev :=
  let d := putSoon d .vpCtl p 0 (v &&& 0xFF000000)
  match fld v 0 2 with
  | 1 => vpCmd p .reset d
  | 2 => if (vportOf d p).st = .orphaned then vpCmd p .reattach d else d
  | _ => d

/-- A write of VP_MIG_CTL (Table 14-10). -/
def vpMigCtlWrite (p : Nat) (v : Word) (d : Dev) : Dev :=
  let d := putSoon d .vpMigCtl p 0 (v &&& 0xFFFFFC00)
  match fld v 0 2 with
  | 1 => freezeCmd p d
  | 2 => thawCmd p d
  | 3 => saveWrite p d
  | _ => d

/-- A write of PW_DOM_CTL (R438): SLEEP = 0 acts at the next boundary, which requests the wake (R440). -/
def domCtlWrite (p : Nat) (v : Word) (d : Dev) : Dev :=
  let d := if bit v 16 then flag d .pwDomCtl p 0 16 false else d
  if bit v 0 then sleepRequest p d else putSoon d .pwDomCtl p 0 (setBit (cur d .pwDomCtl p 0) 0 false)

/-- A write of a command register or of its data registers. -/
def busyWrite (l : Loc) (v : Word) (d : Dev) : Dev :=
  match l.reg with
  | .lkCmd => lkCmdWrite l.i v d
  | .lkCmdData => lkDataWrite l.i l.j v d
  | .swMcCmd => cmdRegWrite .swMcCmd v 0x3FFF3 (fld v 0 2 = 1 ∨ fld v 0 2 = 2) (mcStart (fld v 0 2) (fld v 4 14)) d
  | .swMcData => mcDataWrite l.i v d
  | .scMtrCmd => cmdRegWrite .scMtrCmd v 0xFFFF03 (fld v 0 2 = 1 ∨ fld v 0 2 = 2) (mtrStart (fld v 0 2) (fld v 8 16)) d
  | .scMtrData => mtrDataWrite l.i v d
  | .ciSaCmd => cmdRegWrite .ciSaCmd v 0x38FFFFF (fld v 23 3 ≠ 0) (saStart (fld v 23 3) (fld v 0 20)) d
  | .ciSaData => if bit (cur d .ciSaCmd 0 0) 31 then flag d .ciSaCmd 0 0 30 true else setBoth d .ciSaData l.i 0 v
  | .bsCmd => cmdRegWrite .bsCmd v 0x7C0FFFF (fld v 24 3 ≠ 0) (bsStart (fld v 24 3) (fld v 22 2) (fld v 0 16)) d
  | .bsData => if bit (cur d .bsCmd 0 0) 31 then flag d .bsCmd 0 0 30 true else setBoth d .bsData l.i 0 v
  | .bbQcmd => if bit (cur d .bbQcmd 0 0) 31 then flag d .bbQcmd 0 0 30 true else cmdRegWrite .bbQcmd v 0x307FFF false id d
  | .bbQop =>
    let w := cur d .bbQcmd 0 0
    if fld v 0 4 = 0 then d else qctxStart (fld v 0 4) (BitVec.ofNat 2 (fld w 20 2)) (BitVec.ofNat 15 (fld w 0 15)) d
  | .bbQdata => if bit (cur d .bbQcmd 0 0) 31 then flag d .bbQcmd 0 0 30 true else setBoth d .bbQdata l.i 0 v
  | _ => d

/-- A write of a register of one word. -/
def writeWord (src : WSrc) (l : Loc) (v : Word) (d : Dev) : Dev :=
  let i := l.i
  match l.reg with
  | .ctLock => ctLockWrite src v d
  | .ctIsoCfg => if bit v 30 then flag d .ctIsoCfg 0 0 30 false else d
  | .ctReset => (List.range 16).foldl (fun d x => if bit v x then askReset x d else d) d
  | .tkCommit => if bit v 0 then askCommit .tk d else d
  | .lkCommit => if bit v 0 then askCommit .lk d else d
  | .swCommit => let d := plainWrite l v d; if bit v 0 then askCommit .sw d else d
  | .scCommit => if bit v 0 then askCommit .sc d else d
  | .ciCommit => let d := plainWrite l v d; if bit v 0 then askCommit .ci d else d
  | .bsCommit => let d := plainWrite l v d; if bit v 0 then askCommit .bs d else d
  | .swPeCommit => let d := plainWrite l v d; if bit v 0 then askPeCommit d else d
  | .tkCapCtl => if bit v 0 && d.ct.debugEn then { d with rl := { d.rl with capFree := true } } else d
  | .tkFrmBase => frmBaseWrite v d
  | .tkFrmCfg => frmCfgWrite v d
  | .tkWgCfg => wgCfgWrite i v d
  | .rlReelCtl => reelCtlWrite i v d
  | .rlFaultInfo => recordClear .rlFaultInfo i v d
  | .rlBrk => if d.ct.debugEn then plainWrite l v d else d
  | .rlDbgCtl => writeDbgCtl (64 * i + l.j) (bit v 0) (bit v 2) (bit v 1) (bit v 3) d
  | .rlEvtBind => evtBindWrite (64 * i + l.j / 64) (l.j % 64) v d
  | .drLockCfg => lockCfgWrite i v d
  | .drLockStatus => if bit v 30 then lockPoisonClear i d else d
  | .drChanCfg0 => chanCfg0Write i v d
  | .drChanCfg1 => chanCfg1Write i v d
  | .lkShadowBase => shadowBaseWrite i v d
  | .lkFlowCfg => flowCfgWrite v d
  | .lkRingCfg => ringCfgWrite i v d
  | .lkSuspectInfo => recordClear .lkSuspectInfo 0 v d
  | .swCtAbortSat =>
    let d := plainWrite l v d
    (List.range 29).foldl (fun d x => if bit v x then setCur d .swCtAbort x 0 0 else d) d
  | .swDestCtl => destFreeze i (bit v 0) d
  | .lkCmd | .lkCmdData | .swMcCmd | .swMcData | .scMtrCmd | .scMtrData | .ciSaCmd | .ciSaData | .bsCmd | .bsData | .bbQcmd | .bbQop
  | .bbQdata => busyWrite l v d
  | .scSmpCfg => smpCfgWrite v d
  | .scMirSess => mirSessWrite i v d
  | .blCfg => blCfgWrite i v d
  | .blPmdCfg => blPmdWrite i v d
  | .vpSigCfg => sigCfgWrite i l.j v d
  | .vpCtl => vpCtlWrite i v d
  | .vpMigCtl => vpMigCtlWrite i v d
  | .bbCtl => bobCmd i (fld v 0 2) (plainWrite l v d)
  | .bbCfg => bbCfgWrite v d
  | .bsStage => bsStageWrite v d
  | .bsAdmRxCfg => admCfgWrite .bsAdmRxCfg .bsAdmRxProd .bsAdmRxCons v d
  | .bsAdmTxCfg => admCfgWrite .bsAdmTxCfg .bsAdmTxProd .bsAdmTxCons v d
  | .bsAdmTxProd => admPost v d
  | .mbRcvCfg => rcvCfgWrite i v d
  | .mbDbbSet => rcvSet d i v.toNat
  | .pwDomCtl => domCtlWrite i v d
  | .tmStepCtl => if bit v 0 then stepGo (bit v 1) d else plainWrite l v d
  | .ftHbmSpare => hbmSpareWrite v d
  | .npPortCfg => npCfgWrite i v d
  | .npPmdCfg => npPmdWrite i v d
  | _ => plainWrite l v d

/-- A write of a 64-bit register, both words. -/
def writeWide (src : WSrc) (l : Loc) (v : DWord) (d : Dev) : Dev :=
  match l.reg with
  | .ctCmdCfg => extendConfig 3 src.counter src.body (plainWrite64 l v d)
  | .vpMbOut => fwOutAsk src.path l.i v d
  | .vpMbStatus =>
    let x := vportOf d l.i
    putVport d l.i { x with refusedFw := x.refusedFw && !bit v 5, peerResetFw := x.peerResetFw && !bit v 3 }
  | .bbWay => bbWayWrite l.i l.j v d
  | .ftCntCfg => cntCfgWrite v d
  | _ => plainWrite64 l v d

/-- The held low word of a path (R525). -/
def heldLow (d : Dev) (p : Path) (a : Nat) : Option Word := mget (mget d.regs.held (pathKey p) []) a none

/-- Hold, or drop, a low word. -/
def setHeld (d : Dev) (p : Path) (a : Nat) (v : Option Word) : Dev :=
  { d with regs := { d.regs with held := mput d.regs.held (pathKey p) (mput (mget d.regs.held (pathKey p) []) a v none) [] } }

/-- A pool bobbin's registers ignore writes (R330). -/
def poolBobbin (d : Dev) (a : Nat) : Bool :=
  decide (0x1800000 ≤ a) && decide (a < 0x1840000) && !bobSoft d ((a - 0x1800000) / 0x100)

/-- A write to a register at its place `l`, address `a`: nothing reaches a domain that sleeps or a register whose own commands alone
write it; a wide register takes its two words together when the high one is written (R408, R438, R525, R528). -/
def writeLoc (src : WSrc) (l : Loc) (a : Nat) (v : Word) (d : Dev) : Dev :=
  if regDown d l a then count d .pwEvtCnt 4 0
  else if checkedOnly l.reg && !src.checked then d
  else if criticalOnly l.reg || poolBobbin d a then d
  else if !(regDef l.reg).wide then writeWord src l v d
  else if !l.hi then setHeld d src.path a (some v)
  else
    let lo := (heldLow d src.path (a - 4)).getD (cur d l.reg l.i l.j)
    writeWide src l (BitVec.ofNat 64 (lo.toNat + v.toNat * 2 ^ 32)) (setHeld d src.path (a - 4) none)

/-- Whether a write on the control path is performed (R408): it is ignored where the address names no register, the register's domain
sleeps, or the register takes writes only from other commands. -/
def writeDone (checked : Bool) (a : Nat) (d : Dev) : Bool :=
  match locate a with
  | none => false
  | some l => !regDown d l a && (checked || !checkedOnly l.reg) && !criticalOnly l.reg && !poolBobbin d a

/-- A register write (R5, R408, R439, R524 to R526): the low word of a 64-bit register is held until its high word is written. An
endpoint's path reaches its own pages by an MBW of 4 bytes, which the next boundary performs (R309, R427). -/
def writeReg (src : WSrc) (a : Nat) (v : Word) (d : Dev) : Dev :=
  match src.path with
  | .mbx h =>
    let p := (a - 0x1000000) / 0x1000
    if a < 0x1000000 ∨ 0x1800000 ≤ a ∨ p / 256 ≠ h.val then d else pageAsk h 0x13 a (beBytes 4 v.toNat) d
  | _ =>
    match locate a with
    | none => d
    | some l => writeLoc src l a v d

/-- The source of a write that stands alone. -/
def WSrc.lone (p : Path) (checked : Bool) (counter a : Nat) (v : Word) : WSrc :=
  ⟨p, checked, counter, beBytes 4 a ++ beBytes 4 v.toNat⟩

/-- Device firmware writes a register of one word by name: a write on the control path, unchecked. -/
def fwWrite (r : Reg) (i j : Nat) (v : Word) (d : Dev) : Dev :=
  writeLoc (WSrc.lone .ctl false 0 (addr r i j) v) ⟨r, i, j, false⟩ (addr r i j) v d

/-- Device firmware writes both words of a wide register by name, the low one first (R525). -/
def fwWrite64 (r : Reg) (i j : Nat) (v : DWord) (d : Dev) : Dev :=
  let a := addr r i j
  let lo := BitVec.ofNat 32 (v.toNat % 2 ^ 32)
  let hi := BitVec.ofNat 32 (v.toNat / 2 ^ 32)
  writeLoc (WSrc.lone .ctl false 0 (a + 4) hi) ⟨r, i, j, true⟩ (a + 4) hi (writeLoc (WSrc.lone .ctl false 0 a lo) ⟨r, i, j, false⟩ a lo d)

end Sys2Proof.Machine
end

