-- ==== Sys2Proof/Machine/Boot.lean ====
section
/-! DEFINITION. Resets, the boot ROM, boot service and the switch to full service (chapter 19). -/

namespace Sys2Proof.Machine

/-! ### Device resets (R485 to R487, R489, R490) -/

/-- SE_STATUS shows the fuses (Table 15-16). -/
def seSync (o : Otp) (d : Dev) : Dev :=
  setCur d .seStatus 0 0 (BitVec.ofNat 32
    (o.rollback % 256 * 2 ^ 16 + o.revoke % 16 * 2 ^ 12 + b2n o.provisioned * 32 + b2n o.debugPerm * 16))

/-- CT_BOOT_STATUS after a reset: its cause and the straps as latched (Table 19-8). -/
def bootShow (cause : Nat) (k : Keep) (d : Dev) : Dev :=
  setCur d .ctBootStatus 0 0 (BitVec.ofNat 32
    (3 * 2 ^ 26 + k.bootSel % 4 * 2 ^ 10 + k.rungInit % 4 * 2 ^ 8 + b2n k.cpMedia * 128 + cause % 8))

/-- Whether the boot ROM has come far enough for the links to hold the epochs. -/
def epochsLive (s : State) : Bool :=
  !s.board.held && !(s.dev.ct.phase = .rom || s.dev.ct.phase = .haltedEntropy)

/-- Host-port epochs as the security processor holds them over a device reset (R491). -/
def heldEpochs (s : State) : SMap Nat :=
  if epochsLive s then (List.range 8).foldl (fun m h => mput m h (linkOf s.dev h).epOwn 0) s.keep.epochs else s.keep.epochs

/-- What a reset leaves of a rollback advance that it cuts short: ROLLBACK between its old value and N, and revoke fuses only once N is
reached (R423). -/
def cutFuses (s : State) : Otp :=
  match s.dev.ct.advance with
  | none => s.otp
  | some (n, mask) =>
    let o := s.otp
    let v := o.rollback + Config.fusesBlown o.rollback n s.dev.tick % (n + 1 - o.rollback)
    { o with rollback := v, revoke := if v = n then o.revoke ||| (mask &&& Config.slotsRevoked mask s.dev.tick) else o.revoke }

/-- A device reset that is no power-on reset (Table 19-2): HBM and what it holds is kept. HALTED_ENTROPY outlasts it (R492). -/
def deviceReset (cause : Nat) (s : State) : State :=
  let d := s.dev
  let n := Dev.reset (d.ct.epoch + 1) d.rng d.hbm d.out
  let n := { n with
    bs := { n.bs with kept := d.bs.kept ++ heldLocks_ d },
    ft := { n.ft with bad := d.ft.bad.filter fun a => a / 2 ^ 40 = 1 },
    ct := { n.ct with phase := if d.ct.phase = .haltedEntropy then .haltedEntropy else .rom } }
  { s with otp := cutFuses s, keep := { s.keep with epochs := heldEpochs s }, dev := bootShow cause s.keep n,
           board := { s.board with held := true, cause := cause } }

/-- DEVICE_RESET_CMD (R485, R408): a checked write of DEVICE in CT_RESET. -/
def commandReset (s : State) : State := if s.board.held then s else deviceReset 3 s

/-- UNDERVOLTAGE_RESET (R485): held until UNDERVOLTAGE_RELEASE. -/
def undervoltage (s : State) : State :=
  if s.board.porstLow then s
  else
    let s := deviceReset 2 s
    { s with board := { s.board with uv := true } }

/-- UNDERVOLTAGE_RELEASE (R485). -/
def undervoltageEnd (s : State) : State := { s with board := { s.board with uv := false } }

/-- PORST_N_LOW (R509, R489): the whole device is in reset and HBM is lost. -/
def porstLow (s : State) : State :=
  { s with
    otp := cutFuses s,
    keep := { s.keep with epochs := [] },
    dev := Dev.reset (s.dev.ct.epoch + 1) s.dev.rng [] s.dev.out,
    board := { s.board with porstLow := true, held := true, uv := false } }

/-- POWER_ON_RESET (R489, R490): PORST_N rises and the straps are latched; the cause is 1 where PORST_N went low with the supplies
held. -/
def powerOn (bootSel rungInit : Nat) (cpMedia : Bool) (s : State) : State :=
  let k : Keep := ⟨[], bootSel, rungInit, cpMedia⟩
  let cause := if s.board.porstLow then 1 else 0
  { s with
    otp := cutFuses s,
    keep := k,
    dev := bootShow cause k (Dev.reset (s.dev.ct.epoch + 1) s.dev.rng [] s.dev.out),
    board := { s.board with bootSel := bootSel, rungInit := rungInit, cpMedia := cpMedia, porstLow := false, held := true, uv := false,
                            cause := cause, thermtrip := false } }

/-! ### The boot ROM (R491 to R494) -/

/-- d_r of R493 in tenths of a picosecond. -/
def rungLoss (r : Nat) : Int := [714, 381].getD r 0

/-- The measurement in hand and those that follow; the last one stands for all that would come after it. -/
def nextMeasure (ms : List Measure) : Measure × List Measure :=
  match ms with
  | [] => (⟨[], 0, [], []⟩, [])
  | [m] => (m, [m])
  | m :: t => (m, t)

/-- Margin bring-up (R493) from a measurement on: each rail that is short is raised while it may be; else the next slower rung is
considered; where none qualifies the rails go to 0.800 V. The answers of a measurement are those of the writes before it. -/
def bringUp : Nat → Nat → List Measure → Dev → Dev
  | 0, _, _, d => d
  | n + 1, r, ms, d =>
    let (m, rest) := nextMeasure ms
    let d := showMeasure m d
    let short (b : Bool) : Bool := decide (10 * railSlack m b - rungLoss r < 10 * (mgLow d : Int))
    let low (b : Bool) : Bool := !avsFail d b && decide ((railOf d b).mv < 800)
    let may (b : Bool) : Bool := short b && low b
    let put (b : Bool) (mv : Nat) (d : Dev) : Dev := avsWrite b mv (avsAnswers (nextMeasure rest).1 b) d
    if !short false && !short true then { d with mg := { d.mg with rungDue := if r = d.rung then none else some r } }
    else if may false || may true then
      let lift (b : Bool) (d : Dev) : Dev := if may b then put b (min 800 ((railOf d b).mv + mgStep d)) d else d
      bringUp n r rest (lift true (lift false d))
    else if r < 2 then bringUp n (r + 1) ms d
    else
      let full (b : Bool) (d : Dev) : Dev := if low b then put b 800 d else d
      raise (full true (full false d)) 25

/-- The margin bring-up: 0.750 V on both rails, then from RUNG_INIT down. -/
def marginBringUp (rungInit : Nat) (ms : List Measure) (d : Dev) : Dev :=
  let m := (nextMeasure ms).1
  let d := avsWrite true 750 (avsAnswers m true) (avsWrite false 750 (avsAnswers m false) d)
  bringUp 128 (min 2 rungInit) ms d

/-- State of an association as R494 rebuilds it. -/
def rebuiltState (d : Dev) (i : Nat) : Nat :=
  let c := saF d i 0x20 8
  if !saValid d i then 0 else if saHard d i ≤ c then 3 else if saSoft d i ≤ c then 2 else 1

/-- The rebuild of the state array (R494): an egress association restarts from LEASE (R346). -/
def rebuildSas (d : Dev) : Dev :=
  let ids := ((d.hbm.filterMap fun c =>
    if 0xBC0000000 ≤ c.1 ∧ c.1 < 0xBD0000000 then some ((c.1 - 0xBC0000000) / 256) else none)).eraseDups
  ids.foldl (fun d i =>
    let st := rebuiltState d i
    let d := { d with ci := { d.ci with st := mput d.ci.st i st 0 } }
    if st ≠ 0 && saEgress d i then saWr d i 0x20 (saBytes d i 0x38 8) else d) d

/-- Boot service (R495, R496): ROM reels 0 to 3, whose threads start, and the spare, group 16,383, the sub-ports. -/
def bootService (d : Dev) : Dev :=
  let d := (List.range 4).foldl (fun d r =>
    startThreads (setReelDig (putReel d r { romReel with st := .admitted }) r Config.romDigest) r) d
  let d := setReelDig (putReel d 32 romReel) 32 Config.romDigest
  let d := { d with sw := { d.sw with
    mc := mputs d.sw.mc 0 (8 * 16383) [0xFFFF, 3], mode := mputs d.sw.mode 2 0 [1, 1, 1, 1], npUp := [0, 1, 2, 3], boot := [0, 1, 2, 3] } }
  (List.range 4).foldl (fun d x => setBoth d .npPortCfg x 0 0x101) d

/-- Host-port epochs at boot: drawn after a power-on reset, else one higher (R284, R491). -/
def bootEpochs (power : Bool) (k : Keep) (d : Dev) : Dev :=
  (List.range 8).foldl (fun d h =>
    let r := if power then draw64 d else (d, BitVec.ofNat 64 (mget k.epochs h 0 + 1))
    putLink r.1 h { linkOf r.1 h with epOwn := r.2.toNat % 256 }) d

/-- The boot ROM where the startup tests pass (R491): BOOT_ID, epochs, margins, associations, boot service. With BOOT_SEL 3 nothing is
fetched (Table 19-4). -/
def romRun (o : Otp) (k : Keep) (cause : Nat) (ms : List Measure) (d : Dev) : Dev :=
  let (d, id) := draw64 d
  let d := { d with ct := { d.ct with bootId := id.toNat % 2 ^ 32 } }
  let d := bootEpochs (decide (cause < 2)) k d
  let d := marginBringUp k.rungInit ms d
  let d := keepStart (bootService (rebuildSas d))
  let d := seSync o d
  { d with ct := { d.ct with phase := if k.bootSel = 3 then .bootHold else .bootService } }

/-- The OTP fields that the security processor works from (R491): DEVICE_ID and control key 0. -/
def readOtp (o : Otp) (d : Dev) : Dev :=
  seSync o { d with ct := { d.ct with
    devId := o.deviceId, keys := mput d.ct.keys 0 (if o.provisioned then some ⟨o.ctlKey0, 0xFFFF⟩ else none) none } }

/-- PLL_LOCK (R489, R491, R492): reset is released and the boot ROM runs. -/
def pllLocks (entropyOk : Bool) (ms : List Measure) (s : State) : State :=
  if s.board.porstLow || s.board.uv || !(s.board.held || s.dev.ct.phase = .rom) then s
  else
    let d := readOtp s.otp s.dev
    let d :=
      if entropyOk && d.ct.phase = .rom then romRun s.otp s.keep s.board.cause ms d
      else { d with ct := { d.ct with phase := .haltedEntropy, trngFail := true } }
    { s with board := { s.board with held := false }, dev := d }

/-! ### Bank selection and the switch (R498 to R502) -/

/-- GEN of a flash's boot record where it is valid (R498). -/
def recordGen (f : Flash) : Option Nat :=
  let b := f.record
  if leAt b 0 4 = 0x42585442 ∧ leAt b 16 4 = crc32c (sliceD 0 b 0 16) ∧ leAt b 8 8 ≤ 48 * 2 ^ 20 then some (leAt b 4 4) else none

/-- A flash by bank: 0 A, 1 B. -/
def flashOf (s : State) (k : Nat) : Flash := if k = 0 then s.flashA else s.flashB

/-- Store a flash. -/
def putFlash (s : State) (k : Nat) (f : Flash) : State := if k = 0 then { s with flashA := f } else { s with flashB := f }

/-- The bytes that a bank's boot record covers. -/
def bankImage (f : Flash) : List Byte := f.image.take (leAt f.record 8 8)

/-- The bank that R499 selects with BOOT_SEL 0: the valid one with the greater GEN, A at equal GENs. -/
def selectedBank (s : State) : Option Nat :=
  match recordGen s.flashA, recordGen s.flashB with
  | some a, some b => some (if a < b then 1 else 0)
  | some _, none => some 0
  | none, some _ => some 1
  | none, none => none

/-- The banks to try, in order (R499). -/
def bankOrder (s : State) (bootSel : Nat) : List Nat :=
  match bootSel with
  | 1 => [0]
  | 2 => [1]
  | _ => match selectedBank s with
    | some k => [k, 1 - k]
    | none => [0, 1]

/-- FAIL_A or FAIL_B of a bank that is tried (Table 19-8). -/
def bankFail (s : State) (k : Nat) : Nat :=
  let f := flashOf s k
  if (recordGen f).isNone then 2
  else match verifyImage s.otp false true (bankImage f) with
    | 0 => 1
    | 7 => 4
    | 3 => 5
    | _ => 3

/-- Try banks in order; those tried are shown, and the first that passes is answered. -/
def tryBanks (s : State) : List Nat → Word → Word × Option Nat
  | [], w => (w, none)
  | k :: ks, w =>
    let c := bankFail s k
    let w := setFld w (if k = 0 then 16 else 12) 4 c
    if c = 1 then (w, some k) else tryBanks s ks w

/-- Whether the initial register-write list may not write a register (R501). -/
def listSkips : Reg → Bool
  | .tkCommit | .lkCommit | .swCommit | .scCommit | .ciCommit | .bsCommit | .swPeCommit | .ctReset | .ctIsoCfg => true
  | r => criticalOnly r

/-- One entry of the initial list (R501), with its bytes as BODY where it extends M_CONFIG. -/
def listWrite (d : Dev) (b : List Byte) : Dev :=
  let a := leAt b 0 4
  let v : Word := BitVec.ofNat 32 (leAt b 4 4)
  match locate a with
  | some l => if listSkips l.reg then count d .ctBootSkipped 0 0 else writeReg ⟨.sp, true, 0, b⟩ a v d
  | none => d

/-- The initial register-write list of an image (R501). -/
def initialList (b : List Byte) (d : Dev) : Dev :=
  ((imgComps b).filter fun c => c.ty = 3).foldl (fun d c => (cutBytes 8 (c.len / 8) (compBytes b c)).foldl listWrite d) d

/-- Steps 1 to 4 of R502: the image runs, its reel images are placed, the list is performed, reels 4 to 31 are loaded. -/
def startSwitch (b : List Byte) (d : Dev) : Dev :=
  let d := { d with ct := { d.ct with running := some (runningOf b), phase := .switching, switch := 1 } }
  let d := initialList b (placeReels b d)
  (List.range 28).foldl (fun d i => reelCommand (4 + i) 1 d) d

/-- IMAGE_FETCH_DONE (R499): the first bank that passes boots, FALLBACK where the fallback was tried; with none the device stays in
boot service in phase BOOT_HOLD. -/
def imageFetched (s : State) : State :=
  let d := s.dev
  if s.board.held || d.ct.phase ≠ .bootService then s
  else
    let order := bankOrder s s.keep.bootSel
    let (w, r) := tryBanks s order (cur d .ctBootStatus 0 0)
    let valid := order.filter fun j => (recordGen (flashOf s j)).isSome
    let w := setBit w 25 (decide (valid.length = 2 ∧ r ≠ valid.head?))
    match r with
    | none => { s with dev := setCur { d with ct := { d.ct with phase := .bootHold } } .ctBootStatus 0 0 w }
    | some k =>
      { s with dev := startSwitch (bankImage (flashOf s k)) (setCur d .ctBootStatus 0 0 (setFld w 26 2 k)) }

/-- Every block's COMMIT, SW_PE_COMMIT included (R502). -/
def commitAll (d : Dev) : Dev :=
  askPeCommit ([Blk.tk, .lk, .sw, .sc, .ci, .bs].foldl (fun d b => askCommit b d) d)

/-- The reels of a list hold none that is loading or waits to be. -/
def loadsDone (d : Dev) (rs : List Nat) : Bool :=
  rs.all fun r => !((reelOf d r).st = .loading) && !d.pw.cmds.any (fun x => x.1 = r)

/-- Steps 5 to 8 of R502, each in the tick that its condition opens. -/
def switchStep (d : Dev) : Dev :=
  let step (n : Nat) (d : Dev) : Dev := { d with ct := { d.ct with switch := n } }
  let old : List Nat := [0, 1, 2, 3]
  let new : List Nat := (List.range 28).map (4 + ·)
  match d.ct.switch with
  | 1 => if loadsDone d new then step 2 (commitAll d) else d
  | 2 =>
    let d := new.foldl (fun d r => reelCommand r 2 d) d
    let d := old.foldl (fun d r => reelCommand r 3 d) d
    step 3 (reelCommand 32 4 d)
  | 3 =>
    if old.all (fun r => !((reelOf d r).st = .admitted || (reelOf d r).st = .draining)) && decide ((reelOf d 32).st = .off) then
      step 4 ((old ++ [32]).foldl (fun d r => reelCommand r 1 d) d)
    else d
  | 4 =>
    let asked (r : Nat) : Bool := d.pw.cmds.any (fun x => x.1 = r) || decide ((reelOf d r).pend ≠ .none)
    let done := loadsDone d (old ++ [32])
    let d := old.foldl (fun d r => if (reelOf d r).st = .spare && !asked r then reelCommand r 2 d else d) d
    if done then { d with ct := { d.ct with switch := 5, phase := .full } } else d
  | _ => d

/-! ### Domain resets (R486 to R488) -/

/-- A vport of a host port in a domain reset: OFF, its page and contexts cleared (R308, R486). -/
def vportOff (d : Dev) (p : Nat) : Dev :=
  if (vportOf d p).st = .off then d
  else clearVport (nvmeDiscard (stopQueues (bobAbandon (dropHeld d p) p) p true) p) p

/-- A host-port domain reset at its boundary (R486 to R488): its vports go to OFF, its outstanding tags end, its epoch increments, and
its link takes no traffic for 16 ticks. -/
def hostReset (h : Nat) (d : Dev) : Dev :=
  let d := (mkeys d.hp.vports).foldl (fun d p => if p / 256 = h then vportOff d p else d) d
  let d := abandonAll (leaveActive d h) h
  let l := linkOf d h
  let d := putLink d h { Link.reset with aligned := l.aligned, epOwn := (l.epOwn + 1) % 256, etype := l.etype, resetTill := some (d.tick + 16) }
  setCur (setCur (setCur d .blTags h 0 0) .blPeerIdLo h 0 0) .blPeerIdHi h 0 0

/-- Whether an egress cluster still works on a copy's frame after it began to protect it: the frame is being sent, or cells of it have still
to cross (DEDUCED, log entry 298). -/
def inCluster (d : Dev) (k : Nat) (c : Copy) : Bool :=
  !(copySas c).isEmpty && decide (outCluster c.dest = k) && c.out.isSome && !c.prot && (c.started || decide (c.crossed < copyCells d c))

/-- A copy whose protection breaks off (R357): before its first byte nothing is sent; after it the frame ends there with the inverted FCS
under R23. -/
def clusterCut (id : Nat) (c : Copy) (d : Dev) : Dev :=
  if !c.started then dropCopy d id c
  else
    let d := if c.inverted then d else ctAbort d c.dest
    let out := if c.dest < 16 then c.out.map (·.take (max 1 c.sent)) else c.out
    putCopy d id (some { c with inverted := true, out := out })

/-- A cipher-cluster domain reset at its boundary (R353, R357, R486 to R488): frames in the hold buffer, waiting at the cluster and in
progress end, counted with RESET. A cluster that is OFF stays so. -/
def clusterReset (c : Nat) (d : Dev) : Dev :=
  if domSt d (33 + c) = 3 then d
  else
    let ids := (d.ci.holds.filterMap fun e => match e.2, frameOf d e.1 with
      | some _, some f => if f.input / 4 = c then some e.1 else none
      | _, _ => none)
    let d := ids.foldl (fun d id => holdDrop d id c 11) d
    let d := (eqOf d c).foldl (fun d id => match copyOf d id with
      | some x => dropCopy (ciCount d c 11) id x
      | none => d) d
    let d := putEq d c []
    let d := ((allCopies d).filter fun e => inCluster d c e.2).foldl (fun d e => clusterCut e.1 e.2 (ciCount d c 11)) d
    { d with ci := { d.ci with resetTill := mput d.ci.resetTill c (some (d.tick + 16)) none } }

/-- Domain resets that the boundary makes, host ports before clusters (R488). -/
def domainResets (d : Dev) : Dev :=
  let xs := d.ct.domReset
  let d := { d with ct := { d.ct with domReset := [] } }
  (List.range 16).foldl (fun d x => if x ∈ xs then (if x < 8 then hostReset x d else clusterReset (x - 8) d) else d) d

/-- DOMAIN_RESET_END (R488): links and clusters whose 16 ticks are over take traffic again. -/
def domainResetEnd (d : Dev) : Dev :=
  let isOver : Option Nat → Bool := fun t => match t with | some t => decide (t ≤ d.tick) | none => false
  let d := (List.range 8).foldl (fun d h =>
    if isOver (linkOf d h).resetTill then putLink d h { linkOf d h with resetTill := none } else d) d
  let ci := { d.ci with resetTill := d.ci.resetTill.filter fun e => !isOver e.2 }
  { d with ci := ci }

end Sys2Proof.Machine
end

