-- ==== Sys2Proof/Machine/Control.lean ====
section
/-! DEFINITION. The control path and the security processor's commands (chapter 15), event notices (R472), the end of debug mode
(R414). -/

namespace Sys2Proof.Machine

/-! ### Command frames (R400 to R406) -/

/-- A field of a command's header or body, in network byte order. -/
def beAt (b : List Byte) (o k : Nat) : Nat := beNat (sliceD 0 b o k)

/-- OPCODE, KEY_ID and COUNTER of a command. -/
def CmdRun.opcode (r : CmdRun) : Nat := beAt r.hdr 2 2
def CmdRun.keyId (r : CmdRun) : Nat := beAt r.hdr 8 1 % 4
def CmdRun.counter (r : CmdRun) : Nat := beAt r.hdr 16 8

/-- Opcodes of Table 15-3. -/
def opcodes : List Nat :=
  [1, 2, 3, 0x10, 0x11, 0x100, 0x101, 0x102, 0x103, 0x104, 0x105, 0x106, 0x107, 0x108, 0x109, 0x10A, 0x1F0]

/-- Critical opcodes (R407). -/
def critical (op : Nat) : Bool := decide (0x100 ≤ op ∧ op ≤ 0x10A)

/-- Key `k` (R402). -/
def ctlKey (d : Dev) (k : Nat) : Option CtlKey := mget d.ct.keys k none

/-- CHECK of a command or reply under key `k`; 0 where the key is not installed (R403). -/
def checkOf (d : Dev) (k : Nat) (bytes : List Byte) : List Byte :=
  match ctlKey d k with
  | some x => (hmac512 x.key bytes).take 32
  | none => List.replicate 32 0

/-- A frame of the control path: header and body under CHECK, to a destination on a port (R406, R472). -/
def sendCmd (d : Dev) (port : Nat) (dst hdr body : List Byte) (key : Nat) : Dev :=
  let et := beBytes 2 (fld (cfg64 d .ctCmdCfg 0 0) 16 16)
  let mac := beBytes 6 (cfg64 d .ctCmdMac 0 0).toNat
  let bs := dst ++ mac ++ et ++ hdr ++ body ++ checkOf d key (hdr ++ body)
  emit d (.frame port (bs ++ fcsOf bs))

/-- A body filled up to a multiple of 8 bytes (R407). -/
def padBody (b : List Byte) : List Byte := b ++ List.replicate ((8 - b.length % 8) % 8) 0

/-- CMD_REPLY (R406): the reply to the command in progress, which is then over. -/
def reply (d : Dev) (r : CmdRun) (status : Nat) (body : List Byte) : Dev :=
  let body := padBody body
  let hdr := overwrite (overwrite r.hdr 1 [1]) 9 (beBytes 1 status ++ beBytes 2 body.length)
  sendCmd { d with ct := { d.ct with busy := none } } r.port r.src hdr body r.keyId

/-- A frame is well formed (R400). -/
def cmdFormed (bs pay : List Byte) : Bool :=
  let n := beAt pay 0x0A 2
  decide (74 ≤ bs.length ∧ bs.length ≤ 4160) && fcsGood bs && decide (beAt pay 0 1 = 1) && decide (beAt pay 1 1 = 0)
    && decide (beAt pay 8 1 < 4) && decide (beAt pay 9 1 = 0) && decide (beAt pay 0x0C 4 = 0) && decide (n ≤ 4080 ∧ n % 8 = 0)
    && decide (24 + n + 32 ≤ pay.length)

/-- A command that is refused without a reply (R405). -/
def cmdRefuse (d : Dev) (k : Nat) (tell : Bool) : Dev :=
  let d := count d .ctCmdRefuseCnt k 0
  if tell then raise d 19 else d

/-- Whether a command is checked (R405). -/
def cmdChecked (d : Dev) (op : Nat) : Bool :=
  critical op || (!decide (op ∈ [1, 0x10, 0x11, 0x1F0]) && bit (cfg64 d .ctCmdCfg 0 0) 32)

/-- Whether the key permits a command, and its port too (R402, R405). -/
def cmdPermitted (d : Dev) (r : CmdRun) : Bool :=
  !critical r.opcode ||
    ((decide (r.keyId = 0) || (match ctlKey d r.keyId with
        | some x => x.mask.testBit (r.opcode - 0x100)
        | none => false))
      && (decide (r.port = 24) || bit (cfg64 d .ctCmdCfg 0 0) 33))

/-- The status that the phase gives a command, or the want of provisioning (R416, R492, R497); 0 where it is performed. -/
def phaseStatus (d : Dev) (provisioned : Bool) (r : CmdRun) : Nat :=
  let op := r.opcode
  if op = 1 ∨ op = 0x11 then 0
  else match d.ct.phase with
    | .haltedEntropy => 8
    | ph =>
      if op = 0x1F0 then (if provisioned ∨ r.port ≠ 24 then 4 else 0)
      else if !provisioned then 4
      else if ph = .full ∨ op ∈ [2, 3, 0x10, 0x103, 0x109] ∨ (ph = .bootHold ∧ op ∈ [0x100, 0x101]) then 0
      else 4

/-- A critical command past the ruled row is accepted: M_CONFIG and CRIT_COUNT (R424, R425). -/
def acceptCritical (d : Dev) (r : CmdRun) : Dev :=
  if critical r.opcode then
    let d := extendConfig r.opcode r.counter r.body d
    { d with ct := { d.ct with crit := d.ct.crit + 1 } }
  else d

/-- The tests of Table 15-2 on a frame that has been taken from the queue. -/
def cmdTest (provisioned : Bool) (port : Nat) (bs : List Byte) (d : Dev) : Dev :=
  let pay := (noFcs bs).drop 14
  let n := beAt pay 0x0A 2
  let r : CmdRun := ⟨port, sliceD 0 bs 6 6, pay.take 24, cmdChecked d (beAt pay 2 2), sliceD 0 pay 24 n, d.tick⟩
  let k := r.keyId
  if !cmdFormed bs pay then cmdRefuse d 0 false
  else if r.checked && (ctlKey d k).isNone then cmdRefuse d 1 false
  else if r.checked && decide (checkOf d k (pay.take (24 + n)) ≠ sliceD 0 pay (24 + n) 32) then cmdRefuse d 2 true
  else if r.checked && (decide (r.counter / 2 ^ 32 ≠ d.ct.bootId) || decide (r.counter % 2 ^ 32 ≤ mget d.ct.last k 0)) then
    cmdRefuse d 3 true
  else
    let d := { d with ct := { d.ct with
      busy := some r, last := if r.checked then mput d.ct.last k (r.counter % 2 ^ 32) 0 else d.ct.last } }
    let d := acceptCritical d r
    if r.opcode ∉ opcodes then reply (count d .ctCmdRefuseCnt 5 0) r 2 []
    else if !cmdPermitted d r then reply (count d .ctCmdRefuseCnt 4 0) r 3 []
    else
      let st := phaseStatus d provisioned r
      if st = 0 then d else reply d r st []

/-- CMD_TAKE (R401, R405): the oldest command frame is taken once the command before it has replied. -/
def cmdTake (s : State) : State :=
  if s.board.held || s.dev.ct.busy.isSome then s
  else match s.dev.ct.cmdq with
    | [] => s
    | (port, bs) :: rest =>
      { s with dev := cmdTest s.otp.provisioned port bs { s.dev with ct := { s.dev.ct with cmdq := rest } } }

/-- The command in progress, where it has a given opcode. -/
def withCmd (op : Nat) (f : CmdRun → State → State) (s : State) : State :=
  match s.dev.ct.busy with
  | some r => if !s.board.held && decide (r.opcode = op) then f r s else s
  | none => s

/-- A command whose effect lies in what a device reset clears. -/
def devCmd (op : Nat) (f : CmdRun → Dev → Dev) : State → State := withCmd op fun r s => { s with dev := f r s.dev }

/-- The body has the right length, else RANGE (R407). -/
def sized (n : Nat) (f : CmdRun → Dev → Dev) (r : CmdRun) (d : Dev) : Dev := if r.body.length = n then f r d else reply d r 5 []

/-! ### Secrets (R409) -/

/-- A sealed field, opened under the transport key of the command's key. -/
def openSealed (d : Dev) (r : CmdRun) (ct tag : List Byte) : Option (List Byte) :=
  match ctlKey d r.keyId with
  | none => none
  | some k =>
    let tk := (hmac512 k.key [0x41, 0x58, 0x54, 0x52, 0x57, 0x52, 0x41, 0x50]).take 32
    gcmOpen tk (List.replicate 4 0 ++ sliceD 0 r.hdr 16 8) r.hdr ct tag

/-! ### STATUS, REG_READ, REG_WRITE, ATTEST, IDENTITY_GET -/

/-- SE_STATUS as read. -/
def seStatusNow (d : Dev) : Nat := (viewOf d .seStatus 0 0).getD 0

/-- STATUS (R407). -/
def cmdStatus : State → State :=
  devCmd 1 (sized 0 fun r d => reply d r 0 (beBytes 4 d.ct.bootId ++ beBytes 16 d.ct.devId ++ beBytes 4 (seStatusNow d) ++ beBytes 8 0))

/-- Read `n` registers from address `a` on (R408). -/
def readRegs : Nat → Nat → Dev → Dev × List Byte
  | 0, _, d => (d, [])
  | n + 1, a, d =>
    let x := readReg .ctl a d
    let y := readRegs n (a + 4) x.1
    (y.1, beBytes 4 x.2.toNat ++ y.2)

/-- REG_READ (R408). -/
def cmdRegRead : State → State :=
  devCmd 2 (sized 8 fun r d =>
    let n := beAt r.body 4 4
    if n = 0 ∨ 256 < n then reply d r 5 []
    else
      let x := readRegs n (beAt r.body 0 4) d
      reply x.1 r 0 x.2)

/-- The writes of REG_WRITE in order, and the reply with how many were performed (R408); a checked write of DEVICE in CT_RESET resets the device, and then no reply is sent (R406). -/
def writeRegs (r : CmdRun) : Nat → List (List Byte) → State → State
  | n, [], s => { s with dev := reply s.dev r 0 (beBytes 4 n ++ beBytes 4 0) }
  | n, p :: ps, s =>
    let a := beAt p 0 4
    let v : Word := BitVec.ofNat 32 (beAt p 4 4)
    let n := n + b2n (writeDone r.checked a s.dev)
    let s := { s with dev := writeReg ⟨.ctl, r.checked, r.counter, r.body⟩ a v s.dev }
    if a = addr .ctReset 0 0 ∧ bit v 31 ∧ r.checked then commandReset s else writeRegs r n ps s

/-- REG_WRITE (R408). -/
def cmdRegisterWrite : State → State :=
  withCmd 3 fun r s =>
    let n := r.body.length / 8
    if r.body.length % 8 ≠ 0 ∨ n = 0 ∨ 255 < n then { s with dev := reply s.dev r 5 [] } else writeRegs r 0 (cutBytes 8 n r.body) s

/-- REELS of the attestation report: STATE and image of each reel. -/
def reelEntries (d : Dev) : List (List Byte) := (List.range 33).map fun r => leBytes 4 (reelOf d r).st.code ++ leBytes 4 (reelOf d r).img

/-- M_REELS (R425). -/
def reelMeasure (d : Dev) : List Byte :=
  sha512 ((List.range 33).flatMap fun r =>
    leBytes 4 (reelOf d r).st.code ++ leBytes 4 (reelOf d r).img
      ++ (if (reelOf d r).st = .off then List.replicate 64 0 else sliceD 0 (mget d.ct.reelDig r []) 0 64))

/-- Whether an image with DEBUG or UNVERIFIED is running (R414, Table 15-8). -/
def debugRuns (d : Dev) : Bool :=
  (match d.ct.running with | some x => x.debug | none => false) || d.ct.dbgReels.any fun r => !((reelOf d r).st = .off)

/-- Bytes 0x000 to 0x27F of the report (Table 15-8). -/
def attestBody (o : Otp) (nonce : List Byte) (d : Dev) : List Byte :=
  let flags := b2n d.ct.debugEn + 2 * b2n d.ct.debugSeen + 4 * b2n (bit (cur d .ctIsoCfg 0 0) 31) + 8 * b2n (debugRuns d) + 16 * b2n o.debugPerm
  let run := d.ct.running
  let z := List.replicate 64 (0 : Byte)
  leBytes 4 0x41545354 ++ leBytes 2 1 ++ leBytes 2 flags ++ leBytes 16 d.ct.devId ++ leBytes 4 d.ct.bootId ++ leBytes 4 o.rollback
    ++ leBytes 8 d.tick ++ nonce ++ leBytes 4 ((run.map (·.svn)).getD 0) ++ leBytes 4 d.ct.crit ++ (run.map (·.sp)).getD z
    ++ (run.map (·.image)).getD z ++ d.ct.mconfig ++ reelMeasure d ++ (reelEntries d).flatten ++ leBytes 8 0

/-- ATTEST (R425); it needs randomness for its signature (R417). -/
def cmdAttest : State → State :=
  withCmd 0x10 fun r s =>
    let d := s.dev
    if r.body.length ≠ 64 then { s with dev := reply d r 5 [] }
    else if d.ct.trngFail then { s with dev := reply d r 8 [] }
    else
      let b := attestBody s.otp r.body d
      let x := idSign (Config.identityKey s.otp.idSeed) (sha512 b) d
      { s with dev := reply x.1 r 0 (b ++ x.2) }

/-- The certificate in the identity areas: flash A's, or flash B's where A's is empty (R418). -/
def certOf (s : State) : List Byte := if s.flashA.ident.isEmpty then s.flashB.ident else s.flashA.ident

/-- Whether a certificate holds a public key: its uncompressed point stands in it. -/
def certNames (cert pub : List Byte) : Bool :=
  match ecPoint pub with
  | none => false
  | some p =>
    let x := (0x04 : Byte) :: (beBytes 66 p.1 ++ beBytes 66 p.2)
    (List.range (cert.length + 1)).any fun i => (cert.drop i).take x.length = x

/-- IDENTITY_GET (R407, R418). -/
def cmdIdentity : State → State :=
  withCmd 0x11 fun r s =>
    if r.body.length ≠ 0 then { s with dev := reply s.dev r 5 [] }
    else
      let pub := pubOf (Config.identityKey s.otp.idSeed)
      let c := certOf s
      let c := if 3928 < c.length then [] else c
      let d := s.dev
      let d := if certNames c pub then d else raise { d with ct := { d.ct with certBad := true } } 21
      { s with dev := reply d r 0 (pub ++ beBytes 8 c.length ++ c) }

/-! ### Images and rollback (R421, R423, R500) -/

/-- SE_IMG_STATUS. -/
def setImgStatus (d : Dev) (result busy percent : Nat) : Dev :=
  setCur d .seImgStatus 0 0 (BitVec.ofNat 32 (result * 2 ^ 24 + busy * 65536 + percent))

/-- The image in the staging window. -/
def stagedImage (d : Dev) : List Byte :=
  memRdN d.hbm 0xBD0000000 (min (48 * 2 ^ 20) (leNat (memRdN d.hbm 0xBD0000010 8)))

/-- IMG_STAGE (R421). -/
def cmdImgStage : State → State :=
  devCmd 0x100 fun r d =>
    let off := beAt r.body 0 8
    let data := r.body.drop 8
    if r.body.length < 8 then reply d r 5 []
    else if d.ct.activation.isSome then reply d r 4 []
    else if 64 * 2 ^ 20 < off + data.length then reply d r 5 []
    else reply { d with hbm := memWrN d.hbm (0xBD0000000 + off) data } r 0 []

/-- The bank that an activation writes: the one not selected for boot; A where neither is. -/
def targetBank (s : State) : Nat :=
  match selectedBank s with
  | some k => 1 - k
  | none => 0

/-- IMG_ACTIVATE (R421, R422, R500): the staged image is verified; where it passes, the target's record is erased, MODE 1 places the
reel images, and the flash write begins. -/
def cmdImgActivate : State → State :=
  withCmd 0x101 fun r s =>
    let d := s.dev
    let mode := beAt r.body 0 8
    let fail (d : Dev) (st : Nat) : State := { s with dev := reply d r st [] }
    if r.body.length ≠ 8 ∨ 1 < mode then fail d 5
    else if d.ct.activation.isSome then fail d 4
    else
      let b := stagedImage d
      let st := verifyImage s.otp d.ct.debugEn false b
      if st ≠ 0 then fail (setImgStatus d (0x10 + st) 0 0) st
      else if mode = 1 && reelIdInUse d b then fail (setImgStatus d 0x14 0 0) 4
      else
        let t := targetBank s
        let d := if mode = 1 then placeReels b d else d
        let d := setImgStatus { d with ct := { d.ct with activation := some (mode, t) } } 0 1 0
        putFlash { s with dev := reply d r 0 [] } t { flashOf s t with record := [] }

/-- A boot record (R498). -/
def bootRecord (gen len : Nat) : List Byte :=
  let h := leBytes 4 0x42585442 ++ leBytes 4 gen ++ leBytes 8 len
  h ++ leBytes 4 (crc32c h) ++ List.replicate 12 0

/-- The greater GEN of the valid records, plus 1. -/
def nextGen (s : State) : Nat := max ((recordGen s.flashA).getD 0) ((recordGen s.flashB).getD 0) + 1

/-- IMG_FLASH_WRITE_DONE (R500): the image is in flash and reads back right, and its boot record selects the bank. -/
def flashWritten (s : State) : State :=
  match s.dev.ct.activation with
  | none => s
  | some (_, t) =>
    if s.board.held then s
    else
      let b := stagedImage s.dev
      let d := { s.dev with ct := { s.dev.ct with activation := none } }
      let f := { flashOf s t with image := b ++ (flashOf s t).image.drop b.length }
      if (imgComps b).all fun c => decide (sha512 (compBytes b c) = c.digest) then
        putFlash { s with dev := setImgStatus d 1 0 100 } t { f with record := bootRecord (nextGen s) b.length }
      else putFlash { s with dev := setImgStatus d 0x16 0 100 } t f

/-- Slots that a revoke mask may not name: those of the running image and of the image selected for the next boot (R423). -/
def slotsInUse (s : State) : List Nat :=
  (match s.dev.ct.running with | some x => [x.slot] | none => [])
    ++ (match selectedBank s with | some k => [leAt (flashOf s k).image 0x1C 4] | none => [])

/-- ROLLBACK_ADVANCE (R423): the checks; the fuse writes follow. -/
def cmdRollback : State → State :=
  withCmd 0x109 fun r s =>
    let d := s.dev
    let n := beAt r.body 0 4
    let mask := beAt r.body 4 4 % 16
    let svn := (d.ct.running.map (·.svn)).getD 0
    if r.body.length ≠ 8 then { s with dev := reply d r 5 [] }
    else if d.ct.activation.isSome || d.ct.advance.isSome then { s with dev := reply d r 4 [] }
    else if 64 < n ∨ svn < n ∨ n < s.otp.rollback ∨ (slotsInUse s).any fun k => mask.testBit k then
      { s with dev := reply (setImgStatus d 0x15 0 0) r 5 [] }
    else { s with dev := reply (setImgStatus { d with ct := { d.ct with advance := some (n, mask) } } 0 1 0) r 0 [] }

/-- ROLLBACK_FUSES_DONE (R423): ROLLBACK equals N and the revoke fuses are blown. -/
def fusesDone (s : State) : State :=
  match s.dev.ct.advance with
  | none => s
  | some (n, mask) =>
    if s.board.held then s
    else
      let o := { s.otp with rollback := max s.otp.rollback n, revoke := s.otp.revoke ||| mask }
      { s with otp := o, dev := seSync o (setImgStatus { s.dev with ct := { s.dev.ct with advance := none } } 1 0 0) }

/-! ### Keys (R410, R411, R416) -/

/-- Largest HARD, default HARD and default SOFT of a mode (Table 12-6). -/
def saLimits (mode : Nat) (esn : Bool) : Nat × Nat × Nat :=
  if mode = 4 then (2 ^ 48, 2 ^ 40, 2 ^ 39)
  else if mode = 3 || (mode = 1 && esn) then (2 ^ 64 - 1, 2 ^ 62, 2 ^ 61)
  else (0xFFFFFFFF, 0xFFFFFFFF, 0xC0000000)

/-- The entry of an association with its key wrapped (Table 12-4, R341); without a key WKEY and WTAG are 0. -/
def saEntry (dk : List Byte) (i : Nat) (head : List Byte) (soft hard : Nat) (nonce : List Byte) (key : Option (List Byte)) : List Byte :=
  let h := sliceD 0 head 0 0x20
  let w := match key with
    | some k => gcmSeal dk nonce (leBytes 4 i ++ h) k
    | none => (List.replicate 64 0, List.replicate 16 0)
  h ++ leBytes 8 0 ++ leBytes 8 soft ++ leBytes 8 hard ++ List.replicate 72 0 ++ nonce ++ leBytes 4 0 ++ w.1 ++ w.2 ++ List.replicate 32 0

/-- KEY_INSTALL past its first checks: the entry is written and its state follows. -/
def keyStore (dk : List Byte) (r : CmdRun) (i : Nat) (head : List Byte) (soft hard : Nat) (key : Option (List Byte)) (d : Dev) : Dev :=
  let d := evictKey d i
  let (d, n) := drawBytes 2 d
  let e := saEntry dk i head soft hard (n.take 12) key
  reply (saSet { d with hbm := memWrN d.hbm (saBase i) e } i (b2n key.isSome)) r 0 []

/-- KEY_INSTALL (R341, R410). -/
def cmdKeyInstall : State → State :=
  withCmd 0x102 fun r s =>
    let d := s.dev
    let b := r.body
    let i := beAt b 0 4
    let head := sliceD 0 b 8 64
    let ctl : Word := BitVec.ofNat 32 (leAt head 0 4)
    let mode := fld ctl 0 3
    let lim := saLimits mode (bit ctl 5)
    let hard := orIf0 (leAt head 0x30 8) lim.2.1
    let soft := orIf0 (leAt head 0x28 8) lim.2.2
    let valid := bit ctl 9
    let fail (st : Nat) : State := { s with dev := reply d r st [] }
    let bad := valid && (decide (mode = 0) || decide (4 < mode) || (decide (mode = 4) && bit ctl 4) || decide (lim.1 < hard)
      || decide (soft = 0) || decide (hard < soft))
    if b.length ≠ 152 then fail 5
    else if 2 ^ 20 ≤ i ∨ beAt b 4 4 ≠ 0 ∨ leAt head 0x20 8 ≠ 0 ∨ leAt head 0x38 8 ≠ 0 ∨ bad then fail 5
    else if saPinned d i then fail 4
    else if d.ct.trngFail then fail 8
    else
      let dk := Config.deviceKey s.otp.devSeed
      if !valid then { s with dev := keyStore dk r i head soft hard none d }
      else match openSealed d r (sliceD 0 b 0x48 64) (sliceD 0 b 0x88 16) with
        | none => fail 6
        | some k =>
          let n := if bit ctl 3 then 32 else 16
          let used := if mode = 4 then 2 * n else n
          if mode = 4 ∧ k.take n = (k.drop n).take n then fail 5
          else { s with dev := keyStore dk r i head soft hard (some (k.take used ++ List.replicate (64 - used) 0)) d }

/-- Install or remove a control key; LAST becomes 0 (R404, R411). -/
def setCtlKey (d : Dev) (k : Nat) (x : Option CtlKey) : Dev :=
  { d with ct := { d.ct with keys := mput d.ct.keys k x none, last := mput d.ct.last k 0 0 } }

/-- CTLKEY_SET (R411). -/
def cmdCtlkeySet : State → State :=
  devCmd 0x103 (sized 88 fun r d =>
    let k := beAt r.body 0 4
    if r.keyId ≠ 0 then reply d r 3 []
    else if k = 0 ∨ 3 < k then reply d r 5 []
    else match openSealed d r (sliceD 0 r.body 8 64) (sliceD 0 r.body 72 16) with
      | none => reply d r 6 []
      | some x =>
        let new := if x.all (· = 0) then none else some ⟨x, beAt r.body 4 4 % 65536⟩
        reply (setCtlKey d k new) r 0 [])

/-- PROVISION's effect on the OTP (R416): only fields that are still 0 are written, PROVISIONED last. -/
def provisionOtp (o : Otp) (x : List Byte) : Otp :=
  let slot (o : Otp) (n : Nat) : Otp :=
    let h := sliceD 0 x (64 * n) 64
    if mget o.imgKey n [] = [] ∧ !h.all (· = 0) then { o with imgKey := mput o.imgKey n h [] } else o
  let o := { o with ctlKey0 := if o.ctlKey0.all (· = 0) then sliceD 0 x 0 64 else o.ctlKey0 }
  let o := slot (slot (slot o 1) 2) 3
  { o with debugPerm := o.debugPerm || decide (beAt x 256 8 % 2 = 1), provisioned := true }

/-- PROVISION (R416): K comes from the ECDH of the body's ephemeral key and the identity key. -/
def cmdProvision : State → State :=
  withCmd 0x1F0 fun r s =>
    let fail (st : Nat) : State := { s with dev := reply s.dev r st [] }
    if r.body.length ≠ 0x1A0 then fail 5
    else match ecPoint (sliceD 0 r.body 0 136) with
      | none => fail 6
      | some p => match ecMul (Config.identityKey s.otp.idSeed) p with
        | none => fail 6
        | some z =>
          let k := (sha512 (beBytes 4 1 ++ beBytes 66 z.1 ++ beBytes 16 s.otp.deviceId)).take 32
          match gcmOpen k (List.replicate 12 0) [] (sliceD 0 r.body 136 264) (sliceD 0 r.body 0x190 16) with
          | none => fail 6
          | some x =>
            let o := provisionOtp s.otp x
            { s with otp := o, dev := reply (seSync o (setCtlKey s.dev 0 (some ⟨o.ctlKey0, 0xFFFF⟩))) r 0 [] }

/-! ### Vports, isolation, debug, gang, migration (R387, R384, R412 to R414, R463) -/

/-- Every queue that a lowered count removes is OFF (R387). -/
def removedOff (d : Dev) (p kind n : Nat) : Bool :=
  let r := kindRange d p kind
  (List.range r.2).all fun i => decide (i < n) || decide ((queueOf d kind (r.1 + i)).st = .off)

/-- VPORT_CREATE (R387, R412). -/
def cmdVportCreate : State → State :=
  devCmd 0x104 (sized 24 fun r d =>
    let n (o k : Nat) : Nat := beAt r.body o k
    let p := 256 * n 0 1 + n 1 1
    let dom := n 2 1
    let full := decide (n 3 1 = 1)
    let (sq, rq, cq) := ((n 8 2, n 10 2), (n 12 2, n 14 2), (n 16 2, n 18 2))
    let v := vportOf d p
    let w := cur d .vpCfg p 0
    let c : Word := BitVec.ofNat 32 (dom * 2 ^ 24 + cq.2 * 2 ^ 17 + cq.1 * 8 + b2n full)
    let g : DWord := BitVec.ofNat 64 (rq.2 * 2 ^ 40 + rq.1 * 2 ^ 24 + sq.2 * 2 ^ 16 + sq.1)
    let fits := countsFit full sq rq cq && rangeFree d p 0 sq.1 sq.2 && rangeFree d p 1 rq.1 rq.2 && rangeFree d p 2 cq.1 cq.2
    let same (kind : Nat) (x : Nat × Nat) : Bool := decide ((kindRange d p kind).2 = 0) || decide (x.2 = 0) || decide ((kindRange d p kind).1 = x.1)
    if 8 ≤ n 0 1 ∨ 1 < n 3 1 ∨ n 5 3 ≠ 0 ∨ n 20 4 ≠ 0 then reply d r 5 []
    else if v.cmds.any (fun x => match x with | .create _ _ _ => true | .destroy => true | _ => false) then reply d r 4 []
    else if v.st = .off then (if fits then reply (vpCmd p (.create c g (n 4 1)) d) r 0 [] else reply d r 5 [])
    else if v.st = .active && decide (fld w 24 8 = dom) && decide (bit w 0 = full) then
      if !fits || !same 0 sq || !same 1 rq || !same 2 cq then reply d r 5 []
      else if !removedOff d p 0 sq.2 || !removedOff d p 1 rq.2 || !removedOff d p 2 cq.2 then reply d r 4 []
      else reply (vpCmd p (.create c g (n 4 1)) d) r 0 []
    else reply d r 4 [])

/-- VPORT_DESTROY (R412). -/
def cmdVportDestroy : State → State :=
  devCmd 0x105 (sized 8 fun r d =>
    let h := beAt r.body 0 4
    let v := beAt r.body 4 4
    if 8 ≤ h ∨ 256 ≤ v then reply d r 5 []
    else if (vportOf d (256 * h + v)).st = .off then reply d r 0 []
    else reply (vpCmd (256 * h + v) .destroy d) r 0 [])

/-- ISOLATION (R384, R413): STRICT changes at the next boundary, after which the reply goes out. -/
def cmdIsolation : State → State :=
  devCmd 0x106 (sized 8 fun r d => { d with ct := { d.ct with strictDue := some (decide (beAt r.body 0 8 % 2 = 1)) } })

/-- The reply to ISOLATION after its boundary (R413). -/
def isolationReply (d : Dev) : Dev :=
  match d.ct.busy with
  | some r => if r.opcode = 0x106 then reply d r 0 (beBytes 4 (cur d .ctIsoCfg 0 0).toNat ++ beBytes 4 0) else d
  | none => d

/-- STRICT at a boundary, with the reply. -/
def isolationBoundary (d : Dev) : Dev := if d.ct.strictDue.isSome then isolationReply (strictBoundary d) else d

/-- DEBUG_ENABLE (R414). -/
def cmdDebugEnable : State → State :=
  withCmd 0x107 fun r s =>
    let d := s.dev
    let en := decide (beAt r.body 0 8 % 2 = 1)
    if r.body.length ≠ 8 then { s with dev := reply d r 5 [] }
    else if en && s.otp.debugPerm then { s with dev := reply d r 3 [] }
    else { s with dev := reply { d with ct := { d.ct with debugDue := some en, debugSeen := d.ct.debugSeen || en } } r 0 [] }

/-- DEBUG_EN is cleared at a boundary, before its other work (R414). -/
def debugEnd (d : Dev) : Dev :=
  let d := (d.rl.threads.map (·.1)).foldl (fun d k => if (thrOf d k).dbg.halted then resumeThread d k else d) d
  let d := (List.range 33).foldl (fun d r =>
    let d := (List.range 8).foldl (fun d n => setBoth d .rlBrk r n 0) d
    (List.range 64).foldl (fun d n => setBoth d .rlDbgCtl r n (setBit (cur d .rlDbgCtl r n) 3 false)) d) d
  let d := { d with rl := { d.rl with capture := [], capFree := false } }
  (List.range 4096).foldl (fun d c =>
    if bit (cur d .drChanCfg1 c 0) 16 then setBoth d .drChanCfg1 c 0 (setBit (cur d .drChanCfg1 c 0) 16 false) else d) d

/-- DEBUG_EN at a boundary (R414). -/
def debugBoundary (d : Dev) : Dev :=
  match d.ct.debugDue with
  | none => d
  | some en =>
    let d := { d with ct := { d.ct with debugDue := none, debugEn := en } }
    if en then d else debugEnd d

/-- A write of a GG register from GANG_CFG (R463): a change of DEV_ID takes every gang link to INIT. -/
def ggWrite (d : Dev) (off : Nat) (v : Word) : Dev :=
  match locate (0x1FC0000 + off) with
  | none => d
  | some l =>
    if 0x40000 ≤ off then d
    else
      let old := fld (cur d .ggCfg 0 0) 0 12
      let d := plainWrite l v d
      if fld (cur d .ggCfg 0 0) 0 12 = old then d else gangReinit d

/-- GANG_CFG (R463). -/
def cmdGangCfg : State → State :=
  devCmd 0x108 fun r d =>
    let n := r.body.length / 8
    if r.body.length % 8 ≠ 0 ∨ n = 0 ∨ 255 < n then reply d r 5 []
    else
      let d := (cutBytes 8 n r.body).foldl (fun d p => ggWrite d (beAt p 0 4) (BitVec.ofNat 32 (beAt p 4 4))) d
      reply d r 0 (beBytes 4 n ++ beBytes 4 0)

/-- MIG_SESSION (R392, R413): the four registers are written in order and the operation starts. -/
def cmdMigSession : State → State :=
  devCmd 0x10A (sized 32 fun r d =>
    let w : Word := BitVec.ofNat 32 (beAt r.body 24 8)
    let op := fld w 0 3
    if bit (cur d .seMigCmd 0 0) 31 then reply d r 4 []
    else if op = 0 ∨ 4 < op then reply d r 5 []
    else if d.ct.trngFail ∧ op < 3 then reply d r 8 []
    else
      let q (o : Nat) : DWord := BitVec.ofNat 64 (beAt r.body o 8)
      let d := setBoth64 (setBoth64 (setBoth64 d .seMigAddr 0 0 (q 0)) .seMigAddr 1 0 (q 8)) .seMigArg 0 0 (q 16)
      let d := { d with ct := { d.ct with migGo := true } }
      setCur d .seMigCmd 0 0 (setBit (w &&& 0x07FF00F7) 31 true))

/-- The reply to a MIG_SESSION whose operation has started: OK once SE_MIG_CMD is no longer BUSY; STATE for a RESTORE that runs at
10 ms (R413). -/
def migReply (d : Dev) : Dev :=
  match d.ct.busy with
  | none => d
  | some r =>
    let isOver := !bit (cur d .seMigCmd 0 0) 31
    if r.opcode ≠ 0x10A || !d.ct.migGo then d
    else if isOver || decide (r.at_ + 312500 ≤ d.tick) then
      reply { d with ct := { d.ct with migGo := false } } r (if isOver then 0 else 4) []
    else d

/-- An operation of SE_MIG_CMD that is BUSY, by its OP (R392). -/
def migRun (op : Nat) (f : List Byte → Nat → Dev → Dev) (s : State) : State :=
  let w := cur s.dev .seMigCmd 0 0
  if s.board.held || !bit w 31 || decide (fld w 0 3 ≠ op) || s.dev.ct.restore.isSome then s
  else { s with dev := migReply (f s.otp.idSeed (fld w 4 4) s.dev) }

/-! ### Entropy, notices -/

/-- TRNG_HEALTH_FAIL (R417). -/
def trngFails (d : Dev) : Dev := if d.ct.trngFail then d else raise { d with ct := { d.ct with trngFail := true } } 20

/-- EVENT_NOTICE (R472). -/
def eventNotice (d : Dev) : Dev :=
  let w := cfg d .ftNoticeCfg 0 0
  let mask := (cfg d .ftNoticeMask 0 0).toNat
  let open_ (v : Nat) : Nat := (BitVec.ofNat 26 v &&& ~~~(BitVec.ofNat 26 mask)).toNat
  let gap := max 1 (fld w 0 16)
  let waited := match d.ft.lastNotice with
    | none => true
    | some t => decide (t + gap ≤ d.tick)
  if !bit w 31 || decide (open_ d.ft.fresh = 0) || !waited then d
  else
    let n := (d.ft.noticeSeq + 1) % 2 ^ 32
    let key := fld w 24 2
    let hdr := beBytes 1 1 ++ beBytes 1 1 ++ beBytes 2 0x30 ++ beBytes 4 n ++ beBytes 1 key ++ beBytes 1 0 ++ beBytes 2 16 ++ beBytes 4 0
      ++ beBytes 4 d.ct.bootId ++ beBytes 4 n
    let body := beBytes 4 (open_ (cur d .ftEvtPend 0 0).toNat) ++ beBytes 4 0 ++ beBytes 8 d.tick
    let d := sendCmd d 24 (beBytes 6 (cfg64 d .ftNoticeMac 0 0).toNat) hdr body key
    { d with ft := { d.ft with fresh := 0, lastNotice := some d.tick, noticeSeq := n } }

end Sys2Proof.Machine
end

