-- ==== Sys2Proof/Machine/Tick.lean ====
section
/-! DEFINITION. TICK_BOUNDARY (R10): everything that a tick boundary makes due, in order. -/

namespace Sys2Proof.Machine

/-- The threads that State lists. -/
def allThreads (d : Dev) : List Nat := mkeys d.rl.threads

/-- Do something for each of a list. -/
def forAll (l : List Nat) (f : Nat → Dev → Dev) (d : Dev) : Dev := l.foldl (fun d k => f k d) d

/-! ### Configuration (R9, R12, R177, R384, R526, R527) -/

/-- The tick counter increments (R12). -/
def tickUp (d : Dev) : Dev := { d with tick := d.tick + 1 }

/-- Commits written in the tick that ends (R527); an SC commit also takes the staged meters, a meter WRITE of that tick among them
(R255). -/
def commits (d : Dev) : Dev :=
  let bs := d.sw.commits
  let d := bs.foldl commitOne { d with sw := { d.sw with commits := [] } }
  peCommit (if Blk.sc ∈ bs then mtrCommit d else d)

/-- Event bindings that take effect clear their line's pending bit (R153). -/
def rebindLines (d : Dev) : Dev :=
  let ls := d.dr.rebind
  ls.foldl (fun d x => dropPend d (x / 64) (x % 64)) { d with dr := { d.dr with rebind := [] } }

/-- What was written in the tick that ends takes effect. -/
def tickConfig (d : Dev) : Dev :=
  let d := rungBoundary d
  let d := rebindLines (takeEffect (fun _ => true) (bankSyncLimit (commits d)))
  isolationBoundary (forAll (List.range 4) (fun x d => npBoundary d x) d)

/-! ### Reels, vports, resets -/

/-- A reel's change at the boundary; firmware mailbox receivers of a reel that stops reset (R66, R67, R429). -/
def reelTurn (r : Nat) (d : Dev) : Dev :=
  let x := (reelOf d r).pend
  let d := retireDrained r d
  let d2 := applyReelPend d r
  let stopped := decide (x = .reset) || decide (x = .fail) || decide (x = .failReset) || ((reelOf d2 r).st = .retired && !((reelOf d r).st = .retired))
  if stopped then reelMailReset d2 r else d2

/-- Reels, security associations, vport commands and domain resets. -/
def tickReels (d : Dev) : Dev :=
  let d := saBoundary (saPerform d)
  let d := forAll (List.range 33) reelTurn d
  let d := forAll (mkeys d.hp.vports) (fun p d => vportCmds d p) d
  domainResetEnd (domainResets d)

/-! ### The switch and its clients -/

/-- Oldest of the HOST copies of a VOQ that follow a copy. -/
def nextInVoq (d : Dev) (id : Nat) (c : Copy) : Option Copy :=
  ((allCopies d).find? fun e => id < e.1 && decide (e.2.input = c.input) && decide (e.2.dest = c.dest) && decide (e.2.cls = c.cls)
    && decide (e.2.crossed < copyCells d e.2)).map (·.2)

/-- Whether a copy is the head of its VOQ. -/
def voqHead (d : Dev) (id : Nat) (c : Copy) : Bool :=
  !(allCopies d).any fun e => e.1 < id && decide (e.2.input = c.input) && decide (e.2.dest = c.dest) && decide (e.2.cls = c.cls)
    && decide (e.2.crossed < copyCells d e.2)

/-- STRICT_HOLD_DROP (R385): while STRICT is 1, a held HOST copy before a copy of another domain, or a multicast copy, is dropped. -/
def strictDrop (d : Dev) : Dev :=
  if !bit (cur d .ctIsoCfg 0 0) 31 then d
  else (allCopies d).foldl (fun d e =>
    match e.2.kind, hostHold d e.2 with
    | .host v _, .held =>
      let p := 256 * (e.2.dest - 16) + v
      let other := match nextInVoq d e.1 e.2 with
        | none => false
        | some n => match n.kind with
          | .host w _ => decide (vpDomain d (256 * (n.dest - 16) + w) ≠ vpDomain d p)
          | _ => true
      if e.2.crossed = 0 && voqHead d e.1 e.2 && other then hostDrop d e.1 e.2 (decide ((vportOf d p).st = .frozen)) else d
    | _, _ => d) d

/-- FILL_WAIT in ticks (Table 12-10). -/
def fillWait (d : Dev) : Nat := orIf0 (cfgF d .ciCacheCfg 0 0 0 16) 1

/-- Whether a wait that began at `t` has lasted FILL_WAIT ticks (R350). -/
def fillLate (d : Dev) (t : Option Nat) : Bool := match t with
  | some t => decide (t + fillWait d ≤ d.tick)
  | none => false

/-- A frame at ingress that has waited FILL_WAIT ticks for its association is dropped with KEY_MISS (R350). -/
def keyMissIn (d : Dev) (id : Nat) : Dev :=
  match holdOf d id with
  | none => d
  | some h =>
    if !fillLate d h.since then d
    else match frameOf d id with
      | some f => holdDrop d id (f.input / 4) 3
      | none => putHold d id none

/-- A copy at egress that has waited FILL_WAIT ticks for an association is dropped with KEY_MISS (R350). -/
def keyMissOut (d : Dev) (id : Nat) : Dev :=
  if !fillLate d (mget d.ci.waits id none) then d
  else
    let d := { d with ci := { d.ci with waits := mput d.ci.waits id none none } }
    match copyOf d id with
    | some c => dropCopy (ciCount d (outCluster c.dest) 3) id c
    | none => d

/-- The frames and copies whose wait for an association has run out at this boundary (R350). -/
def keyMisses (d : Dev) : Dev :=
  (d.ci.waits.map (·.1)).foldl keyMissOut ((d.ci.holds.map (·.1)).foldl keyMissIn d)

/-- What the editor passed to a recirculation port or a host port leaves on a tick boundary: a recirculated frame enters again at it, so a
pass has no phase wait (R26). -/
def reenter (d : Dev) : Dev :=
  (allCopies d).foldl (fun d e => if 16 ≤ e.2.dest ∧ e.2.dest ≠ 24 ∧ e.2.out.isSome then egressTxStart e.2.dest d else d) d

/-- Recirculated frames, tables, locks, channels, the parse graph and dispatch, then the verdicts that are released (R44, R49, R137, R162,
R187, R227). `d0` is the device as the tick began, which lookups see (R110). -/
def tickPackets (ops : List Posted) (d0 d : Dev) : Dev :=
  let d := restorePlace (tableBoundary ops d0 (reenter d))
  let d := chanBoundary ops (lockBoundary d.tick ops d)
  let r := parseDeliver d
  let d := parseTake (dispatch r.2 r.1)
  let d := gangTransit (releaseAllVerdicts d)
  mtrFillAll (mcPerform d)

/-- Threads that issued STAGE begin their next stage or interval (R102, R106). -/
def tickThreads (d : Dev) : Dev := forAll (allThreads d) (fun k d => stageBoundary d k) d

/-- Waiting threads take an event or time out (R130, R131). -/
def wakeAll (d : Dev) : Dev :=
  forAll (allThreads d) (fun k d => if awake d (k / 64) then waitExpire k (waitWake d k) else d) d

/-- The doldrums detector: every group is tested before it acts for any (DESIGN CHOICE, log entry 315); what it raises takes effect at
the same boundary (R159, R160, R469). -/
def tickDoldrums (d : Dev) : Dev :=
  let d := forAll (List.range 256) (fun g d => doldrumsTest d g) d
  let d := forAll (List.range 256) doldrumsAct d
  if d.ft.raising.isEmpty then d else raiseBoundary d

/-- The threads in WAIT that become ready at this boundary as the lines stand (R130, R131). -/
def wakers (d : Dev) : List Nat :=
  (allThreads d).filter fun k => awake d (k / 64) && (match (thrOf d k).run with
    | .waiting mask dl => wakesNow d k mask dl
    | _ => false)

/-- Which waiting threads are ready from this boundary on, once entries are handed out and the doldrums detector has acted (R155): a thread
that an entry or a raise wakes may itself take an entry. The search goes on from `ws` until it finds no other threads. -/
def readyFrom : Nat → Dev → List Nat → List Nat
  | 0, _, ws => ws
  | n + 1, d, ws =>
    let ws' := wakers (tickDoldrums (eventHandoff ws d))
    if ws' = ws then ws else readyFrom n d ws'

/-- Raises make lines pending, punt and waft entries are handed out, the doldrums detector acts, and then threads wake: all that makes
a line pending at this boundary comes before, so that a pending line is taken before a timeout (R130, R131, R155, R159, R469). Who is
ready decides who takes an entry, and an entry decides who is ready: the hand-out is that of the readiness it leads to (DESIGN CHOICE
where the search does not settle, log entry 285). -/
def tickEvents (d : Dev) : Dev :=
  let d := raiseBoundary d
  let ws := if noEntries d then [] else readyFrom 16 d (wakers d)
  wakeAll (tickDoldrums (eventHandoff ws d))

/-! ### Hosts -/

/-- BL_TAGS at a boundary (Table 10-15). -/
def tagsShown (h : Nat) (d : Dev) : Dev :=
  let n := ((linkOf d h).reqs.filter fun r => r.tag.isSome).length
  let w := cur d .blTags h 0
  setCur d .blTags h 0 (setFld (setFld w 0 14 n) 16 14 (max (fld w 16 14) n))

/-- What a vport's queues have due: completion rings that stall or signal, device indices (R325, R326, R329). -/
def queuesDue (p : Nat) (d : Dev) : Dev :=
  (vportQueues d p).foldl (fun d kq =>
    let d := if kq.1 = 2 then cqArmed (cqStall kq.2 d) kq.2 else d
    idxWrite d kq.1 kq.2) d

/-- Links at a boundary, those of host ports and gang ports (R281, R282, R285 to R287, R293). -/
def linksDue (d : Dev) : Dev :=
  forAll (List.range 24) (fun h d =>
    if (linkOf d h).st = .down ∧ !linkEn d h ∧ (linkOf d h).reqs.isEmpty then endpointLost h (linkSample d h)
    else
      let d := initSend h (enterActive h (linkSample d h))
      cplTimeouts h (endpointLost h (replayTimeout h (ackTick d h)))) d

/-- Mailboxes after all that may reset one at the boundary, then every doorbell bit that the boundary has set (R431, R432, R434, R435). -/
def tickMail (d : Dev) : Dev :=
  let d := mailResets d
  dbbBoundary (forAll (mkeys d.hp.vports) (fun p d => crossBoundary d p) d)

/-- Host ports: accesses and doorbells, fetching, the block service, scheduling, rings, bobbins, links, mailboxes. -/
def tickHosts (d : Dev) : Dev :=
  let d := fetchBoundary (blockBoundary (fetchAll (mailBoundary d)))
  let d := forAll (mkeys d.hp.vports) queuesDue d
  let d := forAll (mkeys d.hp.bobbins) (fun b d => bobSample d b) d
  let d := linksDue (qctxPerform d)
  let d := tickMail (forAll (mkeys d.hp.vports) (fun p d => orphanExpire p (vportDrained p (reattachDone p (resetDone p d)))) d)
  forAll (List.range 8) tagsShown (saveBoundary (migReply (restoreDone d)))

/-! ### Power, time, status, the end of the boundary -/

/-- Power, margins (R439 to R445, R483). -/
def tickPower (d : Dev) : Dev :=
  let d := lowerBoundary (powerBoundary d)
  setCur d .pwGustStatus 0 0 (setFld (cur d .pwGustStatus 0 0) 0 7 d.pw.fifo.length)

/-- FREE of TK_CAP_CTL (R531): the oldest capture entry goes. -/
def captureFree (d : Dev) : Dev :=
  if d.rl.capFree then { d with rl := { d.rl with capture := d.rl.capture.drop 1, capFree := false } } else d

/-- HIGH_WATER of a dispatch queue since its last read: at least what waits after the boundary (Table 2-6). -/
def dqShown (i : Nat) (d : Dev) : Dev :=
  let w := cur d .tkDqStatus i 0
  setCur d .tkDqStatus i 0 (setFld w 8 7 (max (fld w 8 7) (dqOf d i).length))

/-- BS_DOM_CTX_USE (Table 13-12): the contexts that each domain holds at the boundary. -/
def ctxShown (d : Dev) : Dev :=
  forAll (List.range 256) (fun n d => if fld (cur d .bsDomCtxUse n 0) 0 16 = domCtx d n then d
    else setCur d .bsDomCtxUse n 0 (BitVec.ofNat 32 (domCtx d n))) d

/-- What registers show of the boundary. -/
def tickShown (d : Dev) : Dev := forAll (List.range 30) dqShown (captureFree (ctxShown (swStatus (cacheUse (poolStatus d)))))

/-- Frames that wait: fills served, key misses, held copies, flaps, samples (R246, R264, R349, R350, R385). -/
def tickWaits (d : Dev) : Dev :=
  let d := keyMisses (serveFill (serveFill d))
  sampleVisit (strictDrop (forAll (List.range 25) flapExpire d))

/-- A held STEP, and the tick's record of halts (R62, R150). -/
def tickSteps (d : Dev) : Dev := forAll (allThreads d) (fun k d => haltSeen (heldStep d k) k) d

/-- The end of a boundary: the service order moves on, a notice goes out, and the next tick begins with the tables and memories as they
stand (R110, R472). -/
def tickEnd (d : Dev) : Dev := keepStart (eventNotice (keepEditable { d with dr := { d.dr with svc := (d.dr.svc + 1) % 2112 } }))

/-- TICK_BOUNDARY (R10). A meter command is performed before the MTR operations of the tick that ends, so a READ shows the buckets
as the last boundary left them (R255); overruns and skipped cycles belong to the tick that ends (R35, R57). -/
def tickBoundary (d0 : Dev) : Dev :=
  let units := tickUnits d0
  let ops := inService d0 d0.rl.posted
  let d := draftBoundary ops (mtrPerform (cyclesEnd (skipsEnd { d0 with rl := { d0.rl with posted := [] } })))
  let d := forAll (allThreads d) overrun d
  let d := tickConfig (debugBoundary (tickUp d))
  let d := tickPackets ops (atStart d0) (tickReels d)
  let d := tickThreads d
  let d := tickPower (tickHosts d)
  let d := tickShown (tickWaits d)
  let d := tickEvents (switchStep (timeBoundary units d))
  let d := tickEnd (tickSteps d)
  { d with tick := d0.tick + 1 }

end Sys2Proof.Machine
end

