-- ==== Sys2Proof/Machine/ExecBlock.lean ====
section
/-! DEFINITION. The meanings of the commands and events of the block service (chapter 13). The command context is `x`, the connection `c`. -/

namespace Sys2Proof.Machine

/-- BS_CMD with OP, TABLE and INDEX (Table 13-19). -/
def bsCmdWord (op : Nat) (table : BitVec 2) (i : BitVec 16) : Word := BitVec.ofNat 32 (op * 2 ^ 24 + table.toNat * 2 ^ 22 + i.toNat)

/-- NVME_CMD_FETCH (R359). -/
def execNvmeCmdFetch (x : Fin 32768) (s : State) : Res := onDev (nvmeDispatch x) s

/-- NVME_FLUSH (R359). -/
def execNvmeFlush (x : Fin 32768) (s : State) : Res := onDev (Sys2Proof.Machine.nvmeFlush x) s

/-- NVME_WRITE (R376). -/
def execNvmeWrite (x : Fin 32768) (s : State) : Res := onDev (Sys2Proof.Machine.nvmeWrite x) s

/-- NVME_READ (R375). -/
def execNvmeRead (x : Fin 32768) (s : State) : Res := onDev (Sys2Proof.Machine.nvmeRead x) s

/-- NVME_WRITE_ZEROES (R359). -/
def execNvmeWriteZeroes (x : Fin 32768) (s : State) : Res := onDev (nvmeZeroes x) s

/-- NVME_DATASET_MANAGEMENT (R359). -/
def execNvmeDatasetManagement (x : Fin 32768) (s : State) : Res := onDev (nvmeDataset x) s

/-- CQE_WRITE (R361). -/
def execCqeWrite (x : Fin 32768) (s : State) : Res := onDev (Sys2Proof.Machine.cqeWrite x) s

/-- TCP_SEGMENT_RECEIVE (R365): the oldest BLOCK segment of the connection. -/
def execTcpSegmentReceive (c : BitVec 16) (s : State) : Res := onDev (segReceive c.toNat) s

/-- TCP_RETRANSMIT_TIMEOUT (R366). -/
def execTcpRetransmitTimeout (c : BitVec 16) (s : State) : Res := onDev (retransmit c.toNat) s

/-- IO_TIMEOUT (R378). -/
def execIoTimeout (c : BitVec 16) (s : State) : Res := onDev (ioExpire c.toNat) s

/-- BS_READ (R362): OP 1. -/
def execBsRead (table : BitVec 2) (i : BitVec 16) (s : State) : Res := onDev (fwWrite .bsCmd 0 0 (bsCmdWord 1 table i)) s

/-- BS_WRITE (R363): OP 2, the entry in BS_DATA. -/
def execBsWrite (table : BitVec 2) (i : BitVec 16) (s : State) : Res := onDev (fwWrite .bsCmd 0 0 (bsCmdWord 2 table i)) s

/-- CONN_OPEN (R368): OP 3. -/
def execConnOpen (c : BitVec 16) (s : State) : Res := onDev (fwWrite .bsCmd 0 0 (bsCmdWord 3 2 c)) s

/-- CONN_CLOSE (R368): OP 4. -/
def execConnClose (c : BitVec 16) (s : State) : Res := onDev (fwWrite .bsCmd 0 0 (bsCmdWord 4 2 c)) s

/-- CONN_RESET (R368): OP 5. -/
def execConnReset (c : BitVec 16) (s : State) : Res := onDev (fwWrite .bsCmd 0 0 (bsCmdWord 5 2 c)) s

/-- ADMIN_TX_POST (R371). -/
def execAdminTxPost (v : Word) (s : State) : Res := onDev (fwWrite .bsAdmTxProd 0 0 v) s

/-- BS_LOCKED_READ (R377). -/
def execBsLockedRead (p : Path) (s : State) : Res := onDev (readNamed p .bsLocked 0 0) s

end Sys2Proof.Machine
end

