-- ==== Sys2Proof/Machine/ExecCipher.lean ====
section
/-! DEFINITION. The meanings of the commands and events of the cipher clusters (chapter 12). -/

namespace Sys2Proof.Machine

/-- CI_SA_CMD with OP and SA (Table 12-15). -/
def saCmdWord (op : Nat) (sa : BitVec 20) : Word := BitVec.ofNat 32 (op * 2 ^ 23 + sa.toNat)

/-- INGRESS_DECRYPT (R353). -/
def execIngressDecrypt (f : Nat) (s : State) : Res := onDev (Sys2Proof.Machine.ingressDecrypt f) s

/-- INGRESS_TAG_VERIFY (R353). -/
def execIngressTagVerify (f : Nat) (s : State) : Res := onDev (ingressVerify f) s

/-- EGRESS_PROTECT (R355). -/
def execEgressProtect (c : Nat) (s : State) : Res := onDev (Sys2Proof.Machine.egressProtect c 0) s

/-- LEASE_WRITE_DONE (R346). -/
def execLeaseWriteDone (sa : BitVec 20) (s : State) : Res := onDev (leaseDone sa.toNat) s

/-- KEY_FILL_DONE (R349): the key is unwrapped with the key derived from the device secret. -/
def execKeyFillDone (sa : BitVec 20) (s : State) : Res :=
  .next (if s.board.held then s else { s with dev := keyFill (Config.deviceKey s.otp.devSeed) sa.toNat s.dev })

/-- KEY_MISS_TIMEOUT (R350) of a frame at ingress or a copy at egress. -/
def execKeyMissTimeout (egress : Bool) (id : Nat) (s : State) : Res :=
  onDev (fun d => if egress then keyMissOut d id else keyMissIn d id) s

/-- SA_READ (R341): OP 1. -/
def execSaRead (sa : BitVec 20) (s : State) : Res := onDev (fwWrite .ciSaCmd 0 0 (saCmdWord 1 sa)) s

/-- SA_DISABLE (R342): OP 2. -/
def execSaDisable (sa : BitVec 20) (s : State) : Res := onDev (fwWrite .ciSaCmd 0 0 (saCmdWord 2 sa)) s

/-- SA_SET_SOFT (R343): OP 3, the limit in CI_SA_DATA. -/
def execSaSetSoft (sa : BitVec 20) (s : State) : Res := onDev (fwWrite .ciSaCmd 0 0 (saCmdWord 3 sa)) s

/-- SA_EVICT (R349): OP 4. -/
def execSaEvict (sa : BitVec 20) (s : State) : Res := onDev (fwWrite .ciSaCmd 0 0 (saCmdWord 4 sa)) s

/-- CI_REKEY_Q_READ (R347). -/
def execCiRekeyQRead (p : Path) (s : State) : Res := onDev (readNamed p .ciRekeyQ 0 0) s

end Sys2Proof.Machine
end

