-- ==== Sys2Proof/Machine/ExecControl.lean ====
section
/-! DEFINITION. The meanings of the commands of the control path and of its events (chapters 15 and 19). A row with the name of an opcode performs
the command of that opcode that CMD_TAKE has taken. -/

namespace Sys2Proof.Machine

/-- A word of a register written by a checked REG_WRITE of one register (R408, R424). -/
def checkedWrite (r : Reg) (high : Bool) (counter : BitVec 64) (v : Word) (d : Dev) : Dev :=
  let a := addr r 0 0 + (if high then 4 else 0)
  writeLoc (WSrc.lone .ctl true counter.toNat a v) ⟨r, 0, 0, high⟩ a v d

/-- CMD_FRAME_RECEIVE (R401). -/
def execCmdFrameReceive (p : Fin 25) (bytes : List Byte) (s : State) : Res :=
  onDev (fun d => if isCommand d p bytes then cmdReceive p bytes d else d) s

/-- CMD_TAKE (R405). -/
def execCmdTake (s : State) : Res := .next (Sys2Proof.Machine.cmdTake s)

/-- STATUS (R407). -/
def execStatus (s : State) : Res := .next (cmdStatus s)

/-- REG_READ (R408). -/
def execRegRead (s : State) : Res := .next (cmdRegRead s)

/-- REG_WRITE (R408). -/
def execRegWrite (s : State) : Res := .next (cmdRegisterWrite s)

/-- ATTEST (R425). -/
def execAttest (s : State) : Res := .next (cmdAttest s)

/-- IDENTITY_GET (R418). -/
def execIdentityGet (s : State) : Res := .next (cmdIdentity s)

/-- IMG_STAGE (R421). -/
def execImgStage (s : State) : Res := .next (cmdImgStage s)

/-- IMG_ACTIVATE (R421). -/
def execImgActivate (s : State) : Res := .next (cmdImgActivate s)

/-- IMG_FLASH_WRITE_DONE (R500). -/
def execImgFlashWriteDone (s : State) : Res := .next (flashWritten s)

/-- KEY_INSTALL (R410). -/
def execKeyInstall (s : State) : Res := .next (cmdKeyInstall s)

/-- CTLKEY_SET (R411). -/
def execCtlkeySet (s : State) : Res := .next (cmdCtlkeySet s)

/-- VPORT_CREATE (R412). -/
def execVportCreate (s : State) : Res := .next (cmdVportCreate s)

/-- VPORT_DESTROY (R412). -/
def execVportDestroy (s : State) : Res := .next (cmdVportDestroy s)

/-- ISOLATION (R384). -/
def execIsolation (s : State) : Res := .next (cmdIsolation s)

/-- DEBUG_ENABLE (R414). -/
def execDebugEnable (s : State) : Res := .next (cmdDebugEnable s)

/-- GANG_CFG (R463). -/
def execGangCfg (s : State) : Res := .next (cmdGangCfg s)

/-- ROLLBACK_ADVANCE (R423). -/
def execRollbackAdvance (s : State) : Res := .next (cmdRollback s)

/-- ROLLBACK_FUSES_DONE (R423). -/
def execRollbackFusesDone (s : State) : Res := .next (fusesDone s)

/-- MIG_SESSION (R413). -/
def execMigSession (s : State) : Res := .next (cmdMigSession s)

/-- PROVISION (R416). -/
def execProvision (s : State) : Res := .next (cmdProvision s)

/-- CT_CMD_CFG_WRITE (R424, R525): the low or the high word, in a checked command of that counter. -/
def execCtCmdCfgWrite (counter : BitVec 64) (high : Bool) (v : Word) (s : State) : Res := onDev (checkedWrite .ctCmdCfg high counter v) s

/-- CT_LOCK_WRITE (R528), in a checked command of that counter. -/
def execCtLockWrite (counter : BitVec 64) (v : Word) (s : State) : Res := onDev (checkedWrite .ctLock false counter v) s

/-- TRNG_HEALTH_FAIL (R417). -/
def execTrngHealthFail (s : State) : Res := onDev trngFails s

/-- EVENT_NOTICE (R472). -/
def execEventNotice (s : State) : Res := onDev Sys2Proof.Machine.eventNotice s

end Sys2Proof.Machine
end

