-- ==== Sys2Proof/Machine/ExecFault.lean ====
section
/-! DEFINITION. The meanings of the commands and events of the fault tree, the memories and the margins (chapter 18). -/

namespace Sys2Proof.Machine

/-- THERMTRIP_N is driven low and TRIP of MG_TEMP shows it (R513). -/
def thermTrip (s : State) : State :=
  { s with board := { s.board with thermtrip := true }, dev := setCur s.dev .mgTemp 0 0 (setBit (cur s.dev .mgTemp 0 0) 31 true) }

/-- FT_LOG_READ (R471): FT_LOG[0] is read. -/
def execFtLogRead (p : Path) (s : State) : Res := onDev (readNamed p .ftLog 0 0) s

/-- FT_CNT_CFG_WRITE (R468): both words are written. -/
def execFtCntCfgWrite (v : BitVec 64) (s : State) : Res := onDev (fwWrite64 .ftCntCfg 0 0 v) s

/-- CNT_AREA_INIT_DONE (R468). -/
def execCntAreaInitDone (s : State) : Res := onDev cntInitDone s

/-- FT_CNT_RD_READ (R468): FT_CNT_RD[0] is read. -/
def execFtCntRdRead (p : Path) (s : State) : Res := onDev (readNamed p .ftCntRd 0 0) s

/-- MEM_CORRECTABLE (R473, R474). -/
def execMemCorrectable (m : MemAt) (s : State) : Res := onDev (Sys2Proof.Machine.memCorrectable m) s

/-- MEM_UNCORRECTABLE (R473, R474). -/
def execMemUncorrectable (m : MemAt) (s : State) : Res := onDev (Sys2Proof.Machine.memUncorrectable m) s

/-- HBM_CHANNEL_FAIL (R475). -/
def execHbmChannelFail (ch : Fin 32) (s : State) : Res := onDev (channelFail ch) s

/-- HBM_SPARE_DONE (R475). -/
def execHbmSpareDone (s : State) : Res := onDev spareDone s

/-- MARGIN_MEASURE (R481). -/
def execMarginMeasure (m : Measure) (s : State) : Res := onDev (Sys2Proof.Machine.marginMeasure m) s

/-- MARGIN_SETTLE_EXPIRY (R482). -/
def execMarginSettleExpiry (m : Measure) (s : State) : Res := onDev (marginSettle m) s

/-- THERMTRIP (R513). -/
def execThermtrip (s : State) : Res := .next (if s.board.held then s else thermTrip s)

end Sys2Proof.Machine
end

