-- ==== Sys2Proof/Machine/ExecHost.lean ====
section
/-! DEFINITION. The meanings of the commands and events of vports, rings, bobbins, freezing and migration (chapters 11 and 14). -/

namespace Sys2Proof.Machine

/-- An operation on the whole machine that does nothing while the device is held in reset (R485, R489). -/
def liveState (f : State → State) (s : State) : State := if s.board.held then s else f s

/-- A queue-context command (R328): BB_QCMD names the kind and the queue, then OP is written to BB_QOP. -/
def qctxWriteOp (op : Nat) (kind : BitVec 2) (q : BitVec 15) (d : Dev) : Dev :=
  fwWrite .bbQop 0 0 (BitVec.ofNat 32 op) (fwWrite .bbQcmd 0 0 (BitVec.ofNat 32 (q.toNat + kind.toNat * 2 ^ 20)) d)

/-- BB_CTL with CMD, its other fields as they read (Table 11-31). -/
def bobCtlWord (d : Dev) (b cmd : Nat) : Word := setFld (cur d .bbCtl b 0 &&& 0xFFFFF100) 0 2 cmd

/-- VP_MIG_CTL with CMD, its other fields as they read (Table 14-10). -/
def migCtlWord (d : Dev) (p cmd : Nat) : Word := setFld (cur d .vpMigCtl p 0 &&& 0xFFFFFC00) 0 2 cmd

/-- A HOST copy whose hold has run out is dropped when it is at the head of its VOQ (R324, R389): `mig` for a frozen vport's. -/
def holdExpiry (mig : Bool) (id : Nat) (d : Dev) : Dev :=
  match copyOf d id with
  | none => d
  | some c =>
    if voqHead d id c && decide (c.crossed = 0) && decide (hostHold d c = if mig then .migDrop else .rxDrop) then hostDrop d id c mig else d

/-- VPORT_RESET (R308): CMD 1 is written to VP_CTL. -/
def execVportReset (p : Fin 2048) (s : State) : Res :=
  onDev (fun d => fwWrite .vpCtl p 0 (setFld (cur d .vpCtl p 0 &&& 0xFF000000) 0 2 1) d) s

/-- VPORT_RESET_DONE (R308). -/
def execVportResetDone (p : Fin 2048) (s : State) : Res := onDev (resetDone p) s

/-- REATTACH (R327): CMD 2 is written to VP_CTL. -/
def execReattach (p : Fin 2048) (s : State) : Res :=
  onDev (fun d => fwWrite .vpCtl p 0 (setFld (cur d .vpCtl p 0 &&& 0xFF000000) 0 2 2) d) s

/-- REATTACH_DONE (R327). -/
def execReattachDone (p : Fin 2048) (s : State) : Res := onDev (Sys2Proof.Machine.reattachDone p) s

/-- ORPHAN_HOLD_EXPIRY (R327). -/
def execOrphanHoldExpiry (p : Fin 2048) (s : State) : Res := onDev (orphanExpire p) s

/-- SEND_JOB_COMPLETE (R320). -/
def execSendJobComplete (q : Fin 32768) (s : State) : Res := onDev (sendComplete q) s

/-- RX_COMPLETE (R321). -/
def execRxComplete (q : Fin 32768) (s : State) : Res := onDev (Sys2Proof.Machine.rxComplete q) s

/-- RX_HOLD_EXPIRY (R324). -/
def execRxHoldExpiry (c : Nat) (s : State) : Res := onDev (holdExpiry false c) s

/-- CQ_STALL (R325). -/
def execCqStall (c : Fin 16384) (s : State) : Res := onDev (Sys2Proof.Machine.cqStall c) s

/-- SIG_UNMASK (R326). -/
def execSigUnmask (p : Fin 2048) (vec : Fin 64) (s : State) : Res := onDev (Sys2Proof.Machine.sigUnmask p vec) s

/-- QCTX_READ (R328): BB_QCMD names the context and OP 1 is written to BB_QOP. -/
def execQctxRead (kind : BitVec 2) (q : BitVec 15) (s : State) : Res := onDev (qctxWriteOp 1 kind q) s

/-- QCTX_WRITE (R328): OP 2. -/
def execQctxWrite (kind : BitVec 2) (q : BitVec 15) (s : State) : Res := onDev (qctxWriteOp 2 kind q) s

/-- QCTX_ENABLE (R328): OP 3. -/
def execQctxEnable (kind : BitVec 2) (q : BitVec 15) (s : State) : Res := onDev (qctxWriteOp 3 kind q) s

/-- QCTX_DISABLE (R328): OP 4. -/
def execQctxDisable (kind : BitVec 2) (q : BitVec 15) (s : State) : Res := onDev (qctxWriteOp 4 kind q) s

/-- BOBBIN_START (R334): CMD 1 is written to BB_CTL. -/
def execBobbinStart (b : Fin 1024) (s : State) : Res := onDev (fun d => fwWrite .bbCtl b 0 (bobCtlWord d b 1) d) s

/-- BOBBIN_RESUME (R333): CMD 2. -/
def execBobbinResume (b : Fin 1024) (s : State) : Res := onDev (fun d => fwWrite .bbCtl b 0 (bobCtlWord d b 2) d) s

/-- BOBBIN_ABORT (R333): CMD 3. -/
def execBobbinAbort (b : Fin 1024) (s : State) : Res := onDev (fun d => fwWrite .bbCtl b 0 (bobCtlWord d b 3) d) s

/-- BOBBIN_PAUSE (R333): PAUSE is written to 1. -/
def execBobbinPause (b : Fin 1024) (s : State) : Res := onDev (fun d => fwWrite .bbCtl b 0 (setBit (bobCtlWord d b 0) 31 true) d) s

/-- BOBBIN_UNPAUSE (R333): PAUSE is written to 0. -/
def execBobbinUnpause (b : Fin 1024) (s : State) : Res := onDev (fun d => fwWrite .bbCtl b 0 (setBit (bobCtlWord d b 0) 31 false) d) s

/-- BB_CFG_WRITE (R528). -/
def execBbCfgWrite (v : Word) (s : State) : Res := onDev (fwWrite .bbCfg 0 0 v) s

/-- FREEZE (R388): CMD 1 is written to VP_MIG_CTL. -/
def execFreeze (p : Fin 2048) (s : State) : Res := onDev (fun d => fwWrite .vpMigCtl p 0 (migCtlWord d p 1) d) s

/-- THAW (R391): CMD 2. -/
def execThaw (p : Fin 2048) (s : State) : Res := onDev (fun d => fwWrite .vpMigCtl p 0 (migCtlWord d p 2) d) s

/-- SAVE (R394): CMD 3. -/
def execSave (p : Fin 2048) (s : State) : Res := onDev (fun d => fwWrite .vpMigCtl p 0 (migCtlWord d p 3) d) s

/-- SAVE_WRITTEN (R394). -/
def execSaveWritten (s : State) : Res :=
  .next (liveState (fun s => { s with dev := Sys2Proof.Machine.saveWritten (Config.identityKey s.otp.idSeed) s.dev }) s)

/-- VPORT_DRAINED (R390). -/
def execVportDrained (p : Fin 2048) (s : State) : Res := onDev (Sys2Proof.Machine.vportDrained p) s

/-- FREEZE_HOLD_EXPIRY (R389). -/
def execFreezeHoldExpiry (c : Nat) (s : State) : Res := onDev (holdExpiry true c) s

/-- MIG_OFFER (R392): the OFFER that SE_MIG_CMD holds is performed. -/
def execMigOffer (s : State) : Res := .next (liveState (migRun 1 fun seed x => Sys2Proof.Machine.migOffer (Config.identityKey seed) x) s)

/-- MIG_ACCEPT (R392): the ACCEPT that SE_MIG_CMD holds is performed. -/
def execMigAccept (s : State) : Res := .next (liveState (migRun 2 fun _ x => Sys2Proof.Machine.migAccept x) s)

/-- MIG_RESTORE (R396): the RESTORE that SE_MIG_CMD holds is performed. -/
def execMigRestore (s : State) : Res := .next (liveState (migRun 3 fun _ x => Sys2Proof.Machine.migRestore x) s)

/-- RESTORE_DONE (R397): the index reads and the MAC placements of a RESTORE end, and MIG_SESSION is answered. -/
def execRestoreDone (s : State) : Res := onDev (fun d => migReply (Sys2Proof.Machine.restoreDone d)) s

/-- MIG_CLOSE (R392): the CLOSE that SE_MIG_CMD holds is performed. -/
def execMigClose (s : State) : Res := .next (liveState (migRun 4 fun _ x => Sys2Proof.Machine.migClose x) s)

end Sys2Proof.Machine
end

