-- ==== Sys2Proof/Machine/ExecLink.lean ====
section
/-! DEFINITION. The meanings of the events and commands of the Bamura links (chapter 10). A link is a host port 0-7, or 8 + n the gang link of
network sub-port n (R458). -/

namespace Sys2Proof.Machine

/-- A record of type `ty` and well formed (R290, R291, R296, R298, R313) is acted on; one of another type or malformed is none of these. -/
def recordOf (h ty : Nat) (r : BlRec) (act : Dev → Dev) (d : Dev) : Dev :=
  if r.ty.toNat = ty ∧ recOk (decide (8 ≤ h)) r then act d else d

/-- BL_FRAME_RECEIVE (R272). -/
def execBlFrameReceive (h : Fin 24) (bytes : List Byte) (fcsOk : Bool) (s : State) : Res := onDev (blFrame h bytes fcsOk) s

/-- DATA_FRAME_RECEIVE (R280). -/
def execDataFrameReceive (h : Fin 24) (hdr : BlHdr) (recs : List BlRec) (pastEnd : Bool) (s : State) : Res :=
  onDev (dataFrame h hdr recs pastEnd) s

/-- CONTROL_FRAME_RECEIVE (R273). -/
def execControlFrameReceive (h : Fin 24) (hdr : BlHdr) (s : State) : Res := onDev (controlFrame h hdr) s

/-- INIT_FRAME_RECEIVE (R285). -/
def execInitFrameReceive (h : Fin 24) (hdr : BlHdr) (body : BlInit) (s : State) : Res := onDev (initFrame h hdr body) s

/-- LINK_ENTER_ACTIVE (R287). -/
def execLinkEnterActive (h : Fin 24) (s : State) : Res := onDev (enterActive h) s

/-- PCS_ALIGN (R286). -/
def execPcsAlign (h : Fin 24) (s : State) : Res := onDev (Sys2Proof.Machine.pcsAlign h) s

/-- PCS_LOSS (R286). -/
def execPcsLoss (h : Fin 24) (s : State) : Res := onDev (Sys2Proof.Machine.pcsLoss h) s

/-- INIT_SEND (R285). -/
def execInitSend (h : Fin 24) (s : State) : Res := onDev (Sys2Proof.Machine.initSend h) s

/-- DATA_FRAME_SEND (R283): a frame with one record of each virtual channel listed. -/
def execDataFrameSend (h : Fin 24) (vcs : List (Fin 4)) (s : State) : Res := onDev (Sys2Proof.Machine.dataFrameSend h vcs) s

/-- ACK_SEND (R281). -/
def execAckSend (h : Fin 24) (s : State) : Res := onDev (Sys2Proof.Machine.ackSend h) s

/-- REPLAY_TIMEOUT (R282). -/
def execReplayTimeout (h : Fin 24) (s : State) : Res := onDev (Sys2Proof.Machine.replayTimeout h) s

/-- ENDPOINT_LOST (R286). -/
def execEndpointLost (h : Fin 24) (s : State) : Res := onDev (Sys2Proof.Machine.endpointLost h) s

/-- CPL_RECORD (R290). -/
def execCplRecord (h : Fin 8) (r : BlRec) (s : State) : Res := onDev (recordOf h 0x20 r (Sys2Proof.Machine.cplRecord h r)) s

/-- WACK_RECORD (R291). -/
def execWackRecord (h : Fin 8) (r : BlRec) (s : State) : Res := onDev (recordOf h 0x21 r (Sys2Proof.Machine.wackRecord h r)) s

/-- CPL_TIMEOUT (R293). -/
def execCplTimeout (h : Fin 8) (s : State) : Res := onDev (cplTimeouts h) s

/-- MBR_RECORD (R296). -/
def execMbrRecord (h : Fin 8) (r : BlRec) (s : State) : Res := onDev (recordOf h 0x12 r (hostRecord h r)) s

/-- MBW_RECORD (R296). -/
def execMbwRecord (h : Fin 8) (r : BlRec) (s : State) : Res := onDev (recordOf h 0x13 r (hostRecord h r)) s

/-- DB_RECORD (R313). -/
def execDbRecord (h : Fin 8) (r : BlRec) (s : State) : Res := onDev (recordOf h 0x30 r (hostRecord h r)) s

/-- PING_RECORD (R298). -/
def execPingRecord (h : Fin 24) (r : BlRec) (s : State) : Res := onDev (recordOf h 0x38 r (Sys2Proof.Machine.pingRecord h r)) s

/-- RESET_NOTICE (R298). -/
def execResetNotice (h : Fin 24) (r : BlRec) (s : State) : Res := onDev (recordOf h 0x3A r (Sys2Proof.Machine.resetNotice h)) s

/-- SIG_SEND (R297). -/
def execSigSend (h : Fin 8) (vport : BitVec 8) (vec : BitVec 6) (s : State) : Res :=
  onDev (Sys2Proof.Machine.sigSend h vport.toNat vec.toNat) s

/-- BL_CFG_WRITE (R286). -/
def execBlCfgWrite (h : Fin 8) (v : Word) (s : State) : Res := onDev (fwWrite .blCfg h 0 v) s

end Sys2Proof.Machine
end

