-- ==== Sys2Proof/Machine/ExecPackets.lean ====
section
/-! DEFINITION. The meanings of the events of frames, copies, ports and the comb and sweep units (chapters 1 and 5 to 9). An event whose condition
does not hold leaves the state unchanged. -/

namespace Sys2Proof.Machine

/-- A frame arrives at an input; on a port that is a gang link it is a frame of the Bamura link (R458, R223). -/
def arrive (i : Nat) (bytes : List Byte) (off : Nat) (d : Dev) : Dev :=
  let p := lowMember d i
  if decide (i < 16) && linkEn d (8 + p) then blFrame (8 + p) bytes (fcsGood bytes) d else frameArrival i bytes off d

/-- A frame ends bad, `len` bytes of it having arrived; the ways in which it can are treated alike (R23). -/
def badEnd (f : Nat) (why : BadEnd) (len : Nat) (d : Dev) : Dev :=
  match why with
  | .fcs | .rxError | .portDown => frameEndBad f len d

/-- FRAME_ARRIVAL (R223): a frame with its FCS begins to arrive, `off` ps after the last boundary. -/
def execFrameArrival (i : Fin 25) (bytes : List Byte) (off : Nat) (s : State) : Res := onDev (arrive i bytes off) s

/-- PARSE_PRESENT (R162). -/
def execParsePresent (f : Nat) (s : State) : Res := onDev (Sys2Proof.Machine.parsePresent f) s

/-- FRAME_END_BAD (R23). -/
def execFrameEndBad (f : Nat) (why : BadEnd) (len : Nat) (s : State) : Res := onDev (badEnd f why len) s

/-- PUNT_STORE (R156). -/
def execPuntStore (c : Nat) (s : State) : Res := onDev (Sys2Proof.Machine.puntStore c) s

/-- EDITOR_TAKE (R178). -/
def execEditorTake (c : Nat) (s : State) : Res := onDev (Sys2Proof.Machine.editorTake c) s

/-- COMB_VISIT (R200). -/
def execCombVisit (t : Fin 5) (s : State) : Res := onDev (Sys2Proof.Machine.combVisit t) s

/-- HBM_SWEEP_VISIT (R215). -/
def execHbmSweepVisit (s : State) : Res := onDev sweepVisit s

/-- FLOW_PROMOTION_DONE (R211) of the flow of that key. -/
def execFlowPromotionDone (hi lo : BitVec 64) (s : State) : Res := onDev (promoRead [hi, lo]) s

/-- DEMOTION_WRITE_DONE (R213) of the flow of that key. -/
def execDemotionWriteDone (hi lo : BitVec 64) (s : State) : Res := onDev (demoWrite [hi, lo]) s

/-- FLOW_INIT_DONE (R216). -/
def execFlowInitDone (s : State) : Res := onDev Sys2Proof.Machine.flowInitDone s

/-- WAFT_GAP_EXPIRY (R266). -/
def execWaftGapExpiry (i : Fin 30) (s : State) : Res := onDev (waftExpiry i) s

/-- WAFT_STORE (R267). -/
def execWaftStore (c : Nat) (s : State) : Res := onDev (Sys2Proof.Machine.waftStore c) s

/-- CELL_READY (R230). -/
def execCellReady (f : Nat) (s : State) : Res := onDev (Sys2Proof.Machine.cellReady f) s

/-- CELL_TIME (R233). -/
def execCellTime (s : State) : Res := onDev Sys2Proof.Machine.cellTime s

/-- EGRESS_TX_START (R22). -/
def execEgressTxStart (d : Fin 29) (s : State) : Res := onDev (Sys2Proof.Machine.egressTxStart d) s

/-- LINK_DOWN (R246). -/
def execLinkDown (p : Fin 25) (s : State) : Res := onDev (fun d => portLost d p false) s

/-- LINK_UP (R246, R518). -/
def execLinkUp (p : Fin 25) (s : State) : Res := onDev (linkUp p) s

/-- FLAP_HOLD_EXPIRY (R246). -/
def execFlapHoldExpiry (p : Fin 25) (s : State) : Res := onDev (flapExpire p) s

/-- SAMPLE_VISIT (R264). -/
def execSampleVisit (s : State) : Res := onDev Sys2Proof.Machine.sampleVisit s

/-- SHADOW_WRITE_DONE (R219). -/
def execShadowWriteDone (t : Fin 4) (k : BitVec 20) (s : State) : Res := onDev (shadowDone t k.toNat) s

end Sys2Proof.Machine
end

