-- ==== Sys2Proof/Machine/ExecPower.lean ====
section
/-! DEFINITION. The meanings of the accesses to mailboxes and doorbell bits and of the power commands and events (chapter 16). An endpoint access is a
record on the link of its host port; it is acted on at the next boundary. -/

namespace Sys2Proof.Machine

/-- An MBR (0x12) or MBW (0x13) of an endpoint at an offset of a vport page (Table 11-1). -/
def endpointAccess (p ty : Nat) (tag : BitVec 16) (off : Nat) (bs : List Byte) (d : Dev) : Dev :=
  hostRecord (p / 256) ⟨BitVec.ofNat 8 ty, BitVec.ofNat 8 (p % 256), tag, BitVec.ofNat 16 (if ty = 0x12 then 8 else bs.length), 0, 0,
    BitVec.ofNat 64 off, bs⟩ d

/-- MB_OUT of a vport written on a path, the low word first. -/
def mbOutBoth (pth : Path) (p : Nat) (w : DWord) (d : Dev) : Dev :=
  let a := addr .vpMbOut p 0
  let lo := BitVec.ofNat 32 (w.toNat % 2 ^ 32)
  let hi := BitVec.ofNat 32 (w.toNat / 2 ^ 32)
  match pth with
  | .mbx _ => writeReg (WSrc.lone pth false 0 (a + 4) hi) (a + 4) hi (writeReg (WSrc.lone pth false 0 a lo) a lo d)
  | _ =>
    writeLoc (WSrc.lone pth false 0 (a + 4) hi) ⟨.vpMbOut, p, 0, true⟩ (a + 4) hi
      (writeLoc (WSrc.lone pth false 0 a lo) ⟨.vpMbOut, p, 0, false⟩ a lo d)

/-- MB_IN_WRITE (R428): an MBW of 8 bytes. -/
def execMbInWrite (p : Fin 2048) (tag : BitVec 16) (w : BitVec 64) (s : State) : Res :=
  onDev (endpointAccess p 0x13 tag 0x08 (beBytes 8 w.toNat)) s

/-- MB_IN_STATUS_READ (R428): an MBR. -/
def execMbInStatusRead (p : Fin 2048) (tag : BitVec 16) (s : State) : Res := onDev (endpointAccess p 0x12 tag 0x08 []) s

/-- MB_OUT_READ (R428): an MBR. -/
def execMbOutRead (p : Fin 2048) (tag : BitVec 16) (s : State) : Res := onDev (endpointAccess p 0x12 tag 0x10 []) s

/-- FW_MB_IN_READ (R427, R428): the low word is read; the high one is latched. -/
def execFwMbInRead (pth : Path) (p : Fin 2048) (s : State) : Res := onDev (readNamed pth .vpMbIn p 0) s

/-- FW_MB_OUT_WRITE (R427, R428): both words are written. -/
def execFwMbOutWrite (pth : Path) (p : Fin 2048) (w : BitVec 64) (s : State) : Res := onDev (mbOutBoth pth p w) s

/-- CROSSED (R432). -/
def execCrossed (p : Fin 2048) (s : State) : Res := onDev (crossRaise p) s

/-- DBB_WRITE (R433): an MBW of 4 bytes. -/
def execDbbWrite (p : Fin 2048) (tag : BitVec 16) (w : Word) (s : State) : Res :=
  onDev (endpointAccess p 0x13 tag 0x18 (beBytes 4 w.toNat)) s

/-- DBB_SET (R435). -/
def execDbbSet (r : Fin 256) (w : Word) (s : State) : Res := onDev (fwWrite .mbDbbSet r 0 w) s

/-- RCV_CFG_WRITE (R435). -/
def execRcvCfgWrite (r : Fin 256) (v : Word) (s : State) : Res := onDev (fwWrite .mbRcvCfg r 0 v) s

/-- DOMAIN_SLEEP_REQUEST (R438): SLEEP is written to 1. -/
def execDomainSleepRequest (p : Fin 42) (s : State) : Res := onDev (fwWrite .pwDomCtl p 0 1) s

/-- DOMAIN_SLEEP_ENTRY (R438). -/
def execDomainSleepEntry (p : Fin 42) (s : State) : Res := onDev (sleepEntry p) s

/-- WAKE_REQUEST (R440): SLEEP is 0, and the wake is queued. -/
def execWakeRequest (p : Fin 42) (s : State) : Res := onDev (wakeWrite p) s

/-- GUST_ADMIT (R441). -/
def execGustAdmit (s : State) : Res := onDev Sys2Proof.Machine.gustAdmit s

/-- DOMAIN_AWAKE (R441). -/
def execDomainAwake (p : Fin 42) (s : State) : Res := onDev (domAwake p) s

/-- SAG_ENTRY (R443). -/
def execSagEntry (s : State) : Res := onDev Sys2Proof.Machine.sagEntry s

/-- SAG_EXIT (R443): the rails were below the warning level for `belowNs` ns. -/
def execSagExit (belowNs : Nat) (s : State) : Res := onDev (Sys2Proof.Machine.sagExit belowNs) s

end Sys2Proof.Machine
end

