-- ==== Sys2Proof/Machine/ExecReels.lean ====
section
/-! DEFINITION. The meanings of the commands to threads and reels and of their events (chapters 2, 4 and 5). An event whose condition does not hold
leaves the state unchanged. -/

namespace Sys2Proof.Machine

/-- RL_DBG_CTL with one of HALT (bit 0), RESUME (bit 1) and STEP (bit 2), and CAPTURE (bit 3) (Table 2-19). -/
def dbgWordOf (b : Nat) (capture : Bool) : Word := BitVec.ofNat 32 (2 ^ b + 8 * b2n capture)

/-- RL_REEL_CTL with CMD, its other fields as they read (Table 2-14). -/
def reelCtlWord (d : Dev) (r cmd : Nat) : Word := setFld (cur d .rlReelCtl r 0 &&& 0xFF0100) 0 3 cmd

/-- A ready thread at a breakpoint that it has not passed halts before it issues the instruction there (R59). -/
def breakHalt (k : Nat) (d : Dev) : Dev :=
  let t := thrOf d k
  if threadReady t && brkHit d k t.pc && t.dbg.passed != some t.pc then haltThread d k 2 else d

/-- A draining reel whose last skein has ended becomes RETIRED, and the receivers of its threads are reset (R69, R430). -/
def retireNow (r : Nat) (d : Dev) : Dev :=
  let d2 := retireDrained r d
  if (reelOf d2 r).st = (reelOf d r).st then d else reelMailReset d2 r

/-- DROOP_SKIP (R35). -/
def execDroopSkip (cycle : Nat) (s : State) : Res := onDev (Sys2Proof.Machine.droopSkip cycle) s

/-- STAGE_OVERRUN (R53): the thread has not ended its stage when the tick ends. -/
def execStageOverrun (t : Tid) (s : State) : Res := onDev (overrun (tkey t)) s

/-- DBG_HALT (R59): HALT is written, with CAPTURE as given. -/
def execDbgHalt (t : Tid) (capture : Bool) (s : State) : Res := onDev (fwWrite .rlDbgCtl t.reel t.n (dbgWordOf 0 capture)) s

/-- BREAKPOINT_HALT (R59). -/
def execBreakpointHalt (t : Tid) (s : State) : Res := onDev (breakHalt (tkey t)) s

/-- DBG_STEP (R62): STEP is written, with CAPTURE as given. -/
def execDbgStep (t : Tid) (capture : Bool) (s : State) : Res := onDev (fwWrite .rlDbgCtl t.reel t.n (dbgWordOf 2 capture)) s

/-- DBG_RESUME (R64): RESUME is written, with CAPTURE as given. -/
def execDbgResume (t : Tid) (capture : Bool) (s : State) : Res := onDev (fwWrite .rlDbgCtl t.reel t.n (dbgWordOf 1 capture)) s

/-- CAPTURE_FREE (R531): FREE is written. -/
def execCaptureFree (s : State) : Res := onDev (fwWrite .tkCapCtl 0 0 1) s

/-- REEL_LOAD (R66): CMD 1 is written. -/
def execReelLoad (r : Fin 33) (s : State) : Res := onDev (fun d => fwWrite .rlReelCtl r 0 (reelCtlWord d r 1) d) s

/-- REEL_LOAD_DONE (R478): the built-in test of the reel ended as `testOk` says. -/
def execReelLoadDone (r : Fin 33) (testOk : Bool) (s : State) : Res := onDev (loadDone r testOk) s

/-- REEL_ADMIT (R66): CMD 2 is written. -/
def execReelAdmit (r : Fin 33) (s : State) : Res := onDev (fun d => fwWrite .rlReelCtl r 0 (reelCtlWord d r 2) d) s

/-- REEL_DRAIN (R66): CMD 3 is written. -/
def execReelDrain (r : Fin 33) (s : State) : Res := onDev (fun d => fwWrite .rlReelCtl r 0 (reelCtlWord d r 3) d) s

/-- REEL_RETIRED_AFTER_DRAIN (R69). -/
def execReelRetiredAfterDrain (r : Fin 33) (s : State) : Res := onDev (retireNow r) s

/-- REEL_RESET (R66): CMD 4 is written. -/
def execReelReset (r : Fin 33) (s : State) : Res := onDev (fun d => fwWrite .rlReelCtl r 0 (reelCtlWord d r 4) d) s

/-- REEL_FAULT (R67). -/
def execReelFault (r : Fin 33) (s : State) : Res := onDev (Sys2Proof.Machine.reelFault r) s

/-- SPARE_ADMIT (R67). -/
def execSpareAdmit (r : Fin 33) (s : State) : Res := onDev (Sys2Proof.Machine.spareAdmit r) s

/-- WAIT_TIMEOUT (R130). -/
def execWaitTimeout (t : Tid) (s : State) : Res := onDev (waitExpire (tkey t)) s

/-- LOCK_REQUEST_EXPIRY (R140). -/
def execLockRequestExpiry (t : Tid) (s : State) : Res := onDev (lockExpire (tkey t)) s

/-- CHAN_PUBLISH_TIMEOUT (R149). -/
def execChanPublishTimeout (c : Fin 4096) (s : State) : Res := onDev (chanTimeout c) s

/-- DOLDRUMS (R160). -/
def execDoldrums (g : Fin 256) (s : State) : Res := onDev (doldrumsAct g) s

end Sys2Proof.Machine
end

