-- ==== Sys2Proof/Machine/ExecRegs.lean ====
section
/-! DEFINITION. The meanings of the register reads and writes that have rows of their own (chapters 1 to 9), each a write by device firmware or a
read on a path through the shared operations of RegFile.lean. -/

namespace Sys2Proof.Machine

/-- A write on a path, of the whole machine: DEVICE of CT_RESET, written checked, resets the device (R485); every other write acts on
the registers. -/
def writeState (src : WSrc) (a : Nat) (v : Word) (s : State) : State :=
  let away : Bool := match src.path with
    | .mbx _ => true
    | _ => false
  let t := if s.board.held then s else { s with dev := writeReg src a v s.dev }
  if a = addr .ctReset 0 0 ∧ bit v 31 ∧ src.checked ∧ !away then commandReset t else t

/-- 1 written to SAT of the error counter at an address; at any other address nothing is (R464). -/
def satClear (p : Path) (a : Nat) (d : Dev) : Dev :=
  match locate a with
  | some l => if satCounter l.reg then writeReg (WSrc.lone p false 0 a 0x80000000) a 0x80000000 d else d
  | none => d

/-- NP_PORT_CFG with MODE and ADMIN_UP given and nothing written to MODE_ERR. -/
def npWord (d : Dev) (x : Nat) (mode : BitVec 2) (up : Bool) : Word :=
  setBit (setBit (setFld (cur d .npPortCfg x 0) 0 2 mode.toNat) 8 up) 9 false

/-- A write in the windows of the parse and edit banks (R177): it goes to the standby bank. An address outside them is written by
other rows. -/
def bankWrite (a : Nat) (v : Word) (d : Dev) : Dev :=
  if bankedAddr a then writeReg (WSrc.lone .ctl false 0 a v) a v d else d

/-- SW_MC_CMD with OP and GROUP. -/
def mcCmdWord (op : Nat) (g : BitVec 14) : Word := BitVec.ofNat 32 (op + g.toNat * 16)

/-- SC_MTR_CMD with OP and METER. -/
def mtrCmdWord (op : Nat) (m : BitVec 16) : Word := BitVec.ofNat 32 (op + m.toNat * 256)

/-- TICK_BOUNDARY (R10, R187): everything due at the next boundary happens. -/
def execTickBoundary (s : State) : Res := onDev tickBoundary s

/-- TICK_CNT_LO_READ (R12). -/
def execTickCntLoRead (p : Path) (s : State) : Res := onDev (readNamed p .tkTickLo 0 0) s

/-- LOW_WORD_READ (R465, R525): a read at an address; the low word of a wide register latches its high word for the path. -/
def execLowWordRead (p : Path) (a : Word) (s : State) : Res := onDev (readShown p a.toNat) s

/-- REGISTER_WRITE (R5, R408, R524 to R528). -/
def execRegisterWrite (p : Path) (checked : Bool) (a v : Word) (s : State) : Res :=
  .next (writeState (WSrc.lone p checked 0 a.toNat v) a.toNat v s)

/-- COUNTER_SAT_CLEAR (R464): 1 is written to SAT of an error counter. -/
def execCounterSatClear (p : Path) (a : Word) (s : State) : Res := onDev (satClear p a.toNat) s

/-- NP_PORT_MODE_WRITE (R18): MODE is written, ADMIN_UP as it was. -/
def execNpPortModeWrite (x : Fin 4) (mode : BitVec 2) (s : State) : Res :=
  onDev (fun d => fwWrite .npPortCfg x 0 (npWord d x mode (bit (cur d .npPortCfg x 0) 8)) d) s

/-- PORT_ADMIN_UP (R18): ADMIN_UP is written to 1, MODE as it was. -/
def execPortAdminUp (x : Fin 4) (s : State) : Res :=
  onDev (fun d => fwWrite .npPortCfg x 0 (npWord d x (BitVec.ofNat 2 (fld (cur d .npPortCfg x 0) 0 2)) true) d) s

/-- PORT_ADMIN_DOWN (R246): ADMIN_UP is written to 0, MODE as it was. -/
def execPortAdminDown (x : Fin 4) (s : State) : Res :=
  onDev (fun d => fwWrite .npPortCfg x 0 (npWord d x (BitVec.ofNat 2 (fld (cur d .npPortCfg x 0) 0 2)) false) d) s

/-- FRM_POOL_CFG_WRITE (R124). -/
def execFrmPoolCfgWrite (base : Bool) (v : Word) (s : State) : Res := onDev (fwWrite (if base then .tkFrmBase else .tkFrmCfg) 0 0 v) s

/-- LOCK_CFG_WRITE (R136). -/
def execLockCfgWrite (l : Fin 4096) (v : Word) (s : State) : Res := onDev (fwWrite .drLockCfg l 0 v) s

/-- LOCK_POISON_CLEAR (R143): 1 is written to POISON. -/
def execLockPoisonClear (l : Fin 4096) (s : State) : Res := onDev (fwWrite .drLockStatus l 0 0x40000000) s

/-- CHAN_CFG_WRITE (R152). -/
def execChanCfgWrite (c : Fin 4096) (cfg1 : Bool) (v : Word) (s : State) : Res :=
  onDev (fwWrite (if cfg1 then .drChanCfg1 else .drChanCfg0) c 0 v) s

/-- EVT_BIND_WRITE (R153). -/
def execEvtBindWrite (t : Tid) (line : Fin 64) (v : Word) (s : State) : Res :=
  onDev (fwWrite .rlEvtBind t.reel (64 * t.n.val + line.val) v) s

/-- WG_CFG_WRITE (R161). -/
def execWgCfgWrite (g : Fin 256) (v : Word) (s : State) : Res := onDev (fwWrite .tkWgCfg g 0 v) s

/-- SW_PE_COMMIT (R177): COMMIT is written. -/
def execSwPeCommit (s : State) : Res := onDev (fwWrite .swPeCommit 0 0 1) s

/-- BANK_SYNC_DONE (R177). -/
def execBankSyncDone (s : State) : Res := onDev bankSyncDone s

/-- STANDBY_BANK_WRITE (R177): a write in the windows of the parse and edit banks. -/
def execStandbyBankWrite (a v : Word) (s : State) : Res := onDev (bankWrite a.toNat v) s

/-- LK_READ (R191, R192): OP 1. -/
def execLkRead (k : Fin 4) (table : BitVec 3) (byIx : Bool) (ix : BitVec 20) (s : State) : Res :=
  onDev (fwWrite .lkCmd k 0 (lkCmdWord 1 table.toNat byIx ix.toNat)) s

/-- LK_WRITE (R191, R192): OP 2. -/
def execLkWrite (k : Fin 4) (table : BitVec 3) (byIx : Bool) (ix : BitVec 20) (s : State) : Res :=
  onDev (fwWrite .lkCmd k 0 (lkCmdWord 2 table.toNat byIx ix.toNat)) s

/-- LK_INSERT (R191, R192): OP 3. -/
def execLkInsert (k : Fin 4) (table : BitVec 3) (byIx : Bool) (ix : BitVec 20) (s : State) : Res :=
  onDev (fwWrite .lkCmd k 0 (lkCmdWord 3 table.toNat byIx ix.toNat)) s

/-- LK_DELETE (R191, R192): OP 4. -/
def execLkDelete (k : Fin 4) (table : BitVec 3) (byIx : Bool) (ix : BitVec 20) (s : State) : Res :=
  onDev (fwWrite .lkCmd k 0 (lkCmdWord 4 table.toNat byIx ix.toNat)) s

/-- LK_CAS (R191, R192): OP 5. -/
def execLkCas (k : Fin 4) (table : BitVec 3) (byIx : Bool) (ix : BitVec 20) (s : State) : Res :=
  onDev (fwWrite .lkCmd k 0 (lkCmdWord 5 table.toNat byIx ix.toNat)) s

/-- LK_RING_CFG_WRITE (R198). -/
def execLkRingCfgWrite (r : Fin 4) (v : Word) (s : State) : Res := onDev (fwWrite .lkRingCfg r 0 v) s

/-- FLOW_CFG_WRITE (R216). -/
def execFlowCfgWrite (v : Word) (s : State) : Res := onDev (fwWrite .lkFlowCfg 0 0 v) s

/-- DEST_FREEZE (R237): FREEZE is written to 1. -/
def execDestFreeze (d : Fin 32) (s : State) : Res := onDev (fwWrite .swDestCtl d 0 1) s

/-- DEST_UNFREEZE (R237): FREEZE is written to 0. -/
def execDestUnfreeze (d : Fin 32) (s : State) : Res := onDev (fwWrite .swDestCtl d 0 0) s

/-- MC_READ (R240): OP 1. -/
def execMcRead (g : BitVec 14) (s : State) : Res := onDev (fwWrite .swMcCmd 0 0 (mcCmdWord 1 g)) s

/-- MC_WRITE (R245): OP 2. -/
def execMcWrite (g : BitVec 14) (s : State) : Res := onDev (fwWrite .swMcCmd 0 0 (mcCmdWord 2 g)) s

/-- SW_COMMIT (R225, R527): COMMIT is written. -/
def execSwCommit (s : State) : Res := onDev (fwWrite .swCommit 0 0 1) s

/-- TK_COMMIT (R527): COMMIT is written. -/
def execTkCommit (s : State) : Res := onDev (fwWrite .tkCommit 0 0 1) s

/-- LK_COMMIT (R197, R527): COMMIT is written. -/
def execLkCommit (s : State) : Res := onDev (fwWrite .lkCommit 0 0 1) s

/-- SC_COMMIT (R255, R527): COMMIT is written. -/
def execScCommit (s : State) : Res := onDev (fwWrite .scCommit 0 0 1) s

/-- CI_COMMIT (R348, R527): COMMIT is written. -/
def execCiCommit (s : State) : Res := onDev (fwWrite .ciCommit 0 0 1) s

/-- BS_COMMIT (R386, R527): COMMIT is written. -/
def execBsCommit (s : State) : Res := onDev (fwWrite .bsCommit 0 0 1) s

/-- MTR_READ (R255): OP 1. -/
def execMtrRead (m : BitVec 16) (s : State) : Res := onDev (fwWrite .scMtrCmd 0 0 (mtrCmdWord 1 m)) s

/-- MTR_WRITE (R255): OP 2. -/
def execMtrWrite (m : BitVec 16) (s : State) : Res := onDev (fwWrite .scMtrCmd 0 0 (mtrCmdWord 2 m)) s

/-- SMP_CFG_WRITE (R265). -/
def execSmpCfgWrite (v : Word) (s : State) : Res := onDev (fwWrite .scSmpCfg 0 0 v) s

end Sys2Proof.Machine
end

