-- ==== Sys2Proof/Machine/ExecReset.lean ====
section
/-! DEFINITION. The meanings of the resets, bring-up and the pins (chapters 19 and 20). -/

namespace Sys2Proof.Machine

/-- DEVICE written in a checked command of some counter: whatever the counter, the device resets, which clears the counters (R485,
R487). -/
def deviceResetBy (_counter : BitVec 64) (s : State) : State := commandReset s

/-- Instructions of the TAP that drive or release pins (R522). -/
def tapDrives : TapOp → Bool
  | .extest | .extestPulse | .extestTrain | .highz | .clamp => true
  | .idcode | .bypass | .samplePreload => false

/-- The instruction as which the TAP acts: one that drives or releases pins only while PORST_N is low, else BYPASS (R522). -/
def tapActs (b : Board) : TapOp := if tapDrives b.tap && !b.porstLow then .bypass else b.tap

/-- IDCODE: version 1, part number 0x6408, manufacturer field 0x079 (R522). -/
def tapIdcode : Word := 0x164080F3

/-- An instruction loaded into the TAP: no register, memory, OTP or key changes (R522). -/
def tapLoad (i : TapOp) (s : State) : State := { s with board := { s.board with tap := i } }

/-- POWER_ON_RESET (R489): PORST_N rises with supplies valid and the straps as given. -/
def execPowerOnReset (bootSel : BitVec 2) (rungInit : BitVec 2) (cpMedia : Bool) (s : State) : Res :=
  .next (powerOn bootSel.toNat rungInit.toNat cpMedia s)

/-- PLL_LOCK (R491): device reset is released and the boot ROM runs. -/
def execPllLock (entropyOk : Bool) (ms : List Measure) (s : State) : Res := .next (pllLocks entropyOk ms s)

/-- UNDERVOLTAGE_RESET (R485). -/
def execUndervoltageReset (s : State) : Res := .next (undervoltage s)

/-- UNDERVOLTAGE_RELEASE (R485). -/
def execUndervoltageRelease (s : State) : Res := .next (undervoltageEnd s)

/-- DEVICE_RESET_CMD (R485): DEVICE of CT_RESET is written in a checked command of that counter. -/
def execDeviceResetCmd (counter : BitVec 64) (s : State) : Res := .next (deviceResetBy counter s)

/-- HOST_PORT_DOMAIN_RESET (R488): the bit HOST h is written. -/
def execHostPortDomainReset (h : Fin 8) (s : State) : Res := onDev (fwWrite .ctReset 0 0 (BitVec.ofNat 32 (2 ^ h.val))) s

/-- CLUSTER_DOMAIN_RESET (R488): the bit CLUSTER c is written. -/
def execClusterDomainReset (c : Fin 8) (s : State) : Res := onDev (fwWrite .ctReset 0 0 (BitVec.ofNat 32 (2 ^ (8 + c.val)))) s

/-- DOMAIN_RESET_END (R488). -/
def execDomainResetEnd (s : State) : Res := onDev Sys2Proof.Machine.domainResetEnd s

/-- IMAGE_FETCH_DONE (R499). -/
def execImageFetchDone (s : State) : Res := .next (imageFetched s)

/-- PORST_N_LOW (R509). -/
def execPorstNLow (s : State) : Res := .next (porstLow s)

/-- THERMTRIP_N_RELEASE (R513). -/
def execThermtripNRelease (s : State) : Res := .next ({ s with board := { s.board with thermtrip := false } })

/-- TAP_INSTRUCTION (R522). -/
def execTapInstruction (i : TapOp) (s : State) : Res := .next (tapLoad i s)

end Sys2Proof.Machine
end

