-- ==== Sys2Proof/Machine/ExecTime.lean ====
section
/-! DEFINITION. The meanings of the commands and events of device time and of the gang (chapter 17). -/

namespace Sys2Proof.Machine

/-- TIME_STEP_GO (R448): GO is written with LOAD as given. -/
def execTimeStepGo (load : Bool) (s : State) : Res := onDev (fwWrite .tmStepCtl 0 0 (BitVec.ofNat 32 (1 + 2 * b2n load))) s

/-- PPS_OUT_EDGE (R455). -/
def execPpsOutEdge (s : State) : Res := onDev ppsEdge s

/-- PPS_IN_EDGE (R456), `ps` ps after the last boundary. -/
def execPpsInEdge (falling : Bool) (ps : Nat) (s : State) : Res := onDev (ppsIn falling ps) s

/-- TX_TIMESTAMP_POINT (R452), `ps` ps after the last boundary. -/
def execTxTimestampPoint (c : Nat) (ps : Nat) (s : State) : Res := onDev (txPoint c ps) s

/-- TM_TXTS_READ (R454): word 0 of a port is read. -/
def execTmTxtsRead (pth : Path) (n : Fin 17) (s : State) : Res := onDev (readNamed pth .tmTxts n 0) s

/-- TM_NOW_FRAC_READ (R446). -/
def execTmNowFracRead (pth : Path) (s : State) : Res := onDev (readNamed pth .tmNowFrac 0 0) s

/-- GANG_FRAME_RECEIVE (R460). -/
def execGangFrameReceive (n : Fin 16) (bytes : List Byte) (s : State) : Res := onDev (gangReceive n bytes) s

/-- PPS_OUT_PULSE_END (R455). -/
def execPpsOutPulseEnd (s : State) : Res := onDev ppsEnd s

end Sys2Proof.Machine
end

