-- ==== Sys2Proof/Machine/Whorl.lean ====
section
/-! DEFINITION. The meanings of the Whorl local instructions (chapter 3), each the issue of that instruction by the thread that the
command names. -/

namespace Sys2Proof.Machine

/-- ILLEGAL_INSTRUCTION: the thread issues a word; an illegal one faults the thread with its cause (R78, R95). -/
def execIllegalInstruction (t : Tid) (word : Word) (s : State) : Res := onDev (issueWord t word) s

/-- NOP costs one slot and does nothing else (R96). -/
def execNop (t : Tid) (s : State) : Res := onDev (issue t .nop) s

/-- ADD: Gd = A + B (R82). -/
def execAdd (t : Tid) (d : BitVec 5) (a b : BitVec 6) (w f : Bool) (s : State) : Res := onDev (issue t (.alu .add d a b w f)) s

/-- SUB: Gd = A - B (R82). -/
def execSub (t : Tid) (d : BitVec 5) (a b : BitVec 6) (w f : Bool) (s : State) : Res := onDev (issue t (.alu .sub d a b w f)) s

/-- AND: Gd = A AND B (R82). -/
def execAnd (t : Tid) (d : BitVec 5) (a b : BitVec 6) (w f : Bool) (s : State) : Res := onDev (issue t (.alu .and d a b w f)) s

/-- OR: Gd = A OR B (R82). -/
def execOr (t : Tid) (d : BitVec 5) (a b : BitVec 6) (w f : Bool) (s : State) : Res := onDev (issue t (.alu .or d a b w f)) s

/-- XOR: Gd = A XOR B (R82). -/
def execXor (t : Tid) (d : BitVec 5) (a b : BitVec 6) (w f : Bool) (s : State) : Res := onDev (issue t (.alu .xor d a b w f)) s

/-- ANDN: Gd = A AND NOT B (R82). -/
def execAndn (t : Tid) (d : BitVec 5) (a b : BitVec 6) (w f : Bool) (s : State) : Res := onDev (issue t (.alu .andn d a b w f)) s

/-- SHL: Gd = A shifted left by B (R82). -/
def execShl (t : Tid) (d : BitVec 5) (a b : BitVec 6) (w f : Bool) (s : State) : Res := onDev (issue t (.alu .shl d a b w f)) s

/-- SHR: Gd = A shifted right by B, zeros in (R82). -/
def execShr (t : Tid) (d : BitVec 5) (a b : BitVec 6) (w f : Bool) (s : State) : Res := onDev (issue t (.alu .shr d a b w f)) s

/-- SAR: Gd = A shifted right by B, sign in (R82). -/
def execSar (t : Tid) (d : BitVec 5) (a b : BitVec 6) (w f : Bool) (s : State) : Res := onDev (issue t (.alu .sar d a b w f)) s

/-- ROL: Gd = A rotated left by B (R82). -/
def execRol (t : Tid) (d : BitVec 5) (a b : BitVec 6) (w f : Bool) (s : State) : Res := onDev (issue t (.alu .rol d a b w f)) s

/-- MINU: unsigned minimum (R82). -/
def execMinu (t : Tid) (d : BitVec 5) (a b : BitVec 6) (w f : Bool) (s : State) : Res := onDev (issue t (.alu .minu d a b w f)) s

/-- MAXU: unsigned maximum (R82). -/
def execMaxu (t : Tid) (d : BitVec 5) (a b : BitVec 6) (w f : Bool) (s : State) : Res := onDev (issue t (.alu .maxu d a b w f)) s

/-- MUL: low bits of A times B (R82). -/
def execMul (t : Tid) (d : BitVec 5) (a b : BitVec 6) (w f : Bool) (s : State) : Res := onDev (issue t (.alu .mul d a b w f)) s

/-- CSUM: checksum fold of A and B (R83) (R82). -/
def execCsum (t : Tid) (d : BitVec 5) (a b : BitVec 6) (w f : Bool) (s : State) : Res := onDev (issue t (.alu .csum d a b w f)) s

/-- CMP: FLAGS from A - B (R82). -/
def execCmp (t : Tid) (d : BitVec 5) (a b : BitVec 6) (w f : Bool) (s : State) : Res := onDev (issue t (.alu .cmp d a b w f)) s

/-- TST: FLAGS from A AND B (R82). -/
def execTst (t : Tid) (d : BitVec 5) (a b : BitVec 6) (w f : Bool) (s : State) : Res := onDev (issue t (.alu .tst d a b w f)) s

/-- CLZ: count of leading zeros (R82). -/
def execClz (t : Tid) (d : BitVec 5) (a : BitVec 6) (w f : Bool) (s : State) : Res := onDev (issue t (.un .clz d a w f)) s

/-- POPC: count of 1 bits (R82). -/
def execPopc (t : Tid) (d : BitVec 5) (a : BitVec 6) (w f : Bool) (s : State) : Res := onDev (issue t (.un .popc d a w f)) s

/-- BSWAP: bytes in reverse order (R82). -/
def execBswap (t : Tid) (d : BitVec 5) (a : BitVec 6) (w f : Bool) (s : State) : Res := onDev (issue t (.un .bswap d a w f)) s

/-- SEL: A when COND holds on FLAGS, else B; FLAGS never written (R82). -/
def execSel (t : Tid) (d : BitVec 5) (a b : BitVec 6) (w : Bool) (cond : BitVec 4) (s : State) : Res := onDev (issue t (.sel d a b w cond)) s

/-- ADDI (R84, Table 3-8). -/
def execAddi (t : Tid) (d : BitVec 5) (a : BitVec 6) (w f : Bool) (imm : BitVec 12) (s : State) : Res := onDev (issue t (.imm .addi d a w f imm)) s

/-- SUBI (R84, Table 3-8). -/
def execSubi (t : Tid) (d : BitVec 5) (a : BitVec 6) (w f : Bool) (imm : BitVec 12) (s : State) : Res := onDev (issue t (.imm .subi d a w f imm)) s

/-- ANDI (R84, Table 3-8). -/
def execAndi (t : Tid) (d : BitVec 5) (a : BitVec 6) (w f : Bool) (imm : BitVec 12) (s : State) : Res := onDev (issue t (.imm .andi d a w f imm)) s

/-- ORI (R84, Table 3-8). -/
def execOri (t : Tid) (d : BitVec 5) (a : BitVec 6) (w f : Bool) (imm : BitVec 12) (s : State) : Res := onDev (issue t (.imm .ori d a w f imm)) s

/-- XORI (R84, Table 3-8). -/
def execXori (t : Tid) (d : BitVec 5) (a : BitVec 6) (w f : Bool) (imm : BitVec 12) (s : State) : Res := onDev (issue t (.imm .xori d a w f imm)) s

/-- SHLI (R84, Table 3-8). -/
def execShli (t : Tid) (d : BitVec 5) (a : BitVec 6) (w f : Bool) (imm : BitVec 12) (s : State) : Res := onDev (issue t (.imm .shli d a w f imm)) s

/-- SHRI (R84, Table 3-8). -/
def execShri (t : Tid) (d : BitVec 5) (a : BitVec 6) (w f : Bool) (imm : BitVec 12) (s : State) : Res := onDev (issue t (.imm .shri d a w f imm)) s

/-- SARI (R84, Table 3-8). -/
def execSari (t : Tid) (d : BitVec 5) (a : BitVec 6) (w f : Bool) (imm : BitVec 12) (s : State) : Res := onDev (issue t (.imm .sari d a w f imm)) s

/-- ROLI (R84, Table 3-8). -/
def execRoli (t : Tid) (d : BitVec 5) (a : BitVec 6) (w f : Bool) (imm : BitVec 12) (s : State) : Res := onDev (issue t (.imm .roli d a w f imm)) s

/-- CMPI (R84, Table 3-8). -/
def execCmpi (t : Tid) (d : BitVec 5) (a : BitVec 6) (w f : Bool) (imm : BitVec 12) (s : State) : Res := onDev (issue t (.imm .cmpi d a w f imm)) s

/-- TSTI (R84, Table 3-8). -/
def execTsti (t : Tid) (d : BitVec 5) (a : BitVec 6) (w f : Bool) (imm : BitVec 12) (s : State) : Res := onDev (issue t (.imm .tsti d a w f imm)) s

/-- MOVI: IMM16 into halfword HW of Gd (R85). -/
def execMovi (t : Tid) (d : BitVec 5) (hw : BitVec 2) (keep : Bool) (imm : BitVec 16) (s : State) : Res := onDev (issue t (.movi d hw keep imm)) s

/-- EXT (R86, Table 3-9). -/
def execExt (t : Tid) (d : BitVec 5) (a pos lenM1 : BitVec 6) (s : State) : Res := onDev (issue t (.bf .ext d a pos lenM1)) s

/-- EXTS (R86, Table 3-9). -/
def execExts (t : Tid) (d : BitVec 5) (a pos lenM1 : BitVec 6) (s : State) : Res := onDev (issue t (.bf .exts d a pos lenM1)) s

/-- INS (R86, Table 3-9). -/
def execIns (t : Tid) (d : BitVec 5) (a pos lenM1 : BitVec 6) (s : State) : Res := onDev (issue t (.bf .ins d a pos lenM1)) s

/-- EXTH (R86, Table 3-9). -/
def execExth (t : Tid) (d : BitVec 5) (a pos lenM1 : BitVec 6) (s : State) : Res := onDev (issue t (.bf .exth d a pos lenM1)) s

/-- INSH (R86, Table 3-9). -/
def execInsh (t : Tid) (d : BitVec 5) (a pos lenM1 : BitVec 6) (s : State) : Res := onDev (issue t (.bf .insh d a pos lenM1)) s

/-- LD: local memory (R87, R88). -/
def execLd (t : Tid) (d : BitVec 5) (a : BitVec 6) (sz : BitVec 2) (off : BitVec 12) (s : State) : Res := onDev (issue t (.lm .ld d a sz off)) s

/-- LDSX: local memory (R87, R88). -/
def execLdsx (t : Tid) (d : BitVec 5) (a : BitVec 6) (sz : BitVec 2) (off : BitVec 12) (s : State) : Res := onDev (issue t (.lm .ldsx d a sz off)) s

/-- ST: local memory (R87, R88). -/
def execSt (t : Tid) (d : BitVec 5) (a : BitVec 6) (sz : BitVec 2) (off : BitVec 12) (s : State) : Res := onDev (issue t (.lm .st d a sz off)) s

/-- MFS: a special register into Gd (R75). -/
def execMfs (t : Tid) (d : BitVec 5) (srn : BitVec 10) (s : State) : Res := onDev (issue t (.mfs d srn)) s

/-- MTS: FLAGS from a G register (R75). -/
def execMts (t : Tid) (d : BitVec 5) (srn : BitVec 10) (s : State) : Res := onDev (issue t (.mts d srn)) s

/-- BC: branch when COND holds on FLAGS (R91). -/
def execBc (t : Tid) (cond : BitVec 4) (back : Bool) (off : BitVec 16) (s : State) : Res := onDev (issue t (.bc cond back off)) s

/-- BRC: branch forward when COND holds on A - B (R91). -/
def execBrc (t : Tid) (cond : BitVec 4) (a b : BitVec 6) (off : BitVec 9) (s : State) : Res := onDev (issue t (.brc cond a b off)) s

/-- LOOP: the next LEN instructions CNT times (R92). -/
def execLoop (t : Tid) (cntM1 : BitVec 4) (lenM1 : BitVec 6) (s : State) : Res := onDev (issue t (.loop cntM1 lenM1)) s

/-- JAL: G31 = PC + 1, then the target; service threads only (R91, R94). -/
def execJal (t : Tid) (back : Bool) (off : BitVec 16) (s : State) : Res := onDev (issue t (.jal back off)) s

/-- JR: to A[15:0]; service threads only (R91, R94). -/
def execJr (t : Tid) (a : BitVec 6) (s : State) : Res := onDev (issue t (.jr a)) s

end Sys2Proof.Machine
end

