-- ==== Sys2Proof/Machine/WhorlPosted.lean ====
section
/-! DEFINITION. The meanings of STAGE, WAIT, the posted operations, EDIT and the verdicts (chapter 4), each the issue of that
instruction by the thread that the command names. -/

namespace Sys2Proof.Machine

/-- STAGE ends the stage; the thread runs its next stage from the next boundary (R102, R103, R106). -/
def execStage (t : Tid) (s : State) : Res := onDev (issue t .stage) s

/-- WAIT puts a service thread to sleep on a mask of event lines with an optional timeout (R130). -/
def execWait (t : Tid) (a b : BitVec 6) (s : State) : Res := onDev (issue t (.wait a b)) s

/-- LkpMacDst: posts the operation lkpMacDst; it is performed at the boundary that ends the tick (R104, R108). -/
def execLkpMacDst (t : Tid) (pr nM1 : BitVec 3) (a b : BitVec 6) (s : State) : Res := onDev (issue t (.post .lkpMacDst pr nM1 a b)) s

/-- LkpMacSrc: posts the operation lkpMacSrc; it is performed at the boundary that ends the tick (R104, R108). -/
def execLkpMacSrc (t : Tid) (pr nM1 : BitVec 3) (a b : BitVec 6) (s : State) : Res := onDev (issue t (.post .lkpMacSrc pr nM1 a b)) s

/-- LkpLpmIpv4: posts the operation lkpLpm4; it is performed at the boundary that ends the tick (R104, R108). -/
def execLkpLpmIpv4 (t : Tid) (pr nM1 : BitVec 3) (a b : BitVec 6) (s : State) : Res := onDev (issue t (.post .lkpLpm4 pr nM1 a b)) s

/-- LkpLpmIpv6: posts the operation lkpLpm6; it is performed at the boundary that ends the tick (R104, R108). -/
def execLkpLpmIpv6 (t : Tid) (pr nM1 : BitVec 3) (a b : BitVec 6) (s : State) : Res := onDev (issue t (.post .lkpLpm6 pr nM1 a b)) s

/-- LkpTunnelMap: posts the operation lkpTun; it is performed at the boundary that ends the tick (R104, R108). -/
def execLkpTunnelMap (t : Tid) (pr nM1 : BitVec 3) (a b : BitVec 6) (s : State) : Res := onDev (issue t (.post .lkpTun pr nM1 a b)) s

/-- FlowFind: posts the operation flowFind; it is performed at the boundary that ends the tick (R104, R108). -/
def execFlowFind (t : Tid) (pr nM1 : BitVec 3) (a b : BitVec 6) (s : State) : Res := onDev (issue t (.post .flowFind pr nM1 a b)) s

/-- FlowFindOrInsert: posts the operation flowFindIns; it is performed at the boundary that ends the tick (R104, R108). -/
def execFlowFindOrInsert (t : Tid) (pr nM1 : BitVec 3) (a b : BitVec 6) (s : State) : Res := onDev (issue t (.post .flowFindIns pr nM1 a b)) s

/-- FlowUpdate: posts the operation flowUpdate; it is performed at the boundary that ends the tick (R104, R108). -/
def execFlowUpdate (t : Tid) (pr nM1 : BitVec 3) (a b : BitVec 6) (s : State) : Res := onDev (issue t (.post .flowUpdate pr nM1 a b)) s

/-- FlowDelete: posts the operation flowDelete; it is performed at the boundary that ends the tick (R104, R108). -/
def execFlowDelete (t : Tid) (pr nM1 : BitVec 3) (a b : BitVec 6) (s : State) : Res := onDev (issue t (.post .flowDelete pr nM1 a b)) s

/-- CntAdd: posts the operation cntAdd; it is performed at the boundary that ends the tick (R104, R108). -/
def execCntAdd (t : Tid) (pr nM1 : BitVec 3) (a b : BitVec 6) (s : State) : Res := onDev (issue t (.post .cntAdd pr nM1 a b)) s

/-- CntRead: posts the operation cntRead; it is performed at the boundary that ends the tick (R104, R108). -/
def execCntRead (t : Tid) (pr nM1 : BitVec 3) (a b : BitVec 6) (s : State) : Res := onDev (issue t (.post .cntRead pr nM1 a b)) s

/-- Mtr: posts the operation mtr; it is performed at the boundary that ends the tick (R104, R108). -/
def execMtr (t : Tid) (pre : BitVec 2) (pr nM1 : BitVec 3) (a b : BitVec 6) (s : State) : Res := onDev (issue t (.post (.mtr pre) pr nM1 a b)) s

/-- Hash: posts the operation hash; it is performed at the boundary that ends the tick (R104, R108). -/
def execHash (t : Tid) (key : BitVec 2) (pr nM1 : BitVec 3) (a b : BitVec 6) (s : State) : Res := onDev (issue t (.post (.hash key) pr nM1 a b)) s

/-- LockAcq: posts the operation lockAcq; it is performed at the boundary that ends the tick (R104, R108). -/
def execLockAcq (t : Tid) (pr nM1 : BitVec 3) (a b : BitVec 6) (s : State) : Res := onDev (issue t (.post .lockAcq pr nM1 a b)) s

/-- LockTry: posts the operation lockTry; it is performed at the boundary that ends the tick (R104, R108). -/
def execLockTry (t : Tid) (pr nM1 : BitVec 3) (a b : BitVec 6) (s : State) : Res := onDev (issue t (.post .lockTry pr nM1 a b)) s

/-- LockRel: posts the operation lockRel; it is performed at the boundary that ends the tick (R104, R108). -/
def execLockRel (t : Tid) (pr nM1 : BitVec 3) (a b : BitVec 6) (s : State) : Res := onDev (issue t (.post .lockRel pr nM1 a b)) s

/-- LockPoll: posts the operation lockPoll; it is performed at the boundary that ends the tick (R104, R108). -/
def execLockPoll (t : Tid) (pr nM1 : BitVec 3) (a b : BitVec 6) (s : State) : Res := onDev (issue t (.post .lockPoll pr nM1 a b)) s

/-- ChanOpen: posts the operation chanOpen; it is performed at the boundary that ends the tick (R104, R108). -/
def execChanOpen (t : Tid) (pr nM1 : BitVec 3) (a b : BitVec 6) (s : State) : Res := onDev (issue t (.post .chanOpen pr nM1 a b)) s

/-- ChanWrite: posts the operation chanWrite; it is performed at the boundary that ends the tick (R104, R108). -/
def execChanWrite (t : Tid) (word : Fin 7) (pr nM1 : BitVec 3) (a b : BitVec 6) (s : State) : Res := onDev (issue t (.post (.chanWrite word) pr nM1 a b)) s

/-- ChanCommit: posts the operation chanCommit; it is performed at the boundary that ends the tick (R104, R108). -/
def execChanCommit (t : Tid) (pr nM1 : BitVec 3) (a b : BitVec 6) (s : State) : Res := onDev (issue t (.post .chanCommit pr nM1 a b)) s

/-- ChanRead: posts the operation chanRead; it is performed at the boundary that ends the tick (R104, R108). -/
def execChanRead (t : Tid) (pr nM1 : BitVec 3) (a b : BitVec 6) (s : State) : Res := onDev (issue t (.post .chanRead pr nM1 a b)) s

/-- CattAttach: posts the operation cattAttach; it is performed at the boundary that ends the tick (R104, R108). -/
def execCattAttach (t : Tid) (pr nM1 : BitVec 3) (a b : BitVec 6) (s : State) : Res := onDev (issue t (.post .cattAttach pr nM1 a b)) s

/-- CattDetach: posts the operation cattDetach; it is performed at the boundary that ends the tick (R104, R108). -/
def execCattDetach (t : Tid) (pr nM1 : BitVec 3) (a b : BitVec 6) (s : State) : Res := onDev (issue t (.post .cattDetach pr nM1 a b)) s

/-- Mrd: posts the operation mrd; it is performed at the boundary that ends the tick (R104, R108). -/
def execMrd (t : Tid) (pr nM1 : BitVec 3) (a b : BitVec 6) (s : State) : Res := onDev (issue t (.post .mrd pr nM1 a b)) s

/-- Mwr: posts the operation mwr; it is performed at the boundary that ends the tick (R104, R108). -/
def execMwr (t : Tid) (sz : BitVec 2) (pr nM1 : BitVec 3) (a b : BitVec 6) (s : State) : Res := onDev (issue t (.post (.mwr sz) pr nM1 a b)) s

/-- MatAdd: posts the operation matAdd; it is performed at the boundary that ends the tick (R104, R108). -/
def execMatAdd (t : Tid) (pr nM1 : BitVec 3) (a b : BitVec 6) (s : State) : Res := onDev (issue t (.post .matAdd pr nM1 a b)) s

/-- MatSwap: posts the operation matSwap; it is performed at the boundary that ends the tick (R104, R108). -/
def execMatSwap (t : Tid) (pr nM1 : BitVec 3) (a b : BitVec 6) (s : State) : Res := onDev (issue t (.post .matSwap pr nM1 a b)) s

/-- MatCas: posts the operation matCas; it is performed at the boundary that ends the tick (R104, R108). -/
def execMatCas (t : Tid) (pr nM1 : BitVec 3) (a b : BitVec 6) (s : State) : Res := onDev (issue t (.post .matCas pr nM1 a b)) s

/-- MatOr: posts the operation matOr; it is performed at the boundary that ends the tick (R104, R108). -/
def execMatOr (t : Tid) (pr nM1 : BitVec 3) (a b : BitVec 6) (s : State) : Res := onDev (issue t (.post .matOr pr nM1 a b)) s

/-- MatAnd: posts the operation matAnd; it is performed at the boundary that ends the tick (R104, R108). -/
def execMatAnd (t : Tid) (pr nM1 : BitVec 3) (a b : BitVec 6) (s : State) : Res := onDev (issue t (.post .matAnd pr nM1 a b)) s

/-- FrmAlloc: posts the operation frmAlloc; it is performed at the boundary that ends the tick (R104, R108). -/
def execFrmAlloc (t : Tid) (pr nM1 : BitVec 3) (a b : BitVec 6) (s : State) : Res := onDev (issue t (.post .frmAlloc pr nM1 a b)) s

/-- FrmSend: posts the operation frmSend; it is performed at the boundary that ends the tick (R104, R108). -/
def execFrmSend (t : Tid) (pr nM1 : BitVec 3) (a b : BitVec 6) (s : State) : Res := onDev (issue t (.post .frmSend pr nM1 a b)) s

/-- FrmFree: posts the operation frmFree; it is performed at the boundary that ends the tick (R104, R108). -/
def execFrmFree (t : Tid) (pr nM1 : BitVec 3) (a b : BitVec 6) (s : State) : Res := onDev (issue t (.post .frmFree pr nM1 a b)) s

/-- EDIT appends an entry to the skein's edit list (R125). -/
def execEdit (t : Tid) (eop : BitVec 5) (a : BitVec 6) (imm : BitVec 14) (s : State) : Res := onDev (issue t (.edit eop a imm)) s

/-- FWD: the verdict ends the skein and the stage (R127, Table 4-8). -/
def execFwd (t : Tid) (a b : BitVec 6) (imm : BitVec 8) (s : State) : Res := onDev (issue t (.verdict .fwd a b imm)) s

/-- MCAST: the verdict ends the skein and the stage (R127, Table 4-8). -/
def execMcast (t : Tid) (a b : BitVec 6) (imm : BitVec 8) (s : State) : Res := onDev (issue t (.verdict .mcast a b imm)) s

/-- HOST: the verdict ends the skein and the stage (R127, Table 4-8). -/
def execHost (t : Tid) (a b : BitVec 6) (imm : BitVec 8) (s : State) : Res := onDev (issue t (.verdict .host a b imm)) s

/-- PUNT: the verdict ends the skein and the stage (R127, Table 4-8). -/
def execPunt (t : Tid) (a b : BitVec 6) (imm : BitVec 8) (s : State) : Res := onDev (issue t (.verdict .punt a b imm)) s

/-- RECIRC: the verdict ends the skein and the stage (R127, Table 4-8). -/
def execRecirc (t : Tid) (a b : BitVec 6) (imm : BitVec 8) (s : State) : Res := onDev (issue t (.verdict .recirc a b imm)) s

/-- BLOCK: the verdict ends the skein and the stage (R127, Table 4-8). -/
def execBlock (t : Tid) (a b : BitVec 6) (imm : BitVec 8) (s : State) : Res := onDev (issue t (.verdict .block a b imm)) s

/-- DROP: the verdict ends the skein and the stage (R127, Table 4-8). -/
def execDrop (t : Tid) (a b : BitVec 6) (imm : BitVec 8) (s : State) : Res := onDev (issue t (.verdict .drop a b imm)) s

end Sys2Proof.Machine
end

