-- ==== Sys2Proof/Machine/Dispatch.lean ====
section
/-! DEFINITION. The dispatch: one arm per command, each one call of its meaning. -/

namespace Sys2Proof.Machine

open Sys2Proof

def exec (i : Instr) (s : State) : Host.Outcome State Fault Refusal :=
  match i with
  -- chapter 1: the tick, registers, network ports
  | .tickBoundary => Sys2Proof.Machine.execTickBoundary s
  | .tickCntLoRead p => Sys2Proof.Machine.execTickCntLoRead p s
  | .lowWordRead p a => Sys2Proof.Machine.execLowWordRead p a s
  | .registerWrite p checked a v => Sys2Proof.Machine.execRegisterWrite p checked a v s
  | .counterSatClear p a => Sys2Proof.Machine.execCounterSatClear p a s
  | .npPortModeWrite x mode => Sys2Proof.Machine.execNpPortModeWrite x mode s
  | .portAdminUp x => Sys2Proof.Machine.execPortAdminUp x s
  | .portAdminDown x => Sys2Proof.Machine.execPortAdminDown x s
  -- chapter 2: spindles, threads, reels
  | .droopSkip cycle => Sys2Proof.Machine.execDroopSkip cycle s
  | .stageOverrun t => Sys2Proof.Machine.execStageOverrun t s
  | .dbgHalt t capture => Sys2Proof.Machine.execDbgHalt t capture s
  | .breakpointHalt t => Sys2Proof.Machine.execBreakpointHalt t s
  | .dbgStep t capture => Sys2Proof.Machine.execDbgStep t capture s
  | .dbgResume t capture => Sys2Proof.Machine.execDbgResume t capture s
  | .captureFree => Sys2Proof.Machine.execCaptureFree s
  | .reelLoad r => Sys2Proof.Machine.execReelLoad r s
  | .reelLoadDone r testOk => Sys2Proof.Machine.execReelLoadDone r testOk s
  | .reelAdmit r => Sys2Proof.Machine.execReelAdmit r s
  | .reelDrain r => Sys2Proof.Machine.execReelDrain r s
  | .reelRetiredAfterDrain r => Sys2Proof.Machine.execReelRetiredAfterDrain r s
  | .reelReset r => Sys2Proof.Machine.execReelReset r s
  | .reelFault r => Sys2Proof.Machine.execReelFault r s
  | .spareAdmit r => Sys2Proof.Machine.execSpareAdmit r s
  -- chapter 3: Whorl local instructions, each issued by one thread
  | .illegalInstruction t word => Sys2Proof.Machine.execIllegalInstruction t word s
  | .nop t => Sys2Proof.Machine.execNop t s
  | .add t d a b w f => Sys2Proof.Machine.execAdd t d a b w f s
  | .sub t d a b w f => Sys2Proof.Machine.execSub t d a b w f s
  | .and t d a b w f => Sys2Proof.Machine.execAnd t d a b w f s
  | .or t d a b w f => Sys2Proof.Machine.execOr t d a b w f s
  | .xor t d a b w f => Sys2Proof.Machine.execXor t d a b w f s
  | .andn t d a b w f => Sys2Proof.Machine.execAndn t d a b w f s
  | .shl t d a b w f => Sys2Proof.Machine.execShl t d a b w f s
  | .shr t d a b w f => Sys2Proof.Machine.execShr t d a b w f s
  | .sar t d a b w f => Sys2Proof.Machine.execSar t d a b w f s
  | .rol t d a b w f => Sys2Proof.Machine.execRol t d a b w f s
  | .minu t d a b w f => Sys2Proof.Machine.execMinu t d a b w f s
  | .maxu t d a b w f => Sys2Proof.Machine.execMaxu t d a b w f s
  | .mul t d a b w f => Sys2Proof.Machine.execMul t d a b w f s
  | .csum t d a b w f => Sys2Proof.Machine.execCsum t d a b w f s
  | .cmp t d a b w f => Sys2Proof.Machine.execCmp t d a b w f s
  | .tst t d a b w f => Sys2Proof.Machine.execTst t d a b w f s
  | .clz t d a w f => Sys2Proof.Machine.execClz t d a w f s
  | .popc t d a w f => Sys2Proof.Machine.execPopc t d a w f s
  | .bswap t d a w f => Sys2Proof.Machine.execBswap t d a w f s
  | .sel t d a b w cond => Sys2Proof.Machine.execSel t d a b w cond s
  | .addi t d a w f imm => Sys2Proof.Machine.execAddi t d a w f imm s
  | .subi t d a w f imm => Sys2Proof.Machine.execSubi t d a w f imm s
  | .andi t d a w f imm => Sys2Proof.Machine.execAndi t d a w f imm s
  | .ori t d a w f imm => Sys2Proof.Machine.execOri t d a w f imm s
  | .xori t d a w f imm => Sys2Proof.Machine.execXori t d a w f imm s
  | .shli t d a w f imm => Sys2Proof.Machine.execShli t d a w f imm s
  | .shri t d a w f imm => Sys2Proof.Machine.execShri t d a w f imm s
  | .sari t d a w f imm => Sys2Proof.Machine.execSari t d a w f imm s
  | .roli t d a w f imm => Sys2Proof.Machine.execRoli t d a w f imm s
  | .cmpi t d a w f imm => Sys2Proof.Machine.execCmpi t d a w f imm s
  | .tsti t d a w f imm => Sys2Proof.Machine.execTsti t d a w f imm s
  | .movi t d hw keep imm => Sys2Proof.Machine.execMovi t d hw keep imm s
  | .ext t d a pos lenM1 => Sys2Proof.Machine.execExt t d a pos lenM1 s
  | .exts t d a pos lenM1 => Sys2Proof.Machine.execExts t d a pos lenM1 s
  | .ins t d a pos lenM1 => Sys2Proof.Machine.execIns t d a pos lenM1 s
  | .exth t d a pos lenM1 => Sys2Proof.Machine.execExth t d a pos lenM1 s
  | .insh t d a pos lenM1 => Sys2Proof.Machine.execInsh t d a pos lenM1 s
  | .ld t d a sz off => Sys2Proof.Machine.execLd t d a sz off s
  | .ldsx t d a sz off => Sys2Proof.Machine.execLdsx t d a sz off s
  | .st t d a sz off => Sys2Proof.Machine.execSt t d a sz off s
  | .mfs t d srn => Sys2Proof.Machine.execMfs t d srn s
  | .mts t d srn => Sys2Proof.Machine.execMts t d srn s
  | .bc t cond back off => Sys2Proof.Machine.execBc t cond back off s
  | .brc t cond a b off => Sys2Proof.Machine.execBrc t cond a b off s
  | .loop t cntM1 lenM1 => Sys2Proof.Machine.execLoop t cntM1 lenM1 s
  | .jal t back off => Sys2Proof.Machine.execJal t back off s
  | .jr t a => Sys2Proof.Machine.execJr t a s
  -- chapter 4: stages, WAIT, posted operations, EDIT, verdicts
  | .stage t => Sys2Proof.Machine.execStage t s
  | .wait t a b => Sys2Proof.Machine.execWait t a b s
  | .waitTimeout t => Sys2Proof.Machine.execWaitTimeout t s
  | .lkpMacDst t pr nM1 a b => Sys2Proof.Machine.execLkpMacDst t pr nM1 a b s
  | .lkpMacSrc t pr nM1 a b => Sys2Proof.Machine.execLkpMacSrc t pr nM1 a b s
  | .lkpLpmIpv4 t pr nM1 a b => Sys2Proof.Machine.execLkpLpmIpv4 t pr nM1 a b s
  | .lkpLpmIpv6 t pr nM1 a b => Sys2Proof.Machine.execLkpLpmIpv6 t pr nM1 a b s
  | .lkpTunnelMap t pr nM1 a b => Sys2Proof.Machine.execLkpTunnelMap t pr nM1 a b s
  | .flowFind t pr nM1 a b => Sys2Proof.Machine.execFlowFind t pr nM1 a b s
  | .flowFindOrInsert t pr nM1 a b => Sys2Proof.Machine.execFlowFindOrInsert t pr nM1 a b s
  | .flowUpdate t pr nM1 a b => Sys2Proof.Machine.execFlowUpdate t pr nM1 a b s
  | .flowDelete t pr nM1 a b => Sys2Proof.Machine.execFlowDelete t pr nM1 a b s
  | .cntAdd t pr nM1 a b => Sys2Proof.Machine.execCntAdd t pr nM1 a b s
  | .cntRead t pr nM1 a b => Sys2Proof.Machine.execCntRead t pr nM1 a b s
  | .mtr t pre pr nM1 a b => Sys2Proof.Machine.execMtr t pre pr nM1 a b s
  | .hash t key pr nM1 a b => Sys2Proof.Machine.execHash t key pr nM1 a b s
  | .lockAcq t pr nM1 a b => Sys2Proof.Machine.execLockAcq t pr nM1 a b s
  | .lockTry t pr nM1 a b => Sys2Proof.Machine.execLockTry t pr nM1 a b s
  | .lockRel t pr nM1 a b => Sys2Proof.Machine.execLockRel t pr nM1 a b s
  | .lockPoll t pr nM1 a b => Sys2Proof.Machine.execLockPoll t pr nM1 a b s
  | .lockRequestExpiry t => Sys2Proof.Machine.execLockRequestExpiry t s
  | .chanOpen t pr nM1 a b => Sys2Proof.Machine.execChanOpen t pr nM1 a b s
  | .chanWrite t word pr nM1 a b => Sys2Proof.Machine.execChanWrite t word pr nM1 a b s
  | .chanCommit t pr nM1 a b => Sys2Proof.Machine.execChanCommit t pr nM1 a b s
  | .chanRead t pr nM1 a b => Sys2Proof.Machine.execChanRead t pr nM1 a b s
  | .chanPublishTimeout c => Sys2Proof.Machine.execChanPublishTimeout c s
  | .cattAttach t pr nM1 a b => Sys2Proof.Machine.execCattAttach t pr nM1 a b s
  | .cattDetach t pr nM1 a b => Sys2Proof.Machine.execCattDetach t pr nM1 a b s
  | .mrd t pr nM1 a b => Sys2Proof.Machine.execMrd t pr nM1 a b s
  | .mwr t sz pr nM1 a b => Sys2Proof.Machine.execMwr t sz pr nM1 a b s
  | .matAdd t pr nM1 a b => Sys2Proof.Machine.execMatAdd t pr nM1 a b s
  | .matSwap t pr nM1 a b => Sys2Proof.Machine.execMatSwap t pr nM1 a b s
  | .matCas t pr nM1 a b => Sys2Proof.Machine.execMatCas t pr nM1 a b s
  | .matOr t pr nM1 a b => Sys2Proof.Machine.execMatOr t pr nM1 a b s
  | .matAnd t pr nM1 a b => Sys2Proof.Machine.execMatAnd t pr nM1 a b s
  | .frmAlloc t pr nM1 a b => Sys2Proof.Machine.execFrmAlloc t pr nM1 a b s
  | .frmSend t pr nM1 a b => Sys2Proof.Machine.execFrmSend t pr nM1 a b s
  | .frmFree t pr nM1 a b => Sys2Proof.Machine.execFrmFree t pr nM1 a b s
  | .frmPoolCfgWrite base v => Sys2Proof.Machine.execFrmPoolCfgWrite base v s
  | .edit t eop a imm => Sys2Proof.Machine.execEdit t eop a imm s
  | .fwd t a b imm => Sys2Proof.Machine.execFwd t a b imm s
  | .mcast t a b imm => Sys2Proof.Machine.execMcast t a b imm s
  | .host t a b imm => Sys2Proof.Machine.execHost t a b imm s
  | .punt t a b imm => Sys2Proof.Machine.execPunt t a b imm s
  | .recirc t a b imm => Sys2Proof.Machine.execRecirc t a b imm s
  | .block t a b imm => Sys2Proof.Machine.execBlock t a b imm s
  | .drop t a b imm => Sys2Proof.Machine.execDrop t a b imm s
  -- chapter 5: locks, channels, events, the doldrums detector
  | .lockCfgWrite l v => Sys2Proof.Machine.execLockCfgWrite l v s
  | .lockPoisonClear l => Sys2Proof.Machine.execLockPoisonClear l s
  | .chanCfgWrite c cfg1 v => Sys2Proof.Machine.execChanCfgWrite c cfg1 v s
  | .evtBindWrite t line v => Sys2Proof.Machine.execEvtBindWrite t line v s
  | .wgCfgWrite g v => Sys2Proof.Machine.execWgCfgWrite g v s
  | .doldrums g => Sys2Proof.Machine.execDoldrums g s
  -- chapters 1, 5, 6: frames, punt storage, parse and edit banks, the editor
  | .frameArrival j bytes off => Sys2Proof.Machine.execFrameArrival j bytes off s
  | .parsePresent f => Sys2Proof.Machine.execParsePresent f s
  | .frameEndBad f why len => Sys2Proof.Machine.execFrameEndBad f why len s
  | .puntStore c => Sys2Proof.Machine.execPuntStore c s
  | .swPeCommit => Sys2Proof.Machine.execSwPeCommit s
  | .bankSyncDone => Sys2Proof.Machine.execBankSyncDone s
  | .standbyBankWrite a v => Sys2Proof.Machine.execStandbyBankWrite a v s
  | .editorTake c => Sys2Proof.Machine.execEditorTake c s
  -- chapter 7: table commands, learn rings, comb, flow backing
  | .lkRead k table byIx ix => Sys2Proof.Machine.execLkRead k table byIx ix s
  | .lkWrite k table byIx ix => Sys2Proof.Machine.execLkWrite k table byIx ix s
  | .lkInsert k table byIx ix => Sys2Proof.Machine.execLkInsert k table byIx ix s
  | .lkDelete k table byIx ix => Sys2Proof.Machine.execLkDelete k table byIx ix s
  | .lkCas k table byIx ix => Sys2Proof.Machine.execLkCas k table byIx ix s
  | .lkRingCfgWrite r v => Sys2Proof.Machine.execLkRingCfgWrite r v s
  | .combVisit t => Sys2Proof.Machine.execCombVisit t s
  | .hbmSweepVisit => Sys2Proof.Machine.execHbmSweepVisit s
  | .flowPromotionDone hi lo => Sys2Proof.Machine.execFlowPromotionDone hi lo s
  | .demotionWriteDone hi lo => Sys2Proof.Machine.execDemotionWriteDone hi lo s
  | .flowCfgWrite v => Sys2Proof.Machine.execFlowCfgWrite v s
  | .flowInitDone => Sys2Proof.Machine.execFlowInitDone s
  -- chapters 8 and 9: waft, crossbar, links of ports, multicast groups, commits, meters, sampler
  | .waftGapExpiry j => Sys2Proof.Machine.execWaftGapExpiry j s
  | .waftStore c => Sys2Proof.Machine.execWaftStore c s
  | .cellReady f => Sys2Proof.Machine.execCellReady f s
  | .cellTime => Sys2Proof.Machine.execCellTime s
  | .egressTxStart d => Sys2Proof.Machine.execEgressTxStart d s
  | .destFreeze d => Sys2Proof.Machine.execDestFreeze d s
  | .destUnfreeze d => Sys2Proof.Machine.execDestUnfreeze d s
  | .linkDown p => Sys2Proof.Machine.execLinkDown p s
  | .linkUp p => Sys2Proof.Machine.execLinkUp p s
  | .flapHoldExpiry p => Sys2Proof.Machine.execFlapHoldExpiry p s
  | .mcRead g => Sys2Proof.Machine.execMcRead g s
  | .mcWrite g => Sys2Proof.Machine.execMcWrite g s
  | .swCommit => Sys2Proof.Machine.execSwCommit s
  | .tkCommit => Sys2Proof.Machine.execTkCommit s
  | .lkCommit => Sys2Proof.Machine.execLkCommit s
  | .scCommit => Sys2Proof.Machine.execScCommit s
  | .ciCommit => Sys2Proof.Machine.execCiCommit s
  | .bsCommit => Sys2Proof.Machine.execBsCommit s
  | .mtrRead m => Sys2Proof.Machine.execMtrRead m s
  | .mtrWrite m => Sys2Proof.Machine.execMtrWrite m s
  | .sampleVisit => Sys2Proof.Machine.execSampleVisit s
  | .smpCfgWrite v => Sys2Proof.Machine.execSmpCfgWrite v s
  -- chapter 10: the Bamura link
  | .blFrameReceive h bytes fcsOk => Sys2Proof.Machine.execBlFrameReceive h bytes fcsOk s
  | .dataFrameReceive h hdr recs pastEnd => Sys2Proof.Machine.execDataFrameReceive h hdr recs pastEnd s
  | .controlFrameReceive h hdr => Sys2Proof.Machine.execControlFrameReceive h hdr s
  | .initFrameReceive h hdr body => Sys2Proof.Machine.execInitFrameReceive h hdr body s
  | .linkEnterActive h => Sys2Proof.Machine.execLinkEnterActive h s
  | .pcsAlign h => Sys2Proof.Machine.execPcsAlign h s
  | .pcsLoss h => Sys2Proof.Machine.execPcsLoss h s
  | .initSend h => Sys2Proof.Machine.execInitSend h s
  | .dataFrameSend h vcs => Sys2Proof.Machine.execDataFrameSend h vcs s
  | .ackSend h => Sys2Proof.Machine.execAckSend h s
  | .replayTimeout h => Sys2Proof.Machine.execReplayTimeout h s
  | .endpointLost h => Sys2Proof.Machine.execEndpointLost h s
  | .cplRecord h r => Sys2Proof.Machine.execCplRecord h r s
  | .wackRecord h r => Sys2Proof.Machine.execWackRecord h r s
  | .cplTimeout h => Sys2Proof.Machine.execCplTimeout h s
  | .mbrRecord h r => Sys2Proof.Machine.execMbrRecord h r s
  | .mbwRecord h r => Sys2Proof.Machine.execMbwRecord h r s
  | .dbRecord h r => Sys2Proof.Machine.execDbRecord h r s
  | .pingRecord h r => Sys2Proof.Machine.execPingRecord h r s
  | .resetNotice h r => Sys2Proof.Machine.execResetNotice h r s
  | .sigSend h vport vec => Sys2Proof.Machine.execSigSend h vport vec s
  | .blCfgWrite h v => Sys2Proof.Machine.execBlCfgWrite h v s
  -- chapter 11: vports, rings, bobbins
  | .vportReset p => Sys2Proof.Machine.execVportReset p s
  | .vportResetDone p => Sys2Proof.Machine.execVportResetDone p s
  | .reattach p => Sys2Proof.Machine.execReattach p s
  | .reattachDone p => Sys2Proof.Machine.execReattachDone p s
  | .orphanHoldExpiry p => Sys2Proof.Machine.execOrphanHoldExpiry p s
  | .sendJobComplete q => Sys2Proof.Machine.execSendJobComplete q s
  | .rxComplete q => Sys2Proof.Machine.execRxComplete q s
  | .rxHoldExpiry c => Sys2Proof.Machine.execRxHoldExpiry c s
  | .cqStall c => Sys2Proof.Machine.execCqStall c s
  | .sigUnmask p vec => Sys2Proof.Machine.execSigUnmask p vec s
  | .qctxRead kind q => Sys2Proof.Machine.execQctxRead kind q s
  | .qctxWrite kind q => Sys2Proof.Machine.execQctxWrite kind q s
  | .qctxEnable kind q => Sys2Proof.Machine.execQctxEnable kind q s
  | .qctxDisable kind q => Sys2Proof.Machine.execQctxDisable kind q s
  | .bobbinStart b => Sys2Proof.Machine.execBobbinStart b s
  | .bobbinResume b => Sys2Proof.Machine.execBobbinResume b s
  | .bobbinAbort b => Sys2Proof.Machine.execBobbinAbort b s
  | .bobbinPause b => Sys2Proof.Machine.execBobbinPause b s
  | .bobbinUnpause b => Sys2Proof.Machine.execBobbinUnpause b s
  | .bbCfgWrite v => Sys2Proof.Machine.execBbCfgWrite v s
  -- chapter 12: cipher clusters
  | .ingressDecrypt f => Sys2Proof.Machine.execIngressDecrypt f s
  | .ingressTagVerify f => Sys2Proof.Machine.execIngressTagVerify f s
  | .egressProtect c => Sys2Proof.Machine.execEgressProtect c s
  | .leaseWriteDone sa => Sys2Proof.Machine.execLeaseWriteDone sa s
  | .keyFillDone sa => Sys2Proof.Machine.execKeyFillDone sa s
  | .keyMissTimeout egress id => Sys2Proof.Machine.execKeyMissTimeout egress id s
  | .saRead sa => Sys2Proof.Machine.execSaRead sa s
  | .saDisable sa => Sys2Proof.Machine.execSaDisable sa s
  | .saSetSoft sa => Sys2Proof.Machine.execSaSetSoft sa s
  | .saEvict sa => Sys2Proof.Machine.execSaEvict sa s
  | .ciRekeyQRead p => Sys2Proof.Machine.execCiRekeyQRead p s
  -- chapter 13: the block service
  | .nvmeCmdFetch x => Sys2Proof.Machine.execNvmeCmdFetch x s
  | .nvmeFlush x => Sys2Proof.Machine.execNvmeFlush x s
  | .nvmeWrite x => Sys2Proof.Machine.execNvmeWrite x s
  | .nvmeRead x => Sys2Proof.Machine.execNvmeRead x s
  | .nvmeWriteZeroes x => Sys2Proof.Machine.execNvmeWriteZeroes x s
  | .nvmeDatasetManagement x => Sys2Proof.Machine.execNvmeDatasetManagement x s
  | .cqeWrite x => Sys2Proof.Machine.execCqeWrite x s
  | .tcpSegmentReceive c => Sys2Proof.Machine.execTcpSegmentReceive c s
  | .tcpRetransmitTimeout c => Sys2Proof.Machine.execTcpRetransmitTimeout c s
  | .ioTimeout c => Sys2Proof.Machine.execIoTimeout c s
  | .bsRead table j => Sys2Proof.Machine.execBsRead table j s
  | .bsWrite table j => Sys2Proof.Machine.execBsWrite table j s
  | .connOpen c => Sys2Proof.Machine.execConnOpen c s
  | .connClose c => Sys2Proof.Machine.execConnClose c s
  | .connReset c => Sys2Proof.Machine.execConnReset c s
  | .adminTxPost v => Sys2Proof.Machine.execAdminTxPost v s
  | .bsLockedRead p => Sys2Proof.Machine.execBsLockedRead p s
  -- chapter 14: freeze, save, migration
  | .freeze p => Sys2Proof.Machine.execFreeze p s
  | .thaw p => Sys2Proof.Machine.execThaw p s
  | .save p => Sys2Proof.Machine.execSave p s
  | .saveWritten => Sys2Proof.Machine.execSaveWritten s
  | .vportDrained p => Sys2Proof.Machine.execVportDrained p s
  | .freezeHoldExpiry c => Sys2Proof.Machine.execFreezeHoldExpiry c s
  | .migOffer => Sys2Proof.Machine.execMigOffer s
  | .migAccept => Sys2Proof.Machine.execMigAccept s
  | .migRestore => Sys2Proof.Machine.execMigRestore s
  | .restoreDone => Sys2Proof.Machine.execRestoreDone s
  | .migClose => Sys2Proof.Machine.execMigClose s
  -- chapter 15: the control path
  | .cmdFrameReceive p bytes => Sys2Proof.Machine.execCmdFrameReceive p bytes s
  | .cmdTake => Sys2Proof.Machine.execCmdTake s
  | .status => Sys2Proof.Machine.execStatus s
  | .regRead => Sys2Proof.Machine.execRegRead s
  | .regWrite => Sys2Proof.Machine.execRegWrite s
  | .attest => Sys2Proof.Machine.execAttest s
  | .identityGet => Sys2Proof.Machine.execIdentityGet s
  | .imgStage => Sys2Proof.Machine.execImgStage s
  | .imgActivate => Sys2Proof.Machine.execImgActivate s
  | .imgFlashWriteDone => Sys2Proof.Machine.execImgFlashWriteDone s
  | .keyInstall => Sys2Proof.Machine.execKeyInstall s
  | .ctlkeySet => Sys2Proof.Machine.execCtlkeySet s
  | .vportCreate => Sys2Proof.Machine.execVportCreate s
  | .vportDestroy => Sys2Proof.Machine.execVportDestroy s
  | .isolation => Sys2Proof.Machine.execIsolation s
  | .debugEnable => Sys2Proof.Machine.execDebugEnable s
  | .gangCfg => Sys2Proof.Machine.execGangCfg s
  | .rollbackAdvance => Sys2Proof.Machine.execRollbackAdvance s
  | .rollbackFusesDone => Sys2Proof.Machine.execRollbackFusesDone s
  | .migSession => Sys2Proof.Machine.execMigSession s
  | .provision => Sys2Proof.Machine.execProvision s
  | .ctCmdCfgWrite counter high v => Sys2Proof.Machine.execCtCmdCfgWrite counter high v s
  | .ctLockWrite counter v => Sys2Proof.Machine.execCtLockWrite counter v s
  | .trngHealthFail => Sys2Proof.Machine.execTrngHealthFail s
  -- chapter 18: the fault tree, memories, margins
  | .eventNotice => Sys2Proof.Machine.execEventNotice s
  | .ftLogRead p => Sys2Proof.Machine.execFtLogRead p s
  | .ftCntCfgWrite v => Sys2Proof.Machine.execFtCntCfgWrite v s
  | .cntAreaInitDone => Sys2Proof.Machine.execCntAreaInitDone s
  | .ftCntRdRead p => Sys2Proof.Machine.execFtCntRdRead p s
  | .memCorrectable m => Sys2Proof.Machine.execMemCorrectable m s
  | .memUncorrectable m => Sys2Proof.Machine.execMemUncorrectable m s
  | .hbmChannelFail ch => Sys2Proof.Machine.execHbmChannelFail ch s
  | .hbmSpareDone => Sys2Proof.Machine.execHbmSpareDone s
  | .marginMeasure m => Sys2Proof.Machine.execMarginMeasure m s
  | .marginSettleExpiry m => Sys2Proof.Machine.execMarginSettleExpiry m s
  | .thermtrip => Sys2Proof.Machine.execThermtrip s
  -- chapter 16: mailboxes, doorbell bits, power
  | .mbInWrite p tag w => Sys2Proof.Machine.execMbInWrite p tag w s
  | .mbInStatusRead p tag => Sys2Proof.Machine.execMbInStatusRead p tag s
  | .mbOutRead p tag => Sys2Proof.Machine.execMbOutRead p tag s
  | .fwMbInRead pth p => Sys2Proof.Machine.execFwMbInRead pth p s
  | .fwMbOutWrite pth p w => Sys2Proof.Machine.execFwMbOutWrite pth p w s
  | .crossed p => Sys2Proof.Machine.execCrossed p s
  | .dbbWrite p tag w => Sys2Proof.Machine.execDbbWrite p tag w s
  | .dbbSet r w => Sys2Proof.Machine.execDbbSet r w s
  | .rcvCfgWrite r v => Sys2Proof.Machine.execRcvCfgWrite r v s
  | .domainSleepRequest p => Sys2Proof.Machine.execDomainSleepRequest p s
  | .domainSleepEntry p => Sys2Proof.Machine.execDomainSleepEntry p s
  | .wakeRequest p => Sys2Proof.Machine.execWakeRequest p s
  | .gustAdmit => Sys2Proof.Machine.execGustAdmit s
  | .domainAwake p => Sys2Proof.Machine.execDomainAwake p s
  | .sagEntry => Sys2Proof.Machine.execSagEntry s
  | .sagExit belowNs => Sys2Proof.Machine.execSagExit belowNs s
  -- chapter 17: time and gang
  | .timeStepGo load => Sys2Proof.Machine.execTimeStepGo load s
  | .ppsOutEdge => Sys2Proof.Machine.execPpsOutEdge s
  | .ppsInEdge falling ps => Sys2Proof.Machine.execPpsInEdge falling ps s
  | .txTimestampPoint c ps => Sys2Proof.Machine.execTxTimestampPoint c ps s
  | .tmTxtsRead pth n => Sys2Proof.Machine.execTmTxtsRead pth n s
  | .tmNowFracRead pth => Sys2Proof.Machine.execTmNowFracRead pth s
  | .gangFrameReceive n bytes => Sys2Proof.Machine.execGangFrameReceive n bytes s
  -- chapters 19 and 20: resets, bring-up, pins
  | .powerOnReset bootSel rungInit cpMedia => Sys2Proof.Machine.execPowerOnReset bootSel rungInit cpMedia s
  | .pllLock entropyOk ms => Sys2Proof.Machine.execPllLock entropyOk ms s
  | .undervoltageReset => Sys2Proof.Machine.execUndervoltageReset s
  | .undervoltageRelease => Sys2Proof.Machine.execUndervoltageRelease s
  | .deviceResetCmd counter => Sys2Proof.Machine.execDeviceResetCmd counter s
  | .hostPortDomainReset h => Sys2Proof.Machine.execHostPortDomainReset h s
  | .clusterDomainReset c => Sys2Proof.Machine.execClusterDomainReset c s
  | .domainResetEnd => Sys2Proof.Machine.execDomainResetEnd s
  | .imageFetchDone => Sys2Proof.Machine.execImageFetchDone s
  | .porstNLow => Sys2Proof.Machine.execPorstNLow s
  | .thermtripNRelease => Sys2Proof.Machine.execThermtripNRelease s
  | .ppsOutPulseEnd => Sys2Proof.Machine.execPpsOutPulseEnd s
  | .shadowWriteDone t k => Sys2Proof.Machine.execShadowWriteDone t k s
  | .tapInstruction j => Sys2Proof.Machine.execTapInstruction j s

end Sys2Proof.Machine
end

