-- ==== Sys2Proof/Certificates/Slice0/Obligations.lean ====
section
/-! DEFINITION. The statements for the provers: what the commands do, family by family, by the numbered rules of the spec. -/

namespace Sys2Proof.Claims
open Sys2Proof.Machine

/-! ### What the statements speak of -/

/-- Device reset is released, so commands to the device act (R485, R489). -/
abbrev Live (s : State) : Prop := s.board.held = false

/-- The thread that a command names. -/
abbrev thread (s : State) (t : Tid) : Thread := thrOf s.dev (tkey t)

/-- The thread that a command names is a service thread. -/
abbrev service (s : State) (t : Tid) : Bool := isService s.dev (tkey t)

/-- The thread may issue the instruction now and the instruction is legal there: the thread is ready (R32), no breakpoint that it has not
passed stops it (R59), its address lies in instruction memory (R91), and no rule makes the instruction illegal (R78, R94, R100, R101). -/
abbrev MayIssue (s : State) (t : Tid) (i : Whorl) : Prop :=
  Live s ∧ threadReady (thread s t) = true ∧
  (brkHit s.dev (tkey t) (thread s t).pc = false ∨ (thread s t).dbg.passed = some (thread s t).pc) ∧
  (thread s t).pc < 65536 ∧ whorlCause i = 0 ∧ kindCause (service s t) i = 0 ∧
  ((thread s t).loop = none ∨ loopBanned i = false)

/-- Two states differ in nothing but one thread. -/
def OnlyThread (s u : State) (k : Nat) : Prop :=
  u = { s with dev := { s.dev with rl := { s.dev.rl with threads := u.dev.rl.threads } } } ∧
  ∀ j, j ≠ k → thrOf u.dev j = thrOf s.dev j

/-- Two states differ in nothing but one thread, which has issued in its spindle's issue cycle (R31). -/
def OnlyIssue (s u : State) (k : Nat) : Prop :=
  u = { s with dev := { s.dev with rl := { s.dev.rl with threads := u.dev.rl.threads, cycles := (noteIssue k s.dev).rl.cycles } } } ∧
  ∀ j, j ≠ k → thrOf u.dev j = thrOf s.dev j

/-- Two states differ in nothing but one thread, which has issued, the local memory of its reel, and what its spindle's issue cycle keeps of
the bytes that the cycle has written (R89). -/
def OnlyThreadAndLocal (s u : State) (k : Nat) : Prop :=
  u = { s with dev := { s.dev with rl := { s.dev.rl with
    threads := u.dev.rl.threads, reels := u.dev.rl.reels, cycles := u.dev.rl.cycles } } } ∧
  (∀ q, q ≠ k / 8 → mget u.dev.rl.cycles q Cycle.none = mget s.dev.rl.cycles q Cycle.none) ∧
  cycleOf u.dev k = { cycleOf (noteIssue k s.dev) k with wrote := (cycleOf u.dev k).wrote } ∧
  (∀ j, j ≠ k → thrOf u.dev j = thrOf s.dev j) ∧
  (∀ r, r ≠ k / 64 → reelOf u.dev r = reelOf s.dev r) ∧
  reelOf u.dev (k / 64) = { reelOf s.dev (k / 64) with lmem := (reelOf u.dev (k / 64)).lmem }

/-- A thread before and after an instruction that writes `v` to G register `d` and leaves FLAGS at `f`: G0 reads 0, every other G
register, the P and H registers and the rest of the thread are as before; outside a LOOP the next instruction follows (R90, R91). -/
def GWritten (a b : Thread) (d : Nat) (v : DWord) (f : BitVec 4) : Prop :=
  b = { a with g := b.g, flags := f, pc := b.pc, loop := b.loop, dbg := { a.dbg with passed := none } } ∧
  (∀ r, gRd b r = if r = 0 then 0 else if r = d then v else gRd a r) ∧
  (a.loop = none → b.pc = a.pc + 1 ∧ b.loop = none)

/-- The operand of a specifier at the operating width (R77, R81). -/
abbrev operand (t : Thread) (x : BitVec 6) (n : Nat) : BitVec n := (specRd t x).setWidth n

/-- Table 3-7 at a width of n bits, for all but CSUM, which CsumFoldsTheSum states. -/
def table37 (op : AluOp) {n : Nat} (x y : BitVec n) : BitVec n :=
  match op with
  | .add => x + y
  | .sub | .cmp => x - y
  | .and | .tst => x &&& y
  | .or => x ||| y
  | .xor => x ^^^ y
  | .andn => x &&& ~~~y
  | .shl => x <<< (y.toNat % n)
  | .shr => x >>> (y.toNat % n)
  | .sar => x.sshiftRight (y.toNat % n)
  | .rol => x.rotateLeft (y.toNat % n)
  | .minu => if x.toNat ≤ y.toNat then x else y
  | .maxu => if x.toNat ≤ y.toNat then y else x
  | .mul => x * y
  | .csum => x

/-- FLAGS from N, Z, C and V (Table 3-2). -/
def nzcv (n z c v : Bool) : BitVec 4 := BitVec.ofBool n ++ BitVec.ofBool z ++ BitVec.ofBool c ++ BitVec.ofBool v

/-- Whether an integer is no signed number of n bits. -/
def noSigned (n : Nat) (i : Int) : Prop := i < -(2 ^ (n - 1) : Int) ∨ (2 ^ (n - 1) : Int) ≤ i

/-- R80 and Table 3-6: FLAGS of the result `r` of an operation on `x` and `y`. -/
def table36 (op : AluOp) {n : Nat} (x y r : BitVec n) (f : BitVec 4) : Prop :=
  ∃ c v : Bool, f = nzcv r.msb (decide (r = 0)) c v ∧
    match op with
    | .add => (c = true ↔ 2 ^ n ≤ x.toNat + y.toNat) ∧ (v = true ↔ noSigned n (x.toInt + y.toInt))
    | .sub | .cmp => (c = true ↔ y.toNat ≤ x.toNat) ∧ (v = true ↔ noSigned n (x.toInt - y.toInt))
    | _ => c = false ∧ v = false

/-- The command of a register instruction. -/
def aluInstr (op : AluOp) (t : Tid) (d : BitVec 5) (a b : BitVec 6) (w f : Bool) : Instr :=
  match op with
  | .add => .add t d a b w f | .sub => .sub t d a b w f | .and => .and t d a b w f | .or => .or t d a b w f
  | .xor => .xor t d a b w f | .andn => .andn t d a b w f | .shl => .shl t d a b w f | .shr => .shr t d a b w f
  | .sar => .sar t d a b w f | .rol => .rol t d a b w f | .minu => .minu t d a b w f | .maxu => .maxu t d a b w f
  | .mul => .mul t d a b w f | .csum => .csum t d a b w f | .cmp => .cmp t d a b w f | .tst => .tst t d a b w f

/-- The command of an immediate instruction. -/
def immInstr (op : ImmOp) (t : Tid) (d : BitVec 5) (a : BitVec 6) (w f : Bool) (im : BitVec 12) : Instr :=
  match op with
  | .addi => .addi t d a w f im | .subi => .subi t d a w f im | .andi => .andi t d a w f im | .ori => .ori t d a w f im
  | .xori => .xori t d a w f im | .shli => .shli t d a w f im | .shri => .shri t d a w f im | .sari => .sari t d a w f im
  | .roli => .roli t d a w f im | .cmpi => .cmpi t d a w f im | .tsti => .tsti t d a w f im

/-- R84: IMM is sign-extended for ADDI, SUBI and CMPI and zero-extended otherwise. -/
def immOperand (op : ImmOp) (n : Nat) (im : BitVec 12) : BitVec n :=
  match op with
  | .addi | .subi | .cmpi => im.signExtend n
  | _ => im.setWidth n

/-- A register operation at width n: the register, where the operation has one, takes the result zero-extended to 64 bits, and FLAGS
follow where they are written (R80 to R82). -/
def AluDone (n : Nat) (op : AluOp) (a b : Thread) (d : BitVec 5) (x y : BitVec n) (f : Bool) : Prop :=
  ∃ g : BitVec 4, (if f = true ∨ op = .cmp ∨ op = .tst then table36 op x y (table37 op x y) g else g = a.flags) ∧
    GWritten a b (if op = .cmp ∨ op = .tst then 0 else d.toNat) ((table37 op x y).setWidth 64) g

/-- A path of the device: the control path or the security processor's, and no endpoint's. -/
def inner (p : Path) : Bool := match p with
  | .mbx _ => false
  | _ => true

end Sys2Proof.Claims

open Sys2Proof Sys2Proof.Machine Sys2Proof.Claims

/-! ### The machine (chapters 1 and 19) -/

/-- For every command at the front of the queue, a step is that command on the state with the queue's rest. On an empty queue a step leaves the
state, which is the model's choice (log entry 5). The queue is the model's own (log entry 8). -/
def Obligations.StepRunsTheFrontCommand : Prop :=
  (∀ (c : Instr) (rest : List Instr) (s : State), step { s with pending := c :: rest } = exec c { s with pending := rest }) ∧
  ∀ s : State, s.pending = [] → step s = .next s

/-- Every command of the table runs in every state, and none touches the queue of the commands that wait. Clauses rest on the model's own
choices or readings: log entries 8, 9. -/
def Obligations.EveryCommandRunsAndKeepsTheQueue : Prop :=
  ∀ (c : Instr) (s : State), ∃ u, exec c s = .next u ∧ u.pending = s.pending

/-- R12: the tick counter is 0 after reset and every TICK_BOUNDARY adds 1 to it; the boundary changes no fuse, no flash, no pin and no
strap. On the control path and on the security processor's, a read of TK_TICK_CNT_LO returns the low word of the count and latches the high
word for that path and for no other, and a read of TK_TICK_CNT_HI then returns the latched word, so that the two are one count; a second read
of HI returns the same latch again. Neither read moves the count. -/
def Obligations.TickCounterFollowsR12 : Prop :=
  State.reset.dev.tick = 0 ∧
  (∀ s, Live s → ∃ u, exec .tickBoundary s = .next u ∧ u.dev.tick = s.dev.tick + 1 ∧ u.otp = s.otp ∧ u.flashA = s.flashA ∧
    u.flashB = s.flashB ∧ u.board = s.board ∧ u.keep = s.keep) ∧
  ∀ (s : State) (p : Path), Live s → inner p = true → ∃ u v w, exec (.tickCntLoRead p) s = .next u ∧
    exec (.lowWordRead p (BitVec.ofNat 32 (addr .tkTickHi 0 0))) u = .next v ∧
    exec (.lowWordRead p (BitVec.ofNat 32 (addr .tkTickHi 0 0))) v = .next w ∧
    u.dev.out = .readData p (BitVec.ofNat 32 (addr .tkTickLo 0 0)) (BitVec.ofNat 32 s.dev.tick) :: s.dev.out ∧
    v.dev.out = .readData p (BitVec.ofNat 32 (addr .tkTickHi 0 0)) (BitVec.ofNat 32 (s.dev.tick / 2 ^ 32)) :: u.dev.out ∧
    w.dev.out = .readData p (BitVec.ofNat 32 (addr .tkTickHi 0 0)) (BitVec.ofNat 32 (s.dev.tick / 2 ^ 32)) :: v.dev.out ∧
    v.dev.tick = s.dev.tick ∧ v.dev.regs.cur = s.dev.regs.cur ∧ v.dev.regs.act = s.dev.regs.act ∧ v.dev.rl = s.dev.rl ∧
    ∀ q a, pathKey q ≠ pathKey p → getLatch v.dev q a = getLatch s.dev q a

/-! ### Reels and the debug unit (chapter 2) -/

/-- R33, R35: a cycle is skipped only at a rung that allows it, inside the tick, after the last skip of the tick and far enough from it; no
other cycle is. Clauses rest on the model's own choices or readings: log entry 18. -/
def Obligations.DroopSkipKeepsTheRungLimit : Prop :=
  ∀ (s : State) (c : Nat), Live s → ∃ u, exec (.droopSkip c) s = .next u ∧
    u = { s with dev := { s.dev with rl := { s.dev.rl with skips := u.dev.rl.skips } } } ∧
    (∀ last rest gap n, s.dev.rl.skips = last :: rest → rungCycles s.dev.rung = (n, gap) →
      u.dev.rl.skips = if 0 < gap ∧ c < n ∧ last < c ∧ gap ≤ c - last then c :: s.dev.rl.skips else s.dev.rl.skips) ∧
    (∀ gap n, s.dev.rl.skips = [] → rungCycles s.dev.rung = (n, gap) →
      u.dev.rl.skips = if 0 < gap ∧ c < n ∧ gap ≤ s.dev.rl.sinceSkip + c then [c] else [])

/-- R50, R53: a packet thread that holds a skein and has not ended its stage ends it as an overrun: the skein's verdict in the ordering unit
is a drop with STAGE_OVERRUN (0x03), the thread becomes free at the next boundary, its locks are released poisoned, and the class
STAGE_OVERRUN (0) is raised. No other thread changes. -/
def Obligations.StageOverrunEndsTheSkein : Prop :=
  ∀ (s : State) (t : Tid) (sk : Skein), Live s → service s t = false → threadReady (thread s t) = true →
    (thread s t).skein = some sk → ∃ u, exec (.stageOverrun t) s = .next u ∧
      thread u t = { thread s t with run := .ended } ∧ (∀ j, j ≠ tkey t → thrOf u.dev j = thrOf s.dev j) ∧
      u.dev.rl.ord = (s.dev.rl.ord.map fun e =>
        if e.skein.seq = sk.seq ∧ e.verdict = none then { e with verdict := some (.devDrop 0x03) } else e) ∧
      u.dev.dr.endings = s.dev.dr.endings ++ [(tkey t, true)] ∧ 0 ∈ u.dev.ft.raising ∧
      u.dev.hbm = s.dev.hbm ∧ u.dev.hank = s.dev.hank

/-- R58 to R64, R531: while debug is disabled, writes of HALT, STEP, RESUME and FREE change nothing. While it is enabled and the reel's domain
is awake, HALT stops a thread before its next instruction, and a packet thread that holds a skein ends it with DEBUG_HELD (0x05); RESUME
lets a halted thread go on; STEP issues one instruction of a halted thread, the one at its program counter, and leaves it halted with cause
step, or faulted, and is held for a service thread that is not ready; a register instruction so stepped does what Tables 3-6 and 3-7 say. A
thread at a breakpoint halts with its program counter there. FAULTED threads do not resume. FREE takes the oldest capture entry out at the
next boundary. Clauses rest on the model's own choices or readings: log entry 17. -/
def Obligations.DebugHaltsResumesAndSteps : Prop :=
  ∀ (s : State) (t : Tid) (cap : Bool), Live s →
    let x := thread s t
    let others (u : State) : Prop := ∀ j, j ≠ tkey t → thrOf u.dev j = thrOf s.dev j
    let ends (u : State) : Prop := service s t = false → holdsSkein x = true → (thread u t).run = .ended ∧ ∀ sk, x.skein = some sk →
      u.dev.rl.ord = s.dev.rl.ord.map fun e =>
        if e.skein.seq = sk.seq ∧ e.verdict = none then { e with verdict := some (.devDrop 0x05) } else e
    (s.dev.ct.debugEn = false → exec .captureFree s = .next s ∧ exec (.breakpointHalt t) s = .next s ∧
      (awake s.dev t.reel = true → ∀ c ∈ [Instr.dbgHalt t cap, .dbgStep t cap, .dbgResume t cap], exec c s = .next s)) ∧
    (s.dev.ct.debugEn = true → ∃ u, exec .captureFree s = .next u ∧
      u = { s with dev := { s.dev with rl := { s.dev.rl with capFree := true } } } ∧
      Machine.captureFree u.dev = { s.dev with rl := { s.dev.rl with capture := s.dev.rl.capture.drop 1, capFree := false } }) ∧
    (s.dev.ct.debugEn = true → awake s.dev t.reel = true →
      (x.dbg.halted = false → x.dbg.faulted = false →
        ∃ u, exec (.dbgHalt t cap) s = .next u ∧ (thread u t).dbg.halted = true ∧ (thread u t).dbg.cause = 1 ∧
          (thread u t).pc = x.pc ∧ (thread u t).g = x.g ∧ (thread u t).h = x.h ∧ (thread u t).p = x.p ∧
          bit (cur u.dev .rlDbgCtl t.reel t.n) 3 = cap ∧ bit (cur u.dev .rlDbgCtl t.reel t.n) 0 = true ∧ ends u ∧ others u) ∧
      (x.dbg.halted = true → x.dbg.faulted = false →
        ∃ u, exec (.dbgResume t cap) s = .next u ∧
          thread u t = { x with dbg := { x.dbg with halted := false, cause := 0, step := false } } ∧
          bit (cur u.dev .rlDbgCtl t.reel t.n) 3 = cap ∧ bit (cur u.dev .rlDbgCtl t.reel t.n) 0 = false ∧ others u) ∧
      (x.dbg.halted = true → x.dbg.faulted = false → x.run ≠ .off → (service s t = false ∨ x.run = .ready) →
        ∃ u, exec (.dbgStep t cap) s = .next u ∧ bit (cur u.dev .rlDbgCtl t.reel t.n) 3 = cap ∧ others u ∧
          ((thread u t).dbg.faulted = true ∨ ((thread u t).dbg.halted = true ∧ (thread u t).dbg.cause = 3)) ∧
          ∀ op d a b w f, decodeWhorl (fetchWord s.dev (tkey t)) = .ok (.alu op d a b w f) → op ≠ .csum → x.pc < 65536 →
            (thread u t).dbg.halted = true ∧
            (w = false → AluDone 64 op x { thread u t with dbg := { x.dbg with passed := none } } d (operand x a 64) (operand x b 64) f) ∧
            (w = true → AluDone 32 op x { thread u t with dbg := { x.dbg with passed := none } } d (operand x a 32) (operand x b 32) f)) ∧
      (x.dbg.halted = true → x.dbg.faulted = false → x.run ≠ .off → service s t = true → x.run ≠ .ready →
        ∃ u, exec (.dbgStep t cap) s = .next u ∧ thread u t = { x with dbg := { x.dbg with step := true } } ∧ others u) ∧
      (x.dbg.faulted = true → x.dbg.halted = false → ∃ u, exec (.dbgResume t cap) s = .next u ∧ thread u t = x ∧ others u)) ∧
    (threadReady x = true → brkHit s.dev (tkey t) x.pc = true → x.dbg.passed ≠ some x.pc →
      ∃ u, exec (.breakpointHalt t) s = .next u ∧ (thread u t).dbg.halted = true ∧ (thread u t).dbg.cause = 2 ∧
        (thread u t).pc = x.pc ∧ (thread u t).g = x.g ∧ (thread u t).h = x.h ∧ (thread u t).p = x.p ∧ ends u ∧ others u)

/-- R66, R439, Table 2-15: each command of a reel that is AWAKE acts from the states that allow it, and from every other it sets CMD_ERR and
leaves the reel. RESET is allowed from any state. ADMIT and RESET take effect at the next boundary: an admitted reel is ADMITTED there, a
reset one is as after reset but for its reel memory. A command to a reel that is not AWAKE waits for the reel, which asks for its wake.
Clauses rest on the model's own choices or readings: log entries 16, 195. -/
def Obligations.ReelCommandsFollowTable215 : Prop :=
  ∀ (s : State) (r : Fin 33), Live s →
    let x := reelOf s.dev r
    (awake s.dev r = true →
      (∃ u, exec (.reelLoad r) s = .next u ∧
        if x.st = .off ∨ x.st = .retired then
          reelOf u.dev r = { x with st := .loading, img := fld (cur s.dev .rlReelImg r 0) 0 8 }
        else reelOf u.dev r = x ∧ bit (cur u.dev .rlReelStatus r 0) 8 = true) ∧
      (∃ u, exec (.reelAdmit r) s = .next u ∧
        if x.st = .spare then reelOf u.dev r = { x with pend := x.pend.join .activate } ∧
          (x.pend = .none → (reelOf (applyReelPend u.dev r) r).st = .admitted ∧ (reelOf (applyReelPend u.dev r) r).pend = .none)
        else reelOf u.dev r = x ∧ bit (cur u.dev .rlReelStatus r 0) 8 = true) ∧
      (∃ u, exec (.reelDrain r) s = .next u ∧
        if x.st = .admitted then reelOf u.dev r = { x with st := .draining }
        else reelOf u.dev r = x ∧ bit (cur u.dev .rlReelStatus r 0) 8 = true) ∧
      (∃ u, exec (.reelReset r) s = .next u ∧ reelOf u.dev r = { x with pend := x.pend.join .reset } ∧
        (x.pend = .none → reelOf (applyReelPend u.dev r) r = { Reel.reset with rmem := x.rmem }))) ∧
    (awake s.dev r = false → ∀ c n, (c, n) ∈ [(Instr.reelLoad r, 1), (.reelAdmit r, 2), (.reelDrain r, 3), (.reelReset r, 4)] →
      ∃ u, exec c s = .next u ∧ reelOf u.dev r = x ∧ u.dev.pw.cmds = s.dev.pw.cmds ++ [(r.val, n)] ∧
        wakeWanted u.dev r = decide (2 ≤ domSt s.dev r)) ∧
    ∀ c ∈ [Instr.reelLoad r, .reelAdmit r, .reelDrain r, .reelReset r], ∀ u, exec c s = .next u →
      u.dev.rl.threads = s.dev.rl.threads ∧ ∀ q, q ≠ r.val → reelOf u.dev q = reelOf s.dev q

/-- R67, R69, R478: the events of a reel. A fault asks for FAILED at the next boundary. A DRAINING reel without a skein becomes RETIRED and its
threads stop. A LOADING reel whose built-in test fails becomes FAILED; one whose store slot is empty goes to OFF with LOAD_ERR. A claimed
spare asks to enter service. Clauses rest on the model's own choices or readings: log entries 15, 16. -/
def Obligations.ReelEventsChangeTheirReel : Prop :=
  ∀ (s : State) (r : Fin 33), Live s →
    let x := reelOf s.dev r
    (∃ u, exec (.reelFault r) s = .next u ∧ reelOf u.dev r = { x with pend := x.pend.join .fail } ∧ u.dev.rl.threads = s.dev.rl.threads ∧
      (x.pend = .none → x.st ≠ .off → x.st ≠ .failed →
        (reelOf (applyReelPend u.dev r) r).st = .failed ∧ 2 ∈ (applyReelPend u.dev r).ft.raising)) ∧
    (x.st = .draining → reelBusy s.dev r = false →
      ∃ u, exec (.reelRetiredAfterDrain r) s = .next u ∧ (reelOf u.dev r).st = .retired ∧
        ∀ n, n < 64 → ∃ b, thrOf u.dev (64 * r + n) = { Thread.reset with dbg := { Thread.reset.dbg with seen := b } }) ∧
    (x.st = .loading → ∃ u, exec (.reelLoadDone r false) s = .next u ∧ (reelOf u.dev r).st = .failed ∧
      bit (cur u.dev .rlReelStatus r 0) 9 = true) ∧
    (x.st = .loading → storeImage s.dev x.img = none → ∃ u, exec (.reelLoadDone r true) s = .next u ∧ (reelOf u.dev r).st = .off ∧
      bit (cur u.dev .rlReelStatus r 0) 9 = true) ∧
    (x.st = .loading → ∀ c, storeImage s.dev x.img = some c → reelFits c = true →
      ∃ u, exec (.reelLoadDone r true) s = .next u ∧ (reelOf u.dev r).st = .spare ∧ (reelOf u.dev r).img = x.img) ∧
    (x.st = .spare → x.claimed = true → ∃ u, exec (.spareAdmit r) s = .next u ∧ (reelOf u.dev r).pend = x.pend.join .activate ∧
      (reelOf u.dev r).st = .spare ∧ u.dev.rl.threads = s.dev.rl.threads)

/-! ### Local instructions (chapter 3) -/

/-- R80 to R82, Tables 3-6 and 3-7: the register instructions but CSUM, at both widths. -/
def Obligations.RegisterInstructionsFollowTable37 : Prop :=
  ∀ (s : State) (t : Tid) (op : AluOp) (d : BitVec 5) (a b : BitVec 6) (w f : Bool), op ≠ .csum →
    MayIssue s t (.alu op d a b w f) → ∃ u, exec (aluInstr op t d a b w f) s = .next u ∧ OnlyIssue s u (tkey t) ∧
      (w = false → AluDone 64 op (thread s t) (thread u t) d (operand (thread s t) a 64) (operand (thread s t) b 64) f) ∧
      (w = true → AluDone 32 op (thread s t) (thread u t) d (operand (thread s t) a 32) (operand (thread s t) b 32) f)

/-- R83: CSUM folds the sum of the 16-bit parts of both operands, four of each or, at W = 1, the two low ones, into 16 bits by end-around
carries: the result is below 65,536, is congruent to the sum modulo 65,535, and is 0 only where every part is 0. -/
def Obligations.CsumFoldsTheSum : Prop :=
  ∀ (s : State) (t : Tid) (d : BitVec 5) (a b : BitVec 6) (w f : Bool), MayIssue s t (.alu .csum d a b w f) →
    ∃ u r g, exec (.csum t d a b w f) s = .next u ∧ OnlyIssue s u (tkey t) ∧ GWritten (thread s t) (thread u t) d.toNat r g ∧
      let part (x : DWord) (i : Nat) : Nat := (x.extractLsb' (16 * i) 16).toNat
      let x := specRd (thread s t) a
      let y := specRd (thread s t) b
      let sum := if w then part x 0 + part x 1 + part y 0 + part y 1
        else part x 0 + part x 1 + part x 2 + part x 3 + part y 0 + part y 1 + part y 2 + part y 3
      r.toNat < 65536 ∧ r.toNat % 65535 = sum % 65535 ∧ (r = 0 ↔ sum = 0) ∧
      g = if f then nzcv false (decide (sum = 0)) false false else (thread s t).flags

/-- R79, R82: CLZ counts the zeros before the highest 1 bit, POPC the 1 bits, BSWAP reverses the bytes, each at both widths; SEL takes A where
its condition holds on FLAGS, else B, and leaves FLAGS. -/
def Obligations.UnaryAndSelectFollowTable37 : Prop :=
  ∀ (s : State) (t : Tid) (d : BitVec 5) (a b : BitVec 6) (w f : Bool) (c : BitVec 4),
    let n := if w then 32 else 64
    let x : DWord := if w then (specRd (thread s t) a).setWidth 32 |>.setWidth 64 else specRd (thread s t) a
    let flags (r : DWord) : BitVec 4 :=
      if f then nzcv (r.getLsbD (n - 1)) (decide (r = 0)) false false else (thread s t).flags
    (MayIssue s t (.un .clz d a w f) → ∃ u r, exec (.clz t d a w f) s = .next u ∧ OnlyIssue s u (tkey t) ∧
      GWritten (thread s t) (thread u t) d.toNat r (flags r) ∧ r.toNat ≤ n ∧ x.toNat < 2 ^ (n - r.toNat) ∧
      (r.toNat < n → 2 ^ (n - r.toNat - 1) ≤ x.toNat)) ∧
    (MayIssue s t (.un .popc d a w f) → ∃ u r, exec (.popc t d a w f) s = .next u ∧ OnlyIssue s u (tkey t) ∧
      GWritten (thread s t) (thread u t) d.toNat r (flags r) ∧ r.toNat = (List.range n).countP (fun i => x.getLsbD i)) ∧
    (MayIssue s t (.un .bswap d a w f) → ∃ u r, exec (.bswap t d a w f) s = .next u ∧ OnlyIssue s u (tkey t) ∧
      GWritten (thread s t) (thread u t) d.toNat r (flags r) ∧ ∀ i, i < 64 →
        r.getLsbD i = (decide (i < n) && x.getLsbD (n - 8 - 8 * (i / 8) + i % 8))) ∧
    (MayIssue s t (.sel d a b w c) → ∃ u, exec (.sel t d a b w c) s = .next u ∧ OnlyIssue s u (tkey t) ∧
      GWritten (thread s t) (thread u t) d.toNat
        ((if condHolds c (thread s t).flags then (specRd (thread s t) a) else (specRd (thread s t) b)) &&&
          (if w then 0xFFFFFFFF else BitVec.allOnes 64)) (thread s t).flags)

/-- R84, Table 3-8: the immediate instructions at both widths. -/
def Obligations.ImmediateInstructionsFollowTable38 : Prop :=
  ∀ (s : State) (t : Tid) (op : ImmOp) (d : BitVec 5) (a : BitVec 6) (w f : Bool) (im : BitVec 12),
    MayIssue s t (.imm op d a w f im) → ∃ u, exec (immInstr op t d a w f im) s = .next u ∧ OnlyIssue s u (tkey t) ∧
      (w = false → AluDone 64 (immAlu op) (thread s t) (thread u t) d (operand (thread s t) a 64) (immOperand op 64 im) f) ∧
      (w = true → AluDone 32 (immAlu op) (thread s t) (thread u t) d (operand (thread s t) a 32) (immOperand op 32 im) f)

/-- R85, R86, Table 3-9, bit by bit: MOVI, EXT, EXTS, INS, EXTH and INSH. INSH changes one H register and no G register. -/
def Obligations.MoviAndBitFieldsFollowTable39 : Prop :=
  ∀ (s : State) (t : Tid) (d : BitVec 5) (a pos lenM1 : BitVec 6) (hw : BitVec 2) (keep : Bool) (im : BitVec 16),
    let x := thread s t
    let av := specRd x a
    let old := gRd x d.toNat
    let p := pos.toNat
    let len := lenM1.toNat + 1
    (MayIssue s t (.movi d hw keep im) → ∃ u r, exec (.movi t d hw keep im) s = .next u ∧ OnlyIssue s u (tkey t) ∧
      GWritten x (thread u t) d.toNat r x.flags ∧ ∀ i, i < 64 →
        r.getLsbD i = if i / 16 = hw.toNat then im.getLsbD (i % 16) else keep && old.getLsbD i) ∧
    (MayIssue s t (.bf .ext d a pos lenM1) → ∃ u r, exec (.ext t d a pos lenM1) s = .next u ∧ OnlyIssue s u (tkey t) ∧
      GWritten x (thread u t) d.toNat r x.flags ∧ ∀ i, i < 64 → r.getLsbD i = (decide (i < len) && av.getLsbD (p + i))) ∧
    (MayIssue s t (.bf .exts d a pos lenM1) → ∃ u r, exec (.exts t d a pos lenM1) s = .next u ∧ OnlyIssue s u (tkey t) ∧
      GWritten x (thread u t) d.toNat r x.flags ∧ ∀ i, i < 64 → r.getLsbD i = av.getLsbD (p + min i (len - 1))) ∧
    (MayIssue s t (.bf .ins d a pos lenM1) → ∃ u r, exec (.ins t d a pos lenM1) s = .next u ∧ OnlyIssue s u (tkey t) ∧
      GWritten x (thread u t) d.toNat r x.flags ∧ ∀ i, i < 64 →
        r.getLsbD i = if p ≤ i ∧ i < p + len then av.getLsbD (i - p) else old.getLsbD i) ∧
    (MayIssue s t (.bf .exth d a pos lenM1) → ∃ u r, exec (.exth t d a pos lenM1) s = .next u ∧ OnlyIssue s u (tkey t) ∧
      GWritten x (thread u t) d.toNat r x.flags ∧
        let pair : DWord := hRd x a.toNat ++ (if a.toNat = 31 then 0#32 else hRd x (a.toNat + 1))
        ∀ i, i < 64 → r.getLsbD i = (decide (i < len) && pair.getLsbD (p + i))) ∧
    (MayIssue s t (.bf .insh d a pos lenM1) → ∃ u, exec (.insh t d a pos lenM1) s = .next u ∧ OnlyIssue s u (tkey t) ∧
      (thread u t).g = x.g ∧ (thread u t).p = x.p ∧ (thread u t).flags = x.flags ∧
      (∀ r, r ≠ d.toNat → hRd (thread u t) r = hRd x r) ∧ ∀ i, i < 32 →
        (hRd (thread u t) d.toNat).getLsbD i = if p ≤ i ∧ i < p + len then av.getLsbD (i - p) else (hRd x d.toNat).getLsbD i)

/-- The byte of a thread's local memory at an address of its window. -/
abbrev Sys2Proof.Claims.localByte (s : State) (t : Tid) (a : Nat) : Byte :=
  mget (reelOf s.dev (tkey t / 64)).lmem (lmOrigin s.dev (tkey t) + a) 0

/-- What the issue cycle in which the thread issues next has written at an address of its window: the byte before the cycle, and the turn of
the thread whose store stands. -/
abbrev Sys2Proof.Claims.inCycle (s : State) (t : Tid) (a : Nat) : Option (Byte × Nat) :=
  mget (cycleOf (noteIssue (tkey t) s.dev) (tkey t)).wrote (lmOrigin s.dev (tkey t) + a) none

/-- R87, R88, R89: LD and LDSX read the little-endian bytes at A + OFF, modulo 2^64, as they were before any store of the issue cycle, and
extend them; ST writes the low bytes of Gd there, but for a byte that a thread with a later turn of the cycle has written, and no other byte
of the reel's local memory; D = 0 stores zeros. Which rows share a cycle is the model's choice (log entry 21). Clauses rest on the model's
own choices or readings: log entry 22. -/
def Obligations.LocalMemoryIsLittleEndian : Prop :=
  ∀ (s : State) (t : Tid) (d : BitVec 5) (a : BitVec 6) (sz : BitVec 2) (off : BitVec 12),
    let x := thread s t
    let w := 2 ^ sz.toNat
    let ea := (specRd x a + off.setWidth 64).toNat
    let byteAt (i : Nat) : Byte := match inCycle s t (ea + i) with
      | some e => e.1
      | none => localByte s t (ea + i)
    let myTurn := turnOf (cycleOf (noteIssue (tkey t) s.dev) (tkey t)) (tkey t)
    ea + w ≤ (thrCfg s.dev (tkey t)).lmSize * 1024 →
    (MayIssue s t (.lm .ld d a sz off) → ∃ u r, exec (.ld t d a sz off) s = .next u ∧ OnlyIssue s u (tkey t) ∧
      GWritten x (thread u t) d.toNat r x.flags ∧ ∀ i, i < 64 →
        r.getLsbD i = (decide (i < 8 * w) && (byteAt (i / 8)).getLsbD (i % 8))) ∧
    (MayIssue s t (.lm .ldsx d a sz off) → ∃ u r, exec (.ldsx t d a sz off) s = .next u ∧ OnlyIssue s u (tkey t) ∧
      GWritten x (thread u t) d.toNat r x.flags ∧ ∀ i, i < 64 →
        r.getLsbD i = (byteAt (min i (8 * w - 1) / 8)).getLsbD (min i (8 * w - 1) % 8)) ∧
    (MayIssue s t (.lm .st d a sz off) → ∃ u, exec (.st t d a sz off) s = .next u ∧ OnlyThreadAndLocal s u (tkey t) ∧
      (thread u t).g = x.g ∧ (thread u t).flags = x.flags ∧
      (∀ i, i < w → localByte u t (ea + i) = (match inCycle s t (ea + i) with
        | some e => if myTurn < e.2 then localByte s t (ea + i) else (gRd x d.toNat).extractLsb' (8 * i) 8
        | none => (gRd x d.toNat).extractLsb' (8 * i) 8)) ∧
      ∀ j, j < lmOrigin s.dev (tkey t) + ea ∨ lmOrigin s.dev (tkey t) + ea + w ≤ j →
        mget (reelOf u.dev (tkey t / 64)).lmem j 0 = mget (reelOf s.dev (tkey t / 64)).lmem j 0)

/-- The contents that Table 3-2 gives the special registers. -/
def Sys2Proof.Claims.table32 (s : State) (t : Tid) (srn : Nat) : Nat :=
  let x := thread s t
  let sk (f : Skein → Nat) : Nat := (x.skein.map f).getD 0
  if srn = 0x000 then x.pc
  else if srn = 0x001 then x.flags.toNat
  else if srn = 0x002 then t.reel.val * 2 ^ 8 + t.n.val
  else if srn = 0x003 then (if service s t then 0 else x.stageNo)
  else if srn = 0x004 then (if service s t then 0 else x.stageCnt)
  else if srn = 0x005 then (x.loop.map (·.idx)).getD 0
  else if srn = 0x006 then (thrCfg s.dev (tkey t)).lmSize * 1024
  else if srn = 0x008 then s.dev.tick
  else if srn = 0x010 then sk (·.input)
  else if srn = 0x011 then sk (·.len)
  else if srn = 0x012 then sk (·.cls)
  else if srn = 0x013 then sk (·.bucket)
  else if srn = 0x014 then sk (·.sel)
  else if srn = 0x015 then sk fun s => Config.seqFirst + s.seq
  else if srn = 0x016 then sk (·.pflags.toNat)
  else sk (·.md.toNat)

/-- R74, R75, Table 3-2: MFS reads each listed special register; MTS writes FLAGS, the one register it may name, from the low bits of a
G register. -/
def Obligations.SpecialRegistersFollowTable32 : Prop :=
  ∀ (s : State) (t : Tid) (d : BitVec 5) (srn : BitVec 10),
    (MayIssue s t (.mfs d srn) → ∃ u, exec (.mfs t d srn) s = .next u ∧ OnlyIssue s u (tkey t) ∧
      GWritten (thread s t) (thread u t) d.toNat (BitVec.ofNat 64 (table32 s t srn.toNat)) (thread s t).flags) ∧
    (MayIssue s t (.mts d srn) → ∃ u, exec (.mts t d srn) s = .next u ∧ OnlyIssue s u (tkey t) ∧
      GWritten (thread s t) (thread u t) 0 0 ((gRd (thread s t) d.toNat).extractLsb' 0 4))

/-- The thread goes to an address (R93): a jump inside the body of the active LOOP stays in its pass, one out of it ends the LOOP. -/
def Sys2Proof.Claims.GoesTo (a b : Thread) (x : Nat) : Prop :=
  b.pc = x ∧ ∀ l, a.loop = some l → b.loop = if l.start ≤ x ∧ x < l.start + l.len then some l else none

/-- The next instruction follows (R91, R92): at the end of the body of the active LOOP the next pass begins, or the LOOP ends. -/
def Sys2Proof.Claims.FallsThrough (a b : Thread) : Prop :=
  match a.loop with
  | none => b.pc = a.pc + 1 ∧ b.loop = none
  | some l =>
    if a.pc + 1 ≠ l.start + l.len then b.pc = a.pc + 1 ∧ b.loop = some l
    else if l.left = 0 then b.pc = a.pc + 1 ∧ b.loop = none
    else b.pc = l.start ∧ b.loop = some { l with left := l.left - 1, idx := l.idx + 1 }

/-- Only where the thread continues has changed. -/
abbrev Sys2Proof.Claims.OnlyWhere (a b : Thread) : Prop :=
  b = { a with pc := b.pc, loop := b.loop, dbg := { a.dbg with passed := none } }

/-- R93 and the operations of Table 3-10: NOP, BC, BRC, LOOP, JAL and JR. A branch goes to its target where its condition holds and its offset
is not 0, and falls through otherwise; a taken branch out of the body of the active LOOP ends it and one inside it stays in its pass; a branch
that falls through at the end of the body begins the next pass. JAL to another address also writes PC + 1 into G31. -/
def Obligations.BranchesAndLoopFollowTable310 : Prop :=
  ∀ (s : State) (t : Tid) (c cnt : BitVec 4) (back : Bool) (a b : BitVec 6) (off : BitVec 16) (off9 : BitVec 9) (lenM1 : BitVec 6),
    let x := thread s t
    let target (o : Nat) (bk : Bool) : Int := (x.pc : Int) + 1 + (if bk then -(o : Int) else o)
    (MayIssue s t .nop → ∃ u, exec (.nop t) s = .next u ∧ OnlyIssue s u (tkey t) ∧ OnlyWhere x (thread u t) ∧
      FallsThrough x (thread u t)) ∧
    (MayIssue s t (.bc c back off) → 0 ≤ target off.toNat back → target off.toNat back ≤ 65535 →
      ∃ u, exec (.bc t c back off) s = .next u ∧ OnlyIssue s u (tkey t) ∧ OnlyWhere x (thread u t) ∧
        if off ≠ 0 ∧ condHolds c x.flags = true then GoesTo x (thread u t) (target off.toNat back).toNat
        else FallsThrough x (thread u t)) ∧
    (MayIssue s t (.brc c a b off9) → target off9.toNat false ≤ 65535 →
      ∃ u g, exec (.brc t c a b off9) s = .next u ∧ OnlyIssue s u (tkey t) ∧ OnlyWhere x (thread u t) ∧
        table36 .cmp (specRd x a) (specRd x b) (specRd x a - specRd x b) g ∧
        if off9 ≠ 0 ∧ condHolds c g = true then GoesTo x (thread u t) (target off9.toNat false).toNat
        else FallsThrough x (thread u t)) ∧
    (MayIssue s t (.loop cnt lenM1) → x.pc + (lenM1.toNat + 1) ≤ 65535 →
      ∃ u, exec (.loop t cnt lenM1) s = .next u ∧ OnlyIssue s u (tkey t) ∧ OnlyWhere x (thread u t) ∧
        (thread u t).pc = x.pc + 1 ∧ (thread u t).loop = some ⟨x.pc + 1, lenM1.toNat + 1, cnt.toNat, 0⟩) ∧
    (MayIssue s t (.jal back off) → 0 ≤ target off.toNat back → target off.toNat back ≤ 65535 →
      ∃ u, exec (.jal t back off) s = .next u ∧ OnlyIssue s u (tkey t) ∧
        (∀ r, r ≠ 31 → gRd (thread u t) r = gRd x r) ∧ (off ≠ 0 → gRd (thread u t) 31 = BitVec.ofNat 64 (x.pc + 1)) ∧
        (thread u t).flags = x.flags ∧ (thread u t).h = x.h ∧ (thread u t).p = x.p ∧
        if off ≠ 0 then GoesTo x (thread u t) (target off.toNat back).toNat else FallsThrough x (thread u t)) ∧
    (MayIssue s t (.jr a) → ∃ u, exec (.jr t a) s = .next u ∧ OnlyIssue s u (tkey t) ∧ OnlyWhere x (thread u t) ∧
      GoesTo x (thread u t) ((specRd x a).extractLsb' 0 16).toNat)

/-- R54, R78, R95: a word that decodes to nothing faults the thread that issues it. The first fault of a reel is recorded with its cause,
thread, address and word; a further one sets MORE and leaves the record. A packet thread's skein ends with THREAD_FAULT (0x04); a service
thread stops and shows FAULTED. THREAD_FAULT (class 1) is raised, and the locks are released poisoned. Clauses rest on the model's own
choices or readings: log entry 12. -/
def Obligations.IllegalWordsFaultTheThread : Prop :=
  ∀ (s : State) (t : Tid) (w : Word) (c : Nat), Live s → threadReady (thread s t) = true →
    brkHit s.dev (tkey t) (thread s t).pc = false → (thread s t).pc < 65536 → decodeWhorl w = .bad c →
    ((thread s t).skein.isSome = true ∨ service s t = true) →
    ∃ u, exec (.illegalInstruction t w) s = .next u ∧ 1 ∈ u.dev.ft.raising ∧
      (let i := cur s.dev .rlFaultInfo t.reel 0
       let j := cur u.dev .rlFaultInfo t.reel 0
       if bit i 31 then j = i ||| 0x40000000 ∧ cur u.dev .rlFaultWord t.reel 0 = cur s.dev .rlFaultWord t.reel 0
       else bit j 31 = true ∧ fld j 22 6 = t.n.val ∧ fld j 16 6 = c % 64 ∧ fld j 0 16 = (thread s t).pc ∧
         cur u.dev .rlFaultWord t.reel 0 = w) ∧
      (tkey t, true) ∈ u.dev.dr.endings ∧
      (if service s t then (thread u t).dbg.faulted = true ∧ (thread u t).dbg.halted = false else (thread u t).run = .ended) ∧
      (thread u t).g = (thread s t).g ∧ (∀ j, j ≠ tkey t → thrOf u.dev j = thrOf s.dev j) ∧
      u.dev.hbm = s.dev.hbm ∧ u.dev.hank = s.dev.hank

/-- R76 to R78, R101: every legal instruction is what the decoder reads from its word, with every operand at every value (Tables 3-3 and
4-2). -/
def Obligations.DecodingAnInstructionWordGivesItBack : Prop :=
  ∀ i : Whorl, whorlCause i = 0 → decodeWhorl (whorlWord i) = .ok i

/-- Some words written out from Tables 3-3, 3-4, 3-7 and 4-2: NOP; ADD G1, G2, G3; CMP G2, P0 at W = 1; ADDI G5, G6, -1 with F; MOVI G7,
0xABCD into halfword 2; BC EQ back by 4; LOOP 3 times 5; STAGE; DROP with reason 0x40; and the all-zero word, which always faults. -/
def Obligations.DecodedWordsReadRight : Prop :=
  decodeWhorl 0b00000010000000000000000000000000 = .ok .nop ∧
  decodeWhorl 0b00010000000100001000001100000000 = .ok (.alu .add 1 2 3 false false) ∧
  decodeWhorl 0b00101100000000001010000010000000 = .ok (.alu .cmp 0 2 32 true false) ∧
  decodeWhorl 0b01000000010100011001111111111111 = .ok (.imm .addi 5 6 false true 0xFFF) ∧
  decodeWhorl 0b01011000011110001010101111001101 = .ok (.movi 7 2 false 0xABCD) ∧
  decodeWhorl 0b10000000001100000000000000000100 = .ok (.bc 1 true 4) ∧
  decodeWhorl 0b10000100010000100000000000000000 = .ok (.loop 2 4) ∧
  decodeWhorl 0b11000000000000000000000000000000 = .ok .stage ∧
  decodeWhorl 0b11101100000000000000000001000000 = .ok (.verdict .drop 0 0 0x40) ∧
  decodeWhorl 0 = .bad 0x01

/-! ### Posted operations, stages and verdicts (chapter 4) -/

/-- The command of a posted operation. -/
def Sys2Proof.Claims.postInstr (op : POp) (t : Tid) (pr nM1 : BitVec 3) (a b : BitVec 6) : Instr :=
  match op with
  | .lkpMacDst => .lkpMacDst t pr nM1 a b | .lkpMacSrc => .lkpMacSrc t pr nM1 a b | .lkpLpm4 => .lkpLpmIpv4 t pr nM1 a b
  | .lkpLpm6 => .lkpLpmIpv6 t pr nM1 a b | .lkpTun => .lkpTunnelMap t pr nM1 a b
  | .flowFind => .flowFind t pr nM1 a b | .flowFindIns => .flowFindOrInsert t pr nM1 a b
  | .flowUpdate => .flowUpdate t pr nM1 a b | .flowDelete => .flowDelete t pr nM1 a b
  | .cntAdd => .cntAdd t pr nM1 a b | .cntRead => .cntRead t pr nM1 a b
  | .mtr pre => .mtr t pre pr nM1 a b | .hash key => .hash t key pr nM1 a b
  | .lockAcq => .lockAcq t pr nM1 a b | .lockTry => .lockTry t pr nM1 a b | .lockRel => .lockRel t pr nM1 a b
  | .lockPoll => .lockPoll t pr nM1 a b
  | .chanOpen => .chanOpen t pr nM1 a b | .chanWrite w => .chanWrite t w pr nM1 a b
  | .chanCommit => .chanCommit t pr nM1 a b | .chanRead => .chanRead t pr nM1 a b
  | .cattAttach => .cattAttach t pr nM1 a b | .cattDetach => .cattDetach t pr nM1 a b
  | .mrd => .mrd t pr nM1 a b | .mwr sz => .mwr t sz pr nM1 a b
  | .matAdd => .matAdd t pr nM1 a b | .matSwap => .matSwap t pr nM1 a b | .matCas => .matCas t pr nM1 a b
  | .matOr => .matOr t pr nM1 a b | .matAnd => .matAnd t pr nM1 a b
  | .frmAlloc => .frmAlloc t pr nM1 a b | .frmSend => .frmSend t pr nM1 a b | .frmFree => .frmFree t pr nM1 a b

/-- The command of a verdict. -/
def Sys2Proof.Claims.verdictInstr (v : VKind) (t : Tid) (a b : BitVec 6) (im : BitVec 8) : Instr :=
  match v with
  | .fwd => .fwd t a b im | .mcast => .mcast t a b im | .host => .host t a b im | .punt => .punt t a b im
  | .recirc => .recirc t a b im | .block => .block t a b im | .drop => .drop t a b im

/-- What the unit of a posted operation makes of it at the boundary `now` that ends its tick (R108, R110, R187): `d0` is the device as the
tick began, `d` as the operation finds it in its turn. -/
def Sys2Proof.Claims.served (now : Nat) (d0 d : Dev) (p : Posted) : Dev × PRes :=
  match p.op with
  | .lkpMacDst | .lkpMacSrc | .lkpLpm4 | .lkpLpm6 | .lkpTun => lkpOp d0 d p
  | .flowFind | .flowFindIns | .flowUpdate | .flowDelete => flowOp d0 d p
  | .lockAcq => lockAcq now d p false
  | .lockTry => lockAcq now d p true
  | .lockRel => lockRel d p.who (p.a.toNat % 4096)
  | .lockPoll => (d, lockPoll now d p.who (p.a.toNat % 4096))
  | .chanOpen => Machine.chanOpen d p
  | .chanWrite w => Machine.chanWrite d p w.val
  | .chanCommit => Machine.chanCommit d p
  | .chanRead => Machine.chanRead d p
  | _ => draftOp d0 d p

/-- The entries of two devices are the same but for the slot named. -/
def Sys2Proof.Claims.SlotsBut (d e : Dev) (t k : Nat) : Prop := ∀ t' k', slotKey t' k' ≠ slotKey t k → entOf e t' k' = entOf d t' k'

/-- The result of a lookup that found an entry (R112): status, slot, fields and data words. -/
def Sys2Proof.Claims.entryResult (st slot fields : Nat) (dw : List DWord) : PRes := ⟨st, slot * 2 ^ 24 + fields, dw⟩

/-- What posted operations on tables return and change (R112 to R115, R194, R205 to R207, R214; Tables 4-4 and 4-5). -/
def Sys2Proof.Claims.TablesServed (d0 d : Dev) (p : Posted) (e : Dev) (r : PRes) : Prop :=
  let mac : List DWord := [p.a &&& 0x0FFFFFFFFFFFFFFF]
  let flow : List DWord := [p.a, p.a2]
  let bd := fld p.a 48 12
  let lpm (t vrf adr : Nat) : Prop :=
    ((∀ l ∈ lpmLengths d0 t vrf, lookupKey d0 t (lpmKey t vrf l adr) = .miss) → r = rStat 0x01) ∧
    ∀ pre l post s x, lpmLengths d0 t vrf = pre ++ l :: post → (∀ y ∈ pre, lookupKey d0 t (lpmKey t vrf y adr) = .miss) →
      lookupKey d0 t (lpmKey t vrf l adr) = .found s x → r = entryResult 0x00 s l x.dw
  match p.op with
  | .lkpMacDst =>
    (lookupKey d0 0 mac = .miss → e = d ∧ r = rStat 0x01) ∧ (lookupKey d0 0 mac = .ecc → r = rStat 0x0E) ∧
    ∀ s x, lookupKey d0 0 mac = .found s x → r = entryResult 0x00 s (fld x.ctl 0 24) x.dw ∧ (badFor d0 0 mac = [] →
      (cfgB d .lkBdCfg bd 0 29 = false → e = d) ∧
      (cfgB d .lkBdCfg bd 0 29 = true → ∀ k y, findKey d 0 mac = some (k, y) → entOf e 0 k = some (y.withBit 25 true) ∧ SlotsBut d e 0 k))
  | .lkpMacSrc =>
    (lookupKey d0 0 mac = .ecc → r = rStat 0x0E) ∧
    (∀ s x, lookupKey d0 0 mac = .found s x → r = entryResult 0x00 s (fld x.ctl 0 24) x.dw) ∧
    ∀ sk k, lookupKey d0 0 mac = .miss → p.skein = some sk → cfgB d .lkBdCfg bd 0 31 = true → sk.input < 25 → findAny d 0 mac = none →
      domUse d (cfgF d .lkBdCfg bd 0 0 8) < cfgF d .lkDomQuota (cfgF d .lkBdCfg bd 0 0 8) 0 0 19 → d.lk.learned < 64 →
      search d 0 mac = some ([], k) → ∃ x, entOf e 0 k = some x ∧ SlotsBut d e 0 k ∧ x.kw = mac ∧ fld x.ctl 0 5 = sk.input ∧
        fld x.ctl 8 8 = (if 16 ≤ sk.input ∧ sk.input < 24 then fld sk.md 0 8 else 0) ∧
        fld x.ctl 48 8 = cfgF d .lkBdCfg bd 0 0 8 ∧ x.isHit = true ∧ r = entryResult 0x12 k (fld x.ctl 0 24) x.dw
  | .lkpLpm4 => lpm 1 (fld p.a 32 12) (fld p.a 0 32)
  | .lkpLpm6 => lpm 2 (fld p.b 0 12) (p.a.toNat * 2 ^ 64 + p.a2.toNat)
  | .lkpTun =>
    let k1 : List DWord := [p.a &&& 0xFFFFFFFF0FFFFFFF]
    let k2 : List DWord := [p.a &&& 0x0FFFFFFF]
    (∀ s x, lookupKey d0 3 k1 = .found s x → r = entryResult 0x00 s 0 x.dw) ∧
    (lookupKey d0 3 k1 = .miss → (∀ s x, fld p.a 32 32 ≠ 0 → lookupKey d0 3 k2 = .found s x → r = entryResult 0x00 s 0 x.dw) ∧
      (fld p.a 32 32 = 0 ∨ lookupKey d0 3 k2 = .miss → e = d ∧ r = rStat 0x01))
  | .flowFind =>
    (∀ s x, lookupKey d0 4 flow = .found s x → r = if x.absent then rStat 0x01 else entryResult 0x00 s 0 x.dw) ∧
    (lookupKey d0 4 flow = .miss → hbmEn d0 = false → e = d ∧ r = rStat 0x01) ∧
    (lookupKey d0 4 flow = .miss → hbmEn d0 = true → flowInit d0 = false → promoting d0 flow = false → flowAbsent d0 flow = false →
      promoting d flow = false → d.lk.promos.length < 256 → r = rStat 0x0B ∧ e.lk.promos = d.lk.promos ++ [(flow, d.tick)] ∧
      ∀ t k, entOf e t k = entOf d t k)
  | .flowFindIns =>
    (∀ s x, lookupKey d0 4 flow = .found s x → x.absent = false → r = entryResult 0x00 s 0 x.dw) ∧
    ∀ k, lookupKey d0 4 flow = .miss → hbmEn d0 = false → hbmEn d = false → findAny d 4 flow = none → d.lk.inserted < 128 →
      search d 4 flow = some ([], k) → ∃ x, entOf e 4 k = some x ∧ SlotsBut d e 4 k ∧ x.kw = flow ∧ x.dw = [p.b, 0, 0, 0] ∧
        x.isHit = true ∧ x.absent = false ∧ e.lk.inserted = d.lk.inserted + 1 ∧ r = entryResult 0x13 k 0 [p.b, 0, 0, 0]
  | .flowUpdate =>
    ∀ s x, lookupKey d0 4 flow = .found s x → badFor d0 4 flow = [] → x.absent = false → r = entryResult 0x00 s 0 x.dw ∧
      ∀ k y, findKey d 4 flow = some (k, y) → y.absent = false → SlotsBut d e 4 k ∧ ∃ z, entOf e 4 k = some z ∧
        z.dw = p.b :: y.dw.drop 1 ∧ z.kw = y.kw ∧ z.isHit = true ∧ z.version = (y.version + 1) % 65536
  | .flowDelete =>
    ∀ s x, lookupKey d0 4 flow = .found s x → badFor d0 4 flow = [] → r = (if x.absent then rStat 0x01 else entryResult 0x00 s 0 x.dw) ∧
      ∀ k y, findKey d 4 flow = some (k, y) → entOf e 4 k = none ∧ SlotsBut d e 4 k
  | _ => True

/-- What posted operations on memories, counters, meters, hashes and frame buffers return and change (R116, R117, R121 to R123, R253, R467;
Tables 4-6 to 4-9). -/
def Sys2Proof.Claims.MemoryServed (d0 d : Dev) (p : Posted) (e : Dev) (r : PRes) : Prop :=
  let a := p.a.toNat
  let mat (new : Nat → Nat) : Prop :=
    (∀ st, st ≠ 0 → (memCheck d p.who a 8 8 false).1 = st → e = d ∧ r = rStat st) ∧
    ∀ m off, memCheck d p.who a 8 8 false = (0, m, off) → memBad d m off 8 = false →
      let old := leNat (memGet d m off 8)
      r = ⟨0, 0, [BitVec.ofNat 64 old]⟩ ∧ leNat (memGet e m off 8) = new old % 2 ^ 64 ∧
      (∀ j, j < off ∨ off + 8 ≤ j → memGet e m j 1 = memGet d m j 1) ∧ ∀ m' j, m' ≠ m → memGet e m' j 1 = memGet d m' j 1
  match p.op with
  | .mrd =>
    let n := 8 * (max p.n 2 - 1)
    e = d ∧ (∀ st, st ≠ 0 → (memCheck d0 p.who a n 8 true).1 = st → r = rStat st) ∧
    ∀ m off, memCheck d0 p.who a n 8 true = (0, m, off) → 2 ≤ p.n → memBad d0 m off n = false →
      r = ⟨0, 0, (List.range (p.n - 1)).map fun i => BitVec.ofNat 64 (leNat (memGet d0 m (off + 8 * i) 8))⟩
  | .mwr sz =>
    let n := 2 ^ sz.toNat
    (∀ st, st ≠ 0 → (memCheck d p.who a n n false).1 = st → e = d ∧ r = rStat st) ∧
    ∀ m off, memCheck d p.who a n n false = (0, m, off) → (n = 8 ∨ memBad d m off n = false) →
      r = rStat 0 ∧ memGet e m off n = leBytes n p.b.toNat ∧
      (∀ j, j < off ∨ off + n ≤ j → memGet e m j 1 = memGet d m j 1) ∧ ∀ m' j, m' ≠ m → memGet e m' j 1 = memGet d m' j 1
  | .matAdd => mat fun old => old + p.b.toNat
  | .matSwap => mat fun _ => p.b.toNat
  | .matCas => mat fun old => if old = p.b.toNat then p.b2.toNat else old
  | .matOr => mat fun old => old ||| p.b.toNat
  | .matAnd => mat fun old => old &&& p.b.toNat
  | .cntAdd =>
    let i := fld p.a 0 24
    (pairOk_ d i = false → e = d ∧ r = rStat 0x0C) ∧
    (pairOk_ d i = true → r = rStat 0 ∧
      pairGet e i = (((pairGet d i).1 + 1) % 2 ^ 64, ((pairGet d i).2 + fld p.b 0 32) % 2 ^ 64) ∧ ∀ k, k ≠ i → pairGet e k = pairGet d k)
  | .cntRead =>
    let i := fld p.a 0 24
    e = d ∧ r = if pairOk_ d i then ⟨0, 0, [BitVec.ofNat 64 (pairGet d i).1, BitVec.ofNat 64 (pairGet d i).2]⟩ else rStat 0x0C
  | .mtr pre =>
    let m := fld p.a 0 16
    let x := meterOf d m
    let y := meterOf e m
    let aware := bit x.w1 57
    let b := 65536 * ((fld p.b 0 32 : Int) + sextInt 8 (fld x.w1 48 8)).toNat
    (∀ k, k ≠ m → meterOf e k = meterOf d k) ∧ (r.st = 0 ∧ r.data = []) ∧
    (bit x.w1 58 = false → y = x ∧ r.sum = if aware then pre.toNat else 0) ∧
    (bit x.w1 58 = true → bit x.w1 56 = true → aware = false →
      (x.e < b → y = x ∧ r.sum = 2) ∧ (b ≤ x.e → x.c < b → y = { x with e := x.e - b } ∧ r.sum = 1) ∧
      (b ≤ x.e → b ≤ x.c → y = { x with e := x.e - b, c := x.c - b } ∧ r.sum = 0)) ∧
    (bit x.w1 58 = true → bit x.w1 56 = false → aware = false →
      (b ≤ x.c → y = { x with c := x.c - b } ∧ r.sum = 0) ∧ (x.c < b → b ≤ x.e → y = { x with e := x.e - b } ∧ r.sum = 1) ∧
      (x.c < b → x.e < b → y = x ∧ r.sum = 2))
  | .hash _ => e = d ∧ r.st = 0 ∧ r.sum < 2 ^ 32 ∧ r.data = [] ∧
      ∀ (c0 c : Dev) (q : Posted), c.ct.epoch = d.ct.epoch → q.op = p.op → q.a = p.a → q.b = p.b → (draftOp c0 c q).2 = r
  | .cattAttach => e = d ∧ r = rStat (cattStatus d0 (fld p.a 0 20))
  | .cattDetach => e = d ∧ r = rStat 0
  | .frmAlloc => (freeBuf d = none → e = d ∧ r = rStat 0x02) ∧
      ∀ n, freeBuf d = some n → n < poolCount d ∧ n ∉ d.rl.held ∧ e.rl = { d.rl with held := n :: d.rl.held } ∧
        r = ⟨0, bufHandle d n % 2 ^ 56, []⟩
  | .frmSend => ∀ n, handleBuf d a = some n →
      (n ∉ d.rl.held ∨ fld p.b 0 13 < 60 ∨ 4160 < fld p.b 0 13 → e = d ∧ r = rStat 0x0C) ∧
      (n ∈ d.rl.held → 60 ≤ fld p.b 0 13 → fld p.b 0 13 ≤ 4160 → r = rStat 0 ∧ n ∉ e.rl.held ∧ (∀ k, k ≠ n → (k ∈ e.rl.held ↔ k ∈ d.rl.held)) ∧
        (canTake d 29 = true → ∃ f, frameOf e d.sw.nextFrame = some f ∧ f.input = 29 ∧ f.cls = some (fld p.b 16 3) ∧
          f.bkt = some (fld p.b 20 12) ∧ let bs := bufBytes d n (fld p.b 0 13 - 4); f.bytes = (bs ++ fcsOf bs).take (256 * rxmaxOf d 29)))
  | .frmFree => ∀ n, handleBuf d a = some n → (n ∉ d.rl.held → e = d ∧ r = rStat 0x0C) ∧
      (n ∈ d.rl.held → r = rStat 0 ∧ n ∉ e.rl.held ∧ ∀ k, k ≠ n → (k ∈ e.rl.held ↔ k ∈ d.rl.held))
  | _ => True

/-- What lock and channel operations return and change (R138 to R140, R146 to R148). -/
def Sys2Proof.Claims.LocksServed (now : Nat) (d : Dev) (p : Posted) (e : Dev) (r : PRes) : Prop :=
  let l := p.a.toNat % 4096
  let x := lockOf d l
  let c := p.a.toNat % 4096
  let y := chanOf d c
  let z := chanOf e c
  let otherLocks : Prop := ∀ m, m ≠ l → lockOf e m = lockOf d m
  let otherChans : Prop := ∀ k, k ≠ c → chanOf e k = chanOf d k
  match p.op with
  | .lockAcq => lockRank d l = none →
      (x.holder = none → r = rStat (if x.poison then 0x07 else 0x00) ∧ lockOf e l = { x with holder := some p.who } ∧ otherLocks) ∧
      ∀ w, x.holder = some w → w ≠ p.who → reqOf d w = none → reqOf d p.who = none → r = rStat 0x04 ∧ otherLocks ∧
        lockOf e l = { x with queue := x.queue ++ [p.who] } ∧
        reqOf e p.who = some ⟨l, now + if p.b.toNat % 65536 = 0 then 65535 else p.b.toNat % 65536⟩
  | .lockTry => lockRank d l = none →
      (x.holder = none → r = rStat (if x.poison then 0x07 else 0x00) ∧ lockOf e l = { x with holder := some p.who } ∧ otherLocks) ∧
      (x.holder ≠ none → e = d ∧ r = rStat 0x03)
  | .lockRel => (x.holder = some p.who → r = rStat 0x00 ∧ lockOf e l = { x with holder := none, poison := false } ∧ otherLocks) ∧
      (x.holder ≠ some p.who → e = d ∧ r = rStat 0x0D)
  | .lockPoll => e = d ∧ (x.holder = some p.who → r = rStat (if x.poison then 0x07 else 0x00)) ∧
      (x.holder ≠ some p.who → (reqOf d p.who = none → r = rStat 0x05) ∧
        ∀ q, reqOf d p.who = some q → q.lock = l → now < q.deadline → r = rStat 0x04)
  | .chanOpen => (chanEn d c = false → e = d ∧ r = rStat 0x0C) ∧
      (chanEn d c = true → chanDepth d c ≤ y.slots.length → e = d ∧ r = rStat 0x02) ∧
      (chanEn d c = true → y.slots.length < chanDepth d c → r = ⟨0x00, c + y.next % 2 ^ 20 * 4096, []⟩ ∧ otherChans ∧
        z.next = y.next + 1 ∧ z.oldest = y.oldest ∧ z.readable = y.readable ∧
        (∃ s, mget z.slots y.next none = some s ∧ s.st = .reserved ∧ s.writer = p.who ∧ s.ticks = 0 ∧ ∀ i, mget s.words i 0 = 0) ∧
        ∀ q, q ≠ y.next → mget z.slots q none = mget y.slots q none)
  | .chanWrite w => (chanEn d c = false → e = d ∧ r = rStat 0x0C) ∧
      (chanEn d c = true → handleSlot d c (p.a.toNat / 4096 % 2 ^ 20) = none → e = d ∧ r = rStat 0x08) ∧
      ∀ q s, chanEn d c = true → handleSlot d c (p.a.toNat / 4096 % 2 ^ 20) = some (q, s) → r = rStat 0x00 ∧ otherChans ∧
        (∃ s', mget z.slots q none = some s' ∧ s'.st = s.st ∧ s'.writer = s.writer ∧
          ∀ i, mget s'.words i 0 = if i = w.val then p.b else mget s.words i 0) ∧
        ∀ k, k ≠ q → mget z.slots k none = mget y.slots k none
  | .chanCommit => ∀ q s, chanEn d c = true → handleSlot d c (p.a.toNat / 4096 % 2 ^ 20) = some (q, s) →
      (p.b.toNat % 8 = 0 → e = d ∧ r = rStat 0x0C) ∧
      (p.b.toNat % 8 ≠ 0 → r = rStat 0x00 ∧ otherChans ∧
        mget z.slots q none = some { s with st := .published, count := p.b.toNat % 8 } ∧
        ∀ k, k ≠ q → mget z.slots k none = mget y.slots k none)
  | .chanRead => (chanEn d c = false → e = d ∧ r = rStat 0x0C) ∧ (chanEn d c = true → y.readable = 0 → e = d ∧ r = rStat 0x0A) ∧
      ∀ s, chanEn d c = true → y.readable ≠ 0 → mget y.slots y.oldest none = some s → otherChans ∧
        r = (if s.st = .void then rStat 0x09 else ⟨0x00, s.count, (List.range s.count).map fun i => mget s.words i 0⟩) ∧
        z.oldest = y.oldest + 1 ∧ z.readable = y.readable - 1 ∧ mget z.slots y.oldest none = none ∧
        ∀ k, k ≠ y.oldest → mget z.slots k none = mget y.slots k none
  | _ => True

/-- What a posted operation does at its boundary, and that its result then stands in the P registers of its span for the thread's next stage
(R104, R106, R107), where no operation issued later fills them. -/
def Sys2Proof.Claims.PostedServed (p : Posted) : Prop :=
  ∀ (now : Nat) (d0 d : Dev), let z := served now d0 d p
    TablesServed d0 d p z.1 z.2 ∧ MemoryServed d0 d p z.1 z.2 ∧ LocksServed now d p z.1 z.2 ∧
    ∀ r : PRes, let x := thrOf d p.who
      p.stepped = false → x.dbg.faulted = false → x.run ≠ .off → (isService d p.who = true ∨ (x.skein = p.skein ∧ holdsSkein x = true)) →
      (∀ i, mget x.pby i 0 ≤ p.no + 1) →
      (∀ j, j ≠ p.who → thrOf (deliver d p r) j = thrOf d j) ∧
      ∀ i, i < p.n → mget (thrOf (deliver d p r) p.who).pnext (p.pr + i) 0 =
        if i = 0 then BitVec.ofNat 64 (r.st * 2 ^ 56 + r.sum % 2 ^ 56) else r.data.getD (i - 1) 0

/-- R104, R105, R107, R120: each posted operation joins the operations of the tick, with its thread, its result span and the values that its
operands have now; the thread counts it and goes on. A cipher attachment follows the association's state at once, and DETACH leaves none.
Nothing else changes: an operation has its other effects and its result at the boundary that ends the tick, where its unit serves it as
chapter 4 says. A ninth posted operation of a stage is not performed and faults the thread with cause 0x10. Clauses rest on the model's own
choices or readings: log entries 23, 24. -/
def Obligations.PostedOperationsJoinTheTick : Prop :=
  ∀ (s : State) (t : Tid) (op : POp) (pr nM1 : BitVec 3) (a b : BitVec 6), MayIssue s t (.post op pr nM1 a b) →
    let x := thread s t
    (8 ≤ x.posted → bit (cur s.dev .rlFaultInfo t.reel 0) 31 = false →
      ∃ u, exec (postInstr op t pr nM1 a b) s = .next u ∧ u.dev.rl.posted = s.dev.rl.posted ∧ 1 ∈ u.dev.ft.raising ∧
        fld (cur u.dev .rlFaultInfo t.reel 0) 16 6 = 0x10 ∧ (∀ j, j ≠ tkey t → thrOf u.dev j = thrOf s.dev j)) ∧
    (x.posted < 8 → ∃ u p, exec (postInstr op t pr nM1 a b) s = .next u ∧
      u = { s with dev := { s.dev with rl := { s.dev.rl with
        threads := u.dev.rl.threads, posted := s.dev.rl.posted ++ [p], cycles := (noteIssue (tkey t) s.dev).rl.cycles } } } ∧
      (∀ j, j ≠ tkey t → thrOf u.dev j = thrOf s.dev j) ∧
      thread u t = { x with
        posted := x.posted + 1, pc := (thread u t).pc, loop := (thread u t).loop, catt := (thread u t).catt,
        dbg := { x.dbg with passed := none } } ∧
      FallsThrough x (thread u t) ∧
      (thread u t).catt = (match op with
        | .cattAttach => if cattStatus s.dev (fld (specRd x a) 0 20) = 0x00 ∨ cattStatus s.dev (fld (specRd x a) 0 20) = 0x10
            then some (fld (specRd x a) 0 20) else none
        | .cattDetach => none
        | _ => x.catt) ∧
      PostedServed p ∧ p.stepped = false ∧ p.who = tkey t ∧ p.no = x.posted ∧ p.op = op ∧ p.pr = pr.toNat ∧ p.n = nM1.toNat + 1 ∧ p.a = specRd x a ∧ p.a2 = gRd x (a.toNat + 1) ∧
      p.b = specRd x b ∧ p.b2 = gRd x (b.toNat + 1) ∧ p.pc = x.pc ∧ p.word = whorlWord (.post op pr nM1 a b) ∧
      p.skein = if service s t then none else x.skein)

/-- R103, R106, R125, R130: STAGE before the last stage, or in a service thread, makes the thread wait for the next boundary; WAIT puts a
service thread to sleep on a mask, with a timeout counted from the boundary that ends the tick; EDIT, below 16 entries, appends its
operation, the value of A and IMM14 to the edit list. Nothing else changes. A WAIT whose timeout has run out, with no event pending in its
mask, wakes its thread with line number 64 in G30 and 0 in G29; the P registers take the results that have arrived (R106). -/
def Obligations.StageWaitAndEdit : Prop :=
  ∀ (s : State) (t : Tid) (a b : BitVec 6) (eop : BitVec 5) (im : BitVec 14),
    let x := thread s t
    (MayIssue s t .stage → (service s t = true ∨ x.stageNo < x.stageCnt) → ∃ u, exec (.stage t) s = .next u ∧
      OnlyIssue s u (tkey t) ∧ thread u t = { x with run := .staged, pc := x.pc + 1, dbg := { x.dbg with passed := none } }) ∧
    (MayIssue s t (.wait a b) → ∃ u, exec (.wait t a b) s = .next u ∧ OnlyIssue s u (tkey t) ∧
      thread u t = { x with
        run := .waiting (specRd x a) (let n := ((specRd x b).extractLsb' 0 32).toNat
                                      if n = 0 then none else some (s.dev.tick + 1 + n)),
        pc := x.pc + 1, dbg := { x.dbg with passed := none } }) ∧
    (MayIssue s t (.edit eop a im) → x.edits.length < 16 → ∃ u, exec (.edit t eop a im) s = .next u ∧ OnlyIssue s u (tkey t) ∧
      FallsThrough x (thread u t) ∧ thread u t = { x with
        edits := x.edits ++ [⟨eop, specRd x a, im⟩], pc := (thread u t).pc, loop := (thread u t).loop,
        dbg := { x.dbg with passed := none } }) ∧
    (∀ mask dl, Live s → x.run = .waiting mask (some dl) → dl ≤ s.dev.tick → x.dbg.faulted = false → x.dbg.halted = false →
      nextEvent s.dev (tkey t) mask = none → ∃ u, exec (.waitTimeout t) s = .next u ∧ OnlyThread s u (tkey t) ∧
        (∀ r, gRd (thread u t) r = if r = 30 then 64 else if r = 29 then 0 else gRd x r) ∧
        (thread u t).run = .ready ∧ (thread u t).p = x.pnext ∧ (thread u t).pc = x.pc)

/-- R119, R126, R127: a verdict ends the skein and the stage. The ordering unit receives it with the values of its operands, the edit list, the
header vector as it stands and the cipher attachment; the thread's locks are released without the poisoned flag; no other thread changes,
and no memory. Clauses rest on the model's own choices or readings: log entry 24. -/
def Obligations.VerdictsEndTheSkein : Prop :=
  ∀ (s : State) (t : Tid) (v : VKind) (a b : BitVec 6) (im : BitVec 8) (sk : Skein),
    MayIssue s t (.verdict v a b im) → (thread s t).skein = some sk →
    let x := thread s t
    ∃ u colour, exec (verdictInstr v t a b im) s = .next u ∧
      u = { s with dev := { s.dev with rl := { s.dev.rl with
                                         threads := u.dev.rl.threads, ord := u.dev.rl.ord,
                                         cycles := (noteIssue (tkey t) s.dev).rl.cycles },
                                       dr := { s.dev.dr with endings := s.dev.dr.endings ++ [(tkey t, false)] } } } ∧
      (∀ j, j ≠ tkey t → thrOf u.dev j = thrOf s.dev j) ∧
      thread u t = { x with run := .ended, dbg := { x.dbg with passed := none } } ∧
      u.dev.rl.ord = (s.dev.rl.ord.map fun e => if e.skein.seq = sk.seq ∧ e.verdict = none then
        { e with verdict := some (.prog v (specRd x a) (specRd x b) im colour x.edits x.h x.catt) } else e)

/-- An instruction of a thread leaves the registers, program counter, FLAGS and skein of every other thread, every fuse, the flash devices, the
pins, HBM and hank memory: what one thread issues reaches another only through the units that a boundary serves. Clauses rest on the model's
own choices or readings: log entries 21, 23. -/
def Obligations.AThreadsInstructionLeavesOtherThreads : Prop :=
  ∀ (s : State) (t : Tid) (i : Whorl) (j : Nat), j ≠ tkey t →
    thrOf (issue t i s.dev) j = thrOf s.dev j ∧ (issue t i s.dev).hbm = s.dev.hbm ∧ (issue t i s.dev).hank = s.dev.hank ∧
    (issue t i s.dev).tick = s.dev.tick ∧ (issue t i s.dev).sw = s.dev.sw ∧ (issue t i s.dev).hp = s.dev.hp ∧
    (issue t i s.dev).lk = s.dev.lk ∧ (issue t i s.dev).ci = s.dev.ci ∧ (issue t i s.dev).bs = s.dev.bs ∧
    (issue t i s.dev).ct = s.dev.ct

/-! ### Locks, channels, groups (chapter 5) -/

/-- R135, R138, R143: what the lock unit does with one request. ACQ and TRY of a free lock grant it, with POISONED where its flag is set;
TRY of a held lock answers BUSY and changes nothing; REL by the holder frees the lock and clears the flag, REL by another thread
answers DENIED and changes nothing. A grant or a release touches that lock alone. -/
def Obligations.LockRequestsFollowR138 : Prop :=
  ∀ (d : Dev) (p : Posted) (now : Nat), p.a.toNat < 4096 → lockRank d p.a.toNat = none →
    let l := p.a.toNat
    let x := lockOf d l
    let rest (e : Dev) : Prop := (∀ m, m ≠ l → lockOf e m = lockOf d m) ∧ e.dr.reqs = d.dr.reqs ∧ e.rl = d.rl
    (x.holder = none → ∀ try_, let r := lockAcq now d p try_
      r.2 = rStat (if x.poison then 0x07 else 0x00) ∧ lockOf r.1 l = { x with holder := some p.who } ∧ rest r.1) ∧
    (∀ y, x.holder = some y → lockAcq now d p true = (d, rStat 0x03)) ∧
    (x.holder = some p.who → let r := lockRel d p.who l
      r.2 = rStat 0x00 ∧ lockOf r.1 l = { x with holder := none, poison := false } ∧ rest r.1) ∧
    (x.holder ≠ some p.who → lockRel d p.who l = (d, rStat 0x0D))

/-- R140, R149, R160: a queued lock request whose time has come is withdrawn and counted; a channel's reserved slots whose publish
timeout has run out become VOID and are counted; a group that has been in the doldrums for WINDOW boundaries raises DOLDRUMS (class 4), RAISED
rises, the count restarts, and the raise waits for the recovery thread. -/
def Obligations.ExpiriesOfLocksChannelsAndGroups : Prop :=
  ∀ (s : State) (t : Tid) (c : Fin 4096) (g : Fin 256), Live s →
    (∀ q, reqOf s.dev (tkey t) = some q → q.deadline ≤ s.dev.tick → ∃ u, exec (.lockRequestExpiry t) s = .next u ∧
      reqOf u.dev (tkey t) = none ∧ tkey t ∉ (lockOf u.dev q.lock).queue ∧
      (lockOf u.dev q.lock).holder = (lockOf s.dev q.lock).holder ∧
      cur u.dev .drLockEvtCnt 1 0 = bumpSat (cur s.dev .drLockEvtCnt 1 0) 1) ∧
    (∃ u, exec (.chanPublishTimeout c) s = .next u ∧ ∀ e ∈ (chanOf u.dev c).slots, ∀ sl, e.2 = some sl →
      ¬ (sl.st = .reserved ∧ pubTimeout s.dev c ≤ sl.ticks)) ∧
    (cfgB s.dev .tkWgCfg g 0 31 = true → orIf0 (cfgF s.dev .tkWgCfg g 0 0 16) 1 ≤ mget s.dev.dr.dold g 0 →
      ∃ u w, exec (.doldrums g) s = .next u ∧ 4 ∈ u.dev.ft.raising ∧ mget u.dev.dr.dold g 0 = 0 ∧
        mget u.dev.dr.raises g none = some w ∧ (w : DWord).toNat % 256 = g.val ∧ u.dev.rl = s.dev.rl)


/-! ### Registers (chapters 1, 18 and 21, and the commands that have a BUSY bit) -/

namespace Sys2Proof.Claims
open Sys2Proof Sys2Proof.Machine

/-- Two states differ in nothing but register words. -/
abbrev RegsOnly (s u : State) : Prop := u = { s with dev := { s.dev with regs := u.dev.regs } }

/-- No register word changes but those at the addresses given. -/
def OtherWords (s u : State) (as : List Nat) : Prop :=
  ∀ a, a ∉ as → mfind u.dev.regs.cur a = mfind s.dev.regs.cur a ∧ mfind u.dev.regs.act a = mfind s.dev.regs.act a

/-- The word of an address as it is stored, and as the device uses it. -/
def storedWord (d : Dev) (a : Nat) : Word := mget d.regs.cur a (resetAt a)
def usedWord (d : Dev) (a : Nat) : Word := mget d.regs.act a (resetAt a)

/-- A read on the control path or the security processor's, in each case of the register that the address names. Registers whose read takes
an entry or other words with it have rows of their own. -/
def ReadsOfAWord (s : State) (p : Path) (a : Word) : Prop :=
  let d := s.dev
  let gives (v : Word) (f : Dev → Dev) : Prop := exec (.lowWordRead p a) s = .next { s with dev := emit (f d) (.readData p a v) }
  (locate a.toNat = none → gives 0 id) ∧
  ∀ l, locate a.toNat = some l →
    let mail : Prop := l.hi = false ∧ (l.reg = .vpMbIn ∨ l.reg = .vpMbOut)
    (¬mail → regDown d l a.toNat = true → gives 0 id) ∧
    (regDown d l a.toNat = false → latchedWord l = true → gives (getLatch d p a.toNat) id) ∧
    (mail → ∀ m ∈ [(Reg.vpMbIn, false), (Reg.vpMbOut, true)], l.reg = m.1 → exec (.lowWordRead p a) s =
      .next { s with dev := { d with ct := { d.ct with fwq := d.ct.fwq ++ [⟨p, l.i, m.2, none, false⟩] } } }) ∧
    (regDown d l a.toNat = false → latchedWord l = false → (regDef l.reg).wide = true → ¬mail →
      let v := (viewOf d l.reg l.i l.j).getD (cur64 d l.reg l.i l.j).toNat
      ∃ u, exec (.lowWordRead p a) s = .next u ∧ u.dev.out = .readData p a (BitVec.ofNat 32 v) :: d.out ∧
        getLatch u.dev p (a.toNat + 4) = BitVec.ofNat 32 (v / 2 ^ 32) ∧
        (∀ q b, pathKey q ≠ pathKey p ∨ b ≠ a.toNat + 4 → getLatch u.dev q b = getLatch d q b) ∧
        u = { s with dev := { d with
          out := u.dev.out, regs := { d.regs with latch := u.dev.regs.latch } } }) ∧
    (regDown d l a.toNat = false → latchedWord l = false → (regDef l.reg).wide = false → hiOf l.reg l.i = none →
      l.reg ∉ [Reg.tkTickLo, .tmNowFrac, .tmTxts, .ftLog, .ftCntRd, .ciRekeyQ, .bsLocked, .pwGustStatus] →
      ∃ u, exec (.lowWordRead p a) s = .next u ∧
        u.dev.out = .readData p a (BitVec.ofNat 32 ((viewOf d l.reg l.i l.j).getD (cur d l.reg l.i l.j).toNat)) :: d.out ∧
        cur u.dev l.reg l.i l.j = cur d l.reg l.i l.j &&& ~~~(half (regDef l.reg).rc false) ∧
        (∀ b, b ≠ addr l.reg l.i l.j → mfind u.dev.regs.cur b = mfind d.regs.cur b) ∧
        u = { s with dev := { d with out := u.dev.out, regs := { d.regs with cur := u.dev.regs.cur } } })

/-- A read by a host port: its own vports' pages only, the low word of an 8-byte register with its high word latched; a mailbox word or the
doorbell bits by an MBR, which the next boundary answers (R427). -/
def EndpointReadsOfAWord (s : State) (h : Fin 8) (a : Word) : Prop :=
  let d := s.dev
  let A := a.toNat
  let pg := (A - 0x1000000) / 0x1000
  let gives (v : Word) : Prop := exec (.lowWordRead (.mbx h) a) s = .next { s with dev := emit d (.readData (.mbx h) a v) }
  let own : Prop := 0x1000000 ≤ A ∧ A < 0x1800000 ∧ pg / 256 = h.val
  let mail : Prop := A % 0x1000 ∈ [0x008, 0x010, 0x018]
  (¬own → gives 0) ∧
  (own → mail → exec (.lowWordRead (.mbx h) a) s = .next { s with dev := putLink d h { linkOf d h with
    hostq := (linkOf d h).hostq ++ [⟨0x12, BitVec.ofNat 8 (pg % 256), 0, 8, 0, 0, BitVec.ofNat 64 (A % 0x1000), []⟩] } }) ∧
  (own → A % 8 = 4 → gives (getLatch d (.mbx h) A)) ∧
  (own → A % 8 ≠ 4 → pageRead pg (A % 0x1000) d = none → gives 0) ∧
  ∀ e v, own → ¬mail → A % 8 ≠ 4 → pageRead pg (A % 0x1000) d = some (e, v) → ∃ u, exec (.lowWordRead (.mbx h) a) s = .next u ∧
    u.dev.out = .readData (.mbx h) a (BitVec.ofNat 32 v) :: e.out ∧ getLatch u.dev (.mbx h) (A + 4) = BitVec.ofNat 32 (v / 2 ^ 32) ∧
    u = { s with dev := { e with out := u.dev.out, regs := { e.regs with latch := u.dev.regs.latch } } }

/-- Registers of one word whose writes follow the access codes and nothing else (R5, R526). -/
def plainRegs : List Reg :=
  [.tkVerdictCfg, .lkWalkCfg, .lkLearnCfg, .swCtEn, .swMcCfg, .scSmpSched, .scSmpCons, .ciCacheCfg, .pwSagCfg, .tmAdj, .tmStepNs,
   .tmStepSecLo, .tmStepSecHi, .tmTxtsSig, .ftCntRdIdx, .ftMemCfg, .mgPeriod]

/-- The commits of R527 with their blocks. -/
def commitRows : List (Instr × Blk) :=
  [(.tkCommit, .tk), (.lkCommit, .lk), (.swCommit, .sw), (.scCommit, .sc), (.ciCommit, .ci), (.bsCommit, .bs)]

/-- Whether a commit of a block is refused while STRICT is 1 (Table 14-4). -/
def commitRefused (d : Dev) (b : Blk) : Bool :=
  bit (cur d .ctIsoCfg 0 0) 31 && match b with
    | .sw => !partsFit d
    | .ci => !ciShareOk d
    | .bs => !ctxFit d
    | _ => false

/-- A command that sets BUSY in a command register: its row, the register and its instance, and the fields that the row writes (lowest
bit, width, value). -/
structure BusyRow where
  cmd : Instr
  reg : Reg
  i : Nat
  fields : List (Nat × Nat × Nat)

/-- The rows of LK_CMD, SW_MC_CMD, SC_MTR_CMD, CI_SA_CMD, BS_CMD and BB_QCMD (Tables 7-18, 8-17, 9-7, 12-15, 13-19, R538). -/
def busyRows (k : Fin 4) (t : BitVec 3) (byIx : Bool) (ix : BitVec 20) (g : BitVec 14) (m : BitVec 16) (b : BitVec 2)
    (q : BitVec 15) : List BusyRow :=
  let lk (op : Nat) : List (Nat × Nat × Nat) := [(0, 4, op), (4, 3, t.toNat), (9, 1, b2n byIx), (10, 20, ix.toNat)]
  let sa (op : Nat) : List (Nat × Nat × Nat) := [(23, 3, op), (0, 20, ix.toNat)]
  let bs (op tab : Nat) : List (Nat × Nat × Nat) := [(24, 3, op), (22, 2, tab), (0, 16, m.toNat)]
  let qc : List (Nat × Nat × Nat) := [(20, 2, b.toNat), (0, 15, q.toNat)]
  [⟨.lkRead k t byIx ix, .lkCmd, k, lk 1⟩, ⟨.lkWrite k t byIx ix, .lkCmd, k, lk 2⟩, ⟨.lkInsert k t byIx ix, .lkCmd, k, lk 3⟩,
   ⟨.lkDelete k t byIx ix, .lkCmd, k, lk 4⟩, ⟨.lkCas k t byIx ix, .lkCmd, k, lk 5⟩,
   ⟨.mcRead g, .swMcCmd, 0, [(0, 2, 1), (4, 14, g.toNat)]⟩, ⟨.mcWrite g, .swMcCmd, 0, [(0, 2, 2), (4, 14, g.toNat)]⟩,
   ⟨.mtrRead m, .scMtrCmd, 0, [(0, 2, 1), (8, 16, m.toNat)]⟩, ⟨.mtrWrite m, .scMtrCmd, 0, [(0, 2, 2), (8, 16, m.toNat)]⟩,
   ⟨.saRead ix, .ciSaCmd, 0, sa 1⟩, ⟨.saDisable ix, .ciSaCmd, 0, sa 2⟩, ⟨.saSetSoft ix, .ciSaCmd, 0, sa 3⟩,
   ⟨.saEvict ix, .ciSaCmd, 0, sa 4⟩, ⟨.bsRead b m, .bsCmd, 0, bs 1 b.toNat⟩, ⟨.bsWrite b m, .bsCmd, 0, bs 2 b.toNat⟩,
   ⟨.connOpen m, .bsCmd, 0, bs 3 2⟩, ⟨.connClose m, .bsCmd, 0, bs 4 2⟩, ⟨.connReset m, .bsCmd, 0, bs 5 2⟩,
   ⟨.qctxRead b q, .bbQcmd, 0, qc⟩, ⟨.qctxWrite b q, .bbQcmd, 0, qc⟩, ⟨.qctxEnable b q, .bbQcmd, 0, qc⟩, ⟨.qctxDisable b q, .bbQcmd, 0, qc⟩]

/-- A command runs, and once its unit has served it at the boundary that ends the tick, the device is as P says. -/
def Done (s : State) (c : Instr) (unit : Dev → Dev) (P : Dev → Prop) : Prop := ∃ u, exec c s = .next u ∧ P (unit u.dev)

/-- BUSY has cleared and the status field (lowest bit, width) reads the value. -/
def Ended (e : Dev) (r : Reg) (i lo n st : Nat) : Prop := bit (cur e r i 0) 31 = false ∧ fld (cur e r i 0) lo n = st

/-- Two words of a data window of words of 32 bits, as one of 64. -/
def pairAt (f : Nat → Word) (j : Nat) : DWord := BitVec.ofNat 64 ((f (2 * j)).toNat + (f (2 * j + 1)).toNat * 2 ^ 32)

/-- The lookup commands (Table 7-4) where they succeed. -/
def LookupServed (s : State) (k : Fin 4) (t : BitVec 3) (ix : BitVec 20) : Prop :=
  let d := s.dev
  let T := t.toNat
  let ws := cmdWords d k
  let kw := ws.take (keyWords T)
  let unit (d : Dev) : Dev := lkPerform d k
  let n := cmdEnt T ws
  let ok (e : Dev) (i : Nat) : Prop := bit (cur e .lkCmd k 0) 31 = false ∧ cur e .lkCmdResult k 0 = BitVec.ofNat 32 i
  let shows (e : Dev) (y : TEnt) : Prop := (cmdWords e k).take 7 = sliceD 0 y.words 0 7
  let others (e : Dev) (i : Nat) : Prop := ∀ j, j ≠ i → entOf e T j = entOf d T j
  T < 5 →
    (∀ y byIx, ix.toNat < slotCount T → slotBad d T ix.toNat = 0 → entOf d T ix.toNat = some y → byIx = true →
      Done s (.lkRead k t byIx ix) unit fun e => ok e ix.toNat ∧ shows e y ∧ e.lk = d.lk) ∧
    (∀ i y, keyOk T kw = true → lookupKey d T kw = .found i y →
      Done s (.lkRead k t false ix) unit fun e => ok e i ∧ shows e y) ∧
    (keyOk T kw = true → lookupKey d T kw = .miss →
      Done s (.lkRead k t false ix) unit fun e => ok e (2 ^ 24)) ∧
    (T < 4 → ix.toNat < slotCount T → keyOk T n.kw = true → ctlOk T (ws.getD (keyWords T) 0) = true → slotFor d T ix.toNat n.kw = true →
      (∀ x, findAny d T n.kw = some x → x.1 = ix.toNat) → shadowWrong T n ws = false →
      Done s (.lkWrite k t true ix) unit fun e => ok e ix.toNat ∧ others e ix.toNat ∧
        entOf e T ix.toNat = some { n with
          camAt := d.tick
          ctl := match entOf d T ix.toNat with | some o => setFld n.ctl 32 16 (o.version + 1) | none => n.ctl }) ∧
    (∀ j, T < 4 → keyOk T n.kw = true → ctlOk T (ws.getD (keyWords T) 0) = true → badFor d T n.kw = [] → findAny d T n.kw = none →
      shadowWrong T n ws = false → search d T n.kw = some ([], j) →
      Done s (.lkInsert k t false ix) unit fun e => ok e j ∧ others e j ∧ entOf e T j = some { n with camAt := d.tick }) ∧
    (∀ y, ix.toNat < slotCount T → entOf d T ix.toNat = some y →
      Done s (.lkDelete k t true ix) unit fun e => ok e ix.toNat ∧ others e ix.toNat ∧ entOf e T ix.toNat = none) ∧
    (∀ i y, keyOk T kw = true → badFor d T kw = [] → findKey d T kw = some (i, y) → y.absent = false →
      Done s (.lkDelete k t false ix) unit fun e => ok e i ∧ others e i ∧ entOf e T i = none) ∧
    (∀ i y, let z := TEnt.bump { y with ctl := setFld (setFld n.ctl 25 4 (fld y.ctl 25 4)) 32 16 y.version, dw := n.dw }
      keyOk T n.kw = true → ctlOk T (ws.getD (keyWords T) 0) = true → badFor d T n.kw = [] → findKey d T n.kw = some (i, y) →
      y.absent = false → fld (ws.getD (keyWords T) 0) 32 16 = y.version → shadowWrong T z ws = false →
      Done s (.lkCas k t false ix) unit fun e => ok e i ∧ others e i ∧ entOf e T i = some z)

/-- The multicast and meter commands (R228, R255): what a READ shows, what a WRITE stores or stages, and what the commit of the staged
meter makes of it. -/
def GroupsAndMetersServed (s : State) (g : BitVec 14) (m : BitVec 16) : Prop :=
  let d := s.dev
  let mw (j : Nat) : DWord := BitVec.ofNat 64 ((cur d .scMtrData (2 * j) 0).toNat + 2 ^ 32 * (cur d .scMtrData (2 * j + 1) 0).toNat)
  let y : Meter := ⟨mw 0, setBit (mw 1) 59 false, 0, 0⟩
  let fits : Prop := (if bit (mw 1) 56 then fld (mw 0) 0 32 ≤ fld (mw 0) 32 32 else fld (mw 0) 32 32 = 0) ∧ fld (mw 1) 60 4 = 0
  let kept := d.sw.mtrStage.filter fun e => e.1 ≠ m.toNat
  (bit (cur d .swMcCmd 0 0) 31 = false →
    Done s (.mcRead g) mcPerform (fun e => Ended e .swMcCmd 0 24 1 0 ∧ e.sw = d.sw ∧ ∀ w, w < 8 → cur e .swMcData w 0 = mcWord d g.toNat w) ∧
    Done s (.mcWrite g) mcPerform fun e =>
      if mcBad (fun w => cur d .swMcData w 0) = true then Ended e .swMcCmd 0 24 1 1 ∧ e.sw = d.sw
      else Ended e .swMcCmd 0 24 1 0 ∧ (∀ w, w < 8 → mcWord e g.toNat w = cur d .swMcData w 0) ∧
        ∀ h w, h ≠ g.toNat → w < 8 → mcWord e h w = mcWord d h w) ∧
  (bit (cur d .scMtrCmd 0 0) 31 = false →
    Done s (.mtrRead m) mtrPerform (fun e => Ended e .scMtrCmd 0 24 3 0 ∧ e.sw = d.sw ∧ ∀ w, w < 8 → cur e .scMtrData w 0 =
      let x := meterOf d m.toNat
      BitVec.ofNat 32 ([x.w0.toNat, x.w1.toNat, x.c, x.e].getD (w / 2) 0 / 2 ^ (32 * (w % 2)))) ∧
    (¬fits → Done s (.mtrWrite m) mtrPerform fun e => Ended e .scMtrCmd 0 24 3 1 ∧ e.sw = d.sw) ∧
    (fits → 256 ≤ kept.length → Done s (.mtrWrite m) mtrPerform fun e => Ended e .scMtrCmd 0 24 3 2 ∧ e.sw = d.sw) ∧
    (fits → kept.length < 256 → Done s (.mtrWrite m) mtrPerform fun e => Ended e .scMtrCmd 0 24 3 0 ∧
      e.sw = { d.sw with mtrStage := kept ++ [(m.toNat, mw 0, mw 1)] } ∧
      meterOf (mtrCommit e) m.toNat = { y with
        c := if bit (mw 1) 59 then mtrCbs y else min (meterOf d m.toNat).c (mtrCbs y)
        e := if bit (mw 1) 59 then mtrEbs y else min (meterOf d m.toNat).e (mtrEbs y) }))

/-- The association commands (Table 12-15) where the association is VALID, and on one that is not. -/
def AssociationsServed (s : State) (ix : BitVec 20) : Prop :=
  let d := s.dev
  let i := ix.toNat
  let soft := (cur d .ciSaData 10 0).toNat + 2 ^ 32 * (cur d .ciSaData 11 0).toNat
  bit (cur d .ciSaCmd 0 0) 31 = false →
    (saValid d i = false → ∀ c ∈ [Instr.saRead ix, .saDisable ix, .saSetSoft ix, .saEvict ix],
      Done s c saPerform fun e => Ended e .ciSaCmd 0 26 4 2 ∧ e.hbm = d.hbm ∧ e.ci = { d.ci with saOp := none }) ∧
    (saValid d i = true →
      Done s (.saRead ix) saPerform (fun e => Ended e .ciSaCmd 0 26 4 0 ∧ e.hbm = d.hbm ∧ e.ci = { d.ci with saOp := none } ∧
        (keyOf d i = none → ∀ w, w < 31 → cur e .ciSaData w 0 = BitVec.ofNat 32 (leNat (sliceD 0 (saBytes d i 0 0x80) (4 * w) 4))) ∧
        (∀ k, keyOf d i = some k → ∀ j, j < 2 → cur e .ciSaData (8 + j) 0 = BitVec.ofNat 32 (leNat (sliceD 0 (leBytes 8 k.count) (4 * j) 4))) ∧
        fld (cur e .ciSaData 31 0) 0 4 = saState d i % 16) ∧
      Done s (.saDisable ix) saPerform (fun e => Ended e .ciSaCmd 0 26 4 0 ∧ e.ci.stPend = d.ci.stPend ++ [(i, 3)] ∧ e.hbm = d.hbm ∧
        (d.ci.rekey.length < 256 → e.ci.rekey = d.ci.rekey ++ [(i, true)])) ∧
      (soft = 0 ∨ saHard d i < soft → Done s (.saSetSoft ix) saPerform fun e => Ended e .ciSaCmd 0 26 4 2 ∧ e.hbm = d.hbm) ∧
      (soft ≠ 0 → soft ≤ saHard d i → Done s (.saSetSoft ix) saPerform fun e => Ended e .ciSaCmd 0 26 4 0 ∧ saF e i 0x28 8 = soft) ∧
      (saPinned d i = true → Done s (.saEvict ix) saPerform fun e => Ended e .ciSaCmd 0 26 4 2 ∧ e.ci.cache = d.ci.cache) ∧
      (saPinned d i = false → Done s (.saEvict ix) saPerform fun e => Ended e .ciSaCmd 0 26 4 0 ∧ keyOf e i = none ∧
        ∀ j, j ≠ i → keyOf e j = keyOf d j))

/-- The commands of the block service (Table 13-19): what a READ shows, what a WRITE of a virtual disk, shard or connection stores, and
what OPEN, CLOSE and RESET make of a connection. -/
def BlockCommandsServed (s : State) (tb : BitVec 2) (m : BitVec 16) : Prop :=
  let d := s.dev
  let i := m.toNat
  let k := connOf d i
  let ended (e : Dev) (st : Nat) : Prop := Ended e .bsCmd 0 27 3 st
  let word (l : List Byte) (w : Nat) : Word := BitVec.ofNat 32 (leNat (sliceD 0 l (4 * w) 4))
  let wr : List Byte := overwrite (bsData d 128) 0x40 [0, 0, 0, 0]
  bit (cur d .bsCmd 0 0) 31 = false →
    (tb = 3 ∨ (tb = 0 ∧ 16383 < i) → ∀ c ∈ [Instr.bsRead tb m, .bsWrite tb m], Done s c bsPerform fun e => ended e 1 ∧ e.bs = { d.bs with op := none }) ∧
    (i < 16384 → Done s (.bsRead 0 m) bsPerform fun e => ended e 0 ∧ ∀ w, w < 16 → cur e .bsData w 0 = word (vdOf d i) w) ∧
    Done s (.bsRead 1 m) bsPerform (fun e => ended e 0 ∧ ∀ w, w < 4 → cur e .bsData w 0 = word (mget d.bs.shard i []) w) ∧
    Done s (.bsRead 2 m) bsPerform (fun e => ended e 0 ∧
      ∀ w, w < 32 → cur e .bsData w 0 = word (overwrite (sliceD 0 (mget d.bs.centry i []) 0 128) 0x40 (leBytes 4 k.h2c)) w) ∧
    (i < 16384 → vdWriteStatus d i (bsData d 64) = 0 → Done s (.bsWrite 0 m) bsPerform fun e => ended e 0 ∧
      (∀ w, w < 16 → word (vdOf e i) w = cur d .bsData w 0) ∧ ∀ j, j ≠ i → vdOf e j = vdOf d j) ∧
    (entF (bsData d 16) 0 4 / 2 ^ 17 = 0 → Done s (.bsWrite 1 m) bsPerform fun e => ended e 0 ∧
      (∀ w, w < 4 → word (mget e.bs.shard i []) w = cur d .bsData w 0) ∧ ∀ j, j ≠ i → mget e.bs.shard j [] = mget d.bs.shard j []) ∧
    (k.st = .closed ∨ k.st = .failed → connWriteOk wr = true → Done s (.bsWrite 2 m) bsPerform fun e => ended e 0 ∧
      mget e.bs.centry i [] = wr ∧ ∀ j, j ≠ i → mget e.bs.centry j [] = mget d.bs.centry j []) ∧
    (k.st = .closed ∨ k.st = .failed → Done s (.connOpen m) bsPerform fun e => ended e 0 ∧
      (connOf e i).st = .connecting ∧ (connOf e i).ph = .syn ∧ (connOf e i).nxt = ((connOf e i).una + 1) % 2 ^ 32 ∧
      (connOf e i).segs.length = 1 ∧ (connOf e i).timer = some d.tick ∧ (connOf e i).cause = k.cause ∧
      ∀ j, j ≠ i → connOf e j = connOf d j) ∧
    (k.st ≠ .closed → k.st ≠ .failed → Done s (.connOpen m) bsPerform fun e => ended e 2 ∧ e.bs = { d.bs with op := none }) ∧
    (k.st = .opened → Done s (.connClose m) bsPerform fun e => ended e 0 ∧
      ((connOf e i).st = .closing ∨ (connOf e i).st = .closed) ∧
      (k.finDue = false → k.finSent = false → k.cmds ≠ [] → connOf e i = { k with st := .closing }) ∧
      (k.finDue = false → k.cmds = [] → (connOf e i).st = .closing ∧ (connOf e i).finDue = true) ∧
      ∀ j, j ≠ i → connOf e j = connOf d j) ∧
    (k.st ≠ .opened → Done s (.connClose m) bsPerform fun e => ended e 2 ∧ e.bs = { d.bs with op := none }) ∧
    (k.st ≠ .closed → Done s (.connReset m) bsPerform fun e => ended e 0 ∧ ∃ x : Dev,
      e = setCur (runAll x) .bsCmd 0 0 (cur e .bsCmd 0 0) ∧ connOf x i = { Conn.reset with cause := k.cause } ∧ ∀ j, j ≠ i → connOf x j = connOf d j) ∧
    (k.st = .closed → Done s (.connReset m) bsPerform fun e => ended e 2 ∧ e.bs = { d.bs with op := none })

/-- The queue-context commands (R328) on a queue that a vport owns, and on one that none owns. -/
def QueueCommandsServed (s : State) (b : BitVec 2) (q : BitVec 15) : Prop :=
  let d := s.dev
  let x := queueOf d b.toNat q.toNat
  let ended (e : Dev) (st : Nat) : Prop := Ended e .bbQcmd 0 24 3 st
  let others (e : Dev) : Prop := ∀ j, j ≠ qkey b.toNat q.toNat → mget e.hp.queues j Queue.reset = mget d.hp.queues j Queue.reset
  let dw : Nat → DWord := pairAt fun j => cur d .bbQdata j 0
  let w2 := x.w2 &&& ctxMask b.toNat
  let lg := fld x.w2 0 5
  let cq := queueOf d 2 (qCq x)
  bit (cur d .bbQcmd 0 0) 31 = false →
    (b = 3 ∨ ownerOf d b.toNat q.toNat = none → ∀ c ∈ [Instr.qctxRead b q, .qctxWrite b q, .qctxEnable b q, .qctxDisable b q],
      Done s c qctxPerform fun e => ended e 1 ∧ e.hp = { d.hp with qop := 0 }) ∧
    ∀ p, b ≠ 3 → ownerOf d b.toNat q.toNat = some p →
      Done s (.qctxRead b q) qctxPerform (fun e => ended e 0 ∧ e.hp = { d.hp with qop := 0 } ∧
        pairAt (fun j => cur e .bbQdata j 0) 0 = x.w0 ∧ pairAt (fun j => cur e .bbQdata j 0) 1 = x.w1 ∧
        pairAt (fun j => cur e .bbQdata j 0) 2 = w2 ∧ cur e .bbQdata 6 0 = BitVec.ofNat 32 x.dev ∧ cur e .bbQdata 7 0 = BitVec.ofNat 32 x.host) ∧
      (x.st = .off → Done s (.qctxWrite b q) qctxPerform fun e => ended e 0 ∧ others e ∧
        queueOf e b.toNat q.toNat = { x with w0 := dw 0, w1 := dw 1, w2 := dw 2 &&& ctxMask b.toNat }) ∧
      (x.st ≠ .off → ∀ c ∈ [Instr.qctxWrite b q, .qctxEnable b q], Done s c qctxPerform fun e => ended e 2 ∧ e.hp = { d.hp with qop := 0 }) ∧
      (x.st = .off → 6 ≤ lg → lg ≤ (if b.toNat < 2 ∧ vpFull d p = false then 12 else if b = 0 ∧ qNvme x = true then 16 else 20) →
        x.w0.toNat % 64 = 0 → x.w1.toNat % 8 = 0 → (b = 1 → qNvme x = false) →
        (b ≠ 2 → qNvme x = qNvme cq ∧ qLive cq = true ∧ ownerOf d 2 (qCq x) = some p) →
        Done s (.qctxEnable b q) qctxPerform fun e => ended e 0 ∧ others e ∧ queueOf e b.toNat q.toNat =
          { Queue.reset with w0 := x.w0, w1 := x.w1, w2 := x.w2, idxSent := x.idxSent, st := .active }) ∧
      (b ≠ 2 ∨ (∀ y ∈ vportQueues d p, y.1 < 2 → (queueOf d y.1 y.2).st ≠ .off → qCq (queueOf d y.1 y.2) ≠ q.toNat) →
        Done s (.qctxDisable b q) qctxPerform fun e => ended e 0 ∧ (queueOf e b.toNat q.toNat).st = .off ∧
          (queueOf e b.toNat q.toNat).jobs = [] ∧ (queueOf e b.toNat q.toNat).known = [] ∧ (queueOf e b.toNat q.toNat).arm = none)

/-- The counter in which a refused write of a command register counts, besides its OVERRUN bit. -/
def overrunCount : Reg → Option (Reg × Nat)
  | .lkCmd => some (.lkEvtCnt, 21)
  | .scMtrCmd => some (.scEvtCnt, 7)
  | _ => none

end Sys2Proof.Claims

open Sys2Proof Sys2Proof.Machine Sys2Proof.Claims

/-- R5, R408, R526: on the control path and the security processor's, a write to a register of one word stores its RW fields and leaves every
other bit; the value in use is as before and becomes the stored one when the tick's writes take effect. An address that names no register
ignores the write; so does a register that only a critical command writes, and for an unchecked write one that only a checked command
writes. Clauses rest on the model's own choices or readings: log entries 252, 253. -/
def Obligations.RegisterWritesFollowTheAccessCodes : Prop :=
  ∀ (s : State) (p : Path) (checked : Bool) (v : Word), Live s → inner p = true →
    (∀ r ∈ plainRegs, ∃ u, exec (.registerWrite p checked (BitVec.ofNat 32 (addr r 0 0)) v) s = .next u ∧
      cur u.dev r 0 0 = (cur s.dev r 0 0 &&& ~~~(BitVec.ofNat 32 (regDef r).rw)) ||| (v &&& BitVec.ofNat 32 (regDef r).rw) ∧
      cfg u.dev r 0 0 = cfg s.dev r 0 0 ∧ cfg (takeEffect (fun _ => true) u.dev) r 0 0 = cur u.dev r 0 0 ∧
      RegsOnly s u ∧ OtherWords s u [addr r 0 0]) ∧
    (∀ a : Word, locate a.toNat = none → exec (.registerWrite p checked a v) s = .next s) ∧
    (∀ r ∈ [Reg.seMigCmd, .ggCfg, .ggPort, .ggRing],
      exec (.registerWrite p checked (BitVec.ofNat 32 (addr r 0 0)) v) s = .next s) ∧
    (∀ r ∈ [Reg.ctLock, .ftNoticeCfg, .ftNoticeMask, .mgCfg],
      exec (.registerWrite p false (BitVec.ofNat 32 (addr r 0 0)) v) s = .next s)

/-- R525: a write of the low word of a 64-bit register changes no register word until the high word is written on the same path, which stores
both. A read of the low word returns it and latches the high word for its path; a read of the high word returns that latch and changes
nothing. A read of a register of one word returns it, and clears the fields that a read clears (R5); a read of a register of a domain that
sleeps, or at an address that names none, returns 0. A read of a mailbox word waits for the boundary (R427). A host port reads the registers
of its own vports' pages in the same way. Clauses rest on the model's own choices or readings: log entries 248, 249. -/
def Obligations.WideRegistersTakeBothWordsAtOnce : Prop :=
  (∀ (s : State) (p : Path) (a : Word), Live s → inner p = true → ReadsOfAWord s p a) ∧
  (∀ (s : State) (h : Fin 8) (a : Word), Live s → EndpointReadsOfAWord s h a) ∧
  ∀ (s : State) (p : Path) (lo hi : Word), Live s → inner p = true →
    ∀ r ∈ [Reg.ctCmdMac, .seMigArg, .ftNoticeMac], ∃ u w,
      exec (.registerWrite p true (BitVec.ofNat 32 (addr r 0 0)) lo) s = .next u ∧
      exec (.registerWrite p true (BitVec.ofNat 32 (addr r 0 0 + 4)) hi) u = .next w ∧
      RegsOnly s u ∧ u.dev.regs.cur = s.dev.regs.cur ∧ u.dev.regs.act = s.dev.regs.act ∧
      RegsOnly s w ∧ OtherWords s w [addr r 0 0, addr r 0 0 + 4] ∧
      cur64 w.dev r 0 0 = (cur64 s.dev r 0 0 &&& ~~~(BitVec.ofNat 64 (regDef r).rw)) ||| ((hi ++ lo) &&& BitVec.ofNat 64 (regDef r).rw)

/-- R527: a COMMIT asks for a commit of its block at the next boundary and changes no register word; SW_PE_COMMIT asks for the bank swap (R177).
A commit copies every staged word of its block into the word in use and leaves every other word; one that Table 14-4 refuses copies nothing
and sets CFG_ERR. The bank swap at the boundary exchanges the stored and the used banks and sets SYNCING; a bank that R177's checks refuse
is not taken, and CFG_ERR and ERR_INDEX say which entry. Clauses rest on the model's own choices or readings: log entries 70, 254. -/
def Obligations.CommitsCopyEveryStagedWord : Prop :=
  (∀ s : State, Live s → awake s.dev 41 = true →
    (∀ x ∈ commitRows, ∃ u, exec x.1 s = .next u ∧
      (∀ b, b ∈ u.dev.sw.commits ↔ b ∈ s.dev.sw.commits ∨ b = x.2) ∧
      (∀ a, storedWord u.dev a = storedWord s.dev a) ∧ u.dev.regs.act = s.dev.regs.act ∧
      u = { s with dev := { s.dev with regs := u.dev.regs, sw := { s.dev.sw with commits := u.dev.sw.commits } } }) ∧
    ∃ u, exec .swPeCommit s = .next u ∧ (∀ a, storedWord u.dev a = storedWord s.dev a) ∧ u.dev.regs.act = s.dev.regs.act ∧
      u = { s with dev := { s.dev with regs := u.dev.regs, sw := { s.dev.sw with peCommit := true } } }) ∧
  (∀ d : Dev, d.sw.peCommit = true →
    (∀ x, bankFault d = some x → (peCommit d).regs.act = d.regs.act ∧ (peCommit d).sw = { d.sw with peCommit := false } ∧
      (∀ a, a ≠ addr .swPeCommit 0 0 → storedWord (peCommit d) a = storedWord d a) ∧ bit (cur (peCommit d) .swPeCommit 0 0) 3 = true ∧
      fld (cur (peCommit d) .swPeCommit 0 0) 16 10 = x.2 % 1024) ∧
    (bankFault d = none → (peCommit d).sw = { d.sw with peCommit := false, peSwap := d.tick } ∧
      (∀ a, usedWord (peCommit d) a = if bankedAddr a then storedWord d a else usedWord d a) ∧
      (∀ a, a ≠ addr .swPeCommit 0 0 → storedWord (peCommit d) a = if bankedAddr a then usedWord d a else storedWord d a) ∧
      bit (cur (peCommit d) .swPeCommit 0 0) 1 = true)) ∧
  ∀ (d : Dev) (b : Blk),
    (commitRefused d b = true → (commitOne d b).regs.act = d.regs.act ∧
      commitOne d b = { d with regs := { d.regs with cur := (commitOne d b).regs.cur } } ∧
      (∀ a ∉ [addr .swCommit 0 0, addr .ciCommit 0 0, addr .bsCommit 0 0],
        mfind (commitOne d b).regs.cur a = mfind d.regs.cur a) ∧
      (b = .sw → bit (cur (commitOne d b) .swCommit 0 0) 1 = true) ∧
      (b = .ci → bit (cur (commitOne d b) .ciCommit 0 0) 1 = true) ∧
      (b = .bs → bit (cur (commitOne d b) .bsCommit 0 0) 1 = true)) ∧
    (commitRefused d b = false → (∀ a, usedWord (commitOne d b) a = if stagedIn b a then storedWord d a else usedWord d a) ∧
      commitOne d b = { d with regs := { d.regs with act := (commitOne d b).regs.act } })

/-- The commands of LK_CMD, SW_MC_CMD, SC_MTR_CMD, CI_SA_CMD, BS_CMD and BB_QCMD: while BUSY is 0 the command's fields are stored and BUSY is set,
the result being due at the next boundary; while BUSY is 1 the write sets OVERRUN, is counted in LK_EVT_CNT[21] or SC_EVT_CNT[7] for those two blocks, and
changes nothing else. At the boundary that ends the tick the unit serves the command: BUSY clears, the status field holds the result, and the
data window, the tables, the staged meter, the association, the connection or the queue context are as the command's table says. -/
def Obligations.CommandsSetBusyOrOverrun : Prop :=
  ∀ (s : State) (k : Fin 4) (t : BitVec 3) (byIx : Bool) (ix : BitVec 20) (g : BitVec 14) (m : BitVec 16) (b : BitVec 2)
    (q : BitVec 15), Live s → awake s.dev 41 = true →
    (bit (cur s.dev .lkCmd k 0) 31 = false → LookupServed s k t ix) ∧ GroupsAndMetersServed s g m ∧ AssociationsServed s ix ∧
    BlockCommandsServed s b m ∧ QueueCommandsServed s b q ∧ ∀ x ∈ busyRows k t byIx ix g m b q, ∃ u, exec x.cmd s = .next u ∧
      (let w := cur s.dev x.reg x.i 0
       let n := cur u.dev x.reg x.i 0
       if bit w 31 = true then
         n = w ||| 0x40000000 ∧ RegsOnly s u ∧
         (match overrunCount x.reg with
          | none => OtherWords s u [addr x.reg x.i 0]
          | some c => OtherWords s u [addr x.reg x.i 0, addr c.1 c.2 0] ∧ cur u.dev c.1 c.2 0 = bumpSat (cur s.dev c.1 c.2 0) 1)
       else
         bit n 31 = true ∧ bit n 30 = bit w 30 ∧ (∀ f ∈ x.fields, fld n f.1 f.2.1 = f.2.2) ∧ OtherWords s u [addr x.reg x.i 0] ∧
         u = { s with dev := { s.dev with regs := u.dev.regs, ci := { s.dev.ci with saOp := u.dev.ci.saOp },
                                          bs := { s.dev.bs with op := u.dev.bs.op }, hp := { s.dev.hp with qop := u.dev.hp.qop } } } ∧
         (x.reg ≠ .ciSaCmd → u.dev.ci.saOp = s.dev.ci.saOp) ∧ (x.reg ≠ .bsCmd → u.dev.bs.op = s.dev.bs.op) ∧
         (x.reg ≠ .bbQcmd → u.dev.hp.qop = s.dev.hp.qop))
    ∧ (x.cmd = .qctxRead b q → bit (cur s.dev .bbQcmd 0 0) 31 = false → u.dev.hp.qop = 1)
    ∧ (x.cmd = .qctxWrite b q → bit (cur s.dev .bbQcmd 0 0) 31 = false → u.dev.hp.qop = 2)
    ∧ (x.cmd = .qctxEnable b q → bit (cur s.dev .bbQcmd 0 0) 31 = false → u.dev.hp.qop = 3)
    ∧ (x.cmd = .qctxDisable b q → bit (cur s.dev .bbQcmd 0 0) 31 = false → u.dev.hp.qop = 4)

/-! ### Guarded configuration (chapters 4, 5, 7 to 11, 18) -/

/-- R136, R143, R152, R161 and R542: a lock's RANKED and RANK change only while it is free, unqueued and unpoisoned, or stay as they are, and a
refused change sets CFG_ERR and is counted; POISON clears only while the lock is not held. A channel's first word changes only ENABLE while
ENABLE is 1, and ENABLE is refused where the area does not fit; its second word changes only while ENABLE is 0. A watch group is enabled
only with a service thread of a reel that is not OFF as its recovery thread. Clauses rest on the model's own choices or readings: log entry
34. -/
def Obligations.LocksChannelsAndGroupsAreConfigured : Prop :=
  ∀ (s : State) (l c : Fin 4096) (g : Fin 256) (v : Word), Live s →
    (∃ u, exec (.lockCfgWrite l v) s = .next u ∧ RegsOnly s u ∧
      (let w := cur s.dev .drLockCfg l 0
       let n := cur u.dev .drLockCfg l 0
       if fld v 0 9 = fld w 0 9 ∨ ((lockOf s.dev l).holder = none ∧ (lockOf s.dev l).queue = [] ∧ (lockOf s.dev l).poison = false) then
         fld n 0 9 = fld v 0 9 ∧ bit n 9 = (bit w 9 && !bit v 9) ∧ n &&& 0xFFFFFC00 = w &&& 0xFFFFFC00 ∧
         OtherWords s u [addr .drLockCfg l 0]
       else n = w ||| 0x200 ∧ cur u.dev .drLockEvtCnt 4 0 = bumpSat (cur s.dev .drLockEvtCnt 4 0) 1 ∧
         OtherWords s u [addr .drLockCfg l 0, addr .drLockEvtCnt 4 0])) ∧
    (∃ u, exec (.lockPoisonClear l) s = .next u ∧
      u = { s with dev := { s.dev with dr := { s.dev.dr with locks := u.dev.dr.locks } } } ∧
      (∀ k, lockOf u.dev k = if k = l.val ∧ (lockOf s.dev k).holder = none then { lockOf s.dev k with poison := false }
        else lockOf s.dev k)) ∧
    (∃ u, exec (.chanCfgWrite c false v) s = .next u ∧ OtherWords s u [addr .drChanCfg0 c 0] ∧
      u = { s with dev := { s.dev with regs := u.dev.regs, dr := { s.dev.dr with chanOff := u.dev.dr.chanOff } } } ∧
      (let w := cur s.dev .drChanCfg0 c 0
       let n := cur u.dev .drChanCfg0 c 0
       let fits := 1 ≤ fld v 0 4 ∧ fld v 0 4 ≤ 10 ∧ fld v 6 20 * 64 + 64 * 2 ^ fld v 0 4 ≤ 2 ^ 26
       (bit w 31 = true → n &&& 0x3FFFFFFF = w &&& 0x3FFFFFFF ∧ bit n 31 = bit v 31 ∧ bit n 30 = (bit w 30 && !bit v 30) ∧
          u.dev.dr.chanOff = if bit v 31 = true then s.dev.dr.chanOff else c.val :: s.dev.dr.chanOff) ∧
       (bit w 31 = false → fld n 6 20 = fld v 6 20 ∧ fld n 0 4 = fld v 0 4 ∧ u.dev.dr.chanOff = s.dev.dr.chanOff ∧
          (bit n 31 = true ↔ bit v 31 = true ∧ fits) ∧
          (bit n 30 = true ↔ (bit w 30 = true ∧ bit v 30 = false) ∨ (bit v 31 = true ∧ ¬ fits))))) ∧
    (∃ u, exec (.chanCfgWrite c true v) s = .next u ∧ RegsOnly s u ∧
      (if bit (cur s.dev .drChanCfg0 c 0) 31 = true then u = s
       else cur u.dev .drChanCfg1 c 0 = v &&& 0xFF03FFFF ∧ cfg u.dev .drChanCfg1 c 0 = cfg s.dev .drChanCfg1 c 0 ∧
         OtherWords s u [addr .drChanCfg1 c 0])) ∧
    (∃ u, exec (.wgCfgWrite g v) s = .next u ∧ RegsOnly s u ∧ OtherWords s u [addr .tkWgCfg g 0] ∧
      (let w := cur s.dev .tkWgCfg g 0
       let n := cur u.dev .tkWgCfg g 0
       let k := 64 * fld v 22 6 + fld v 16 6
       let fit := fld v 22 6 ≤ 32 ∧ isService s.dev k = true ∧ (reelOf s.dev (k / 64)).st ≠ .off
       n &&& 0x0FFFFFFF = v &&& 0x0FFFFFFF ∧ (bit n 31 = true ↔ bit v 31 = true ∧ fit) ∧
       (bit n 30 = true ↔ (bit v 31 = true ∧ ¬ fit) ∨ (bit w 30 = true ∧ bit v 30 = false))))

/-- R153, R154: a write of a line's binding stores TYPE and INDEX, which take effect at the next boundary, where the line's pending bit is
cleared; a reserved TYPE sets BIND_ERR of the thread. Line 63 of a recovery thread of an enabled group ignores it. Clauses rest on the
model's own choices or readings: log entry 33. -/
def Obligations.EventBindingsAreWritten : Prop :=
  ∀ (s : State) (t : Tid) (line : Fin 64) (v : Word), Live s → awake s.dev t.reel.val = true →
    let k := tkey t
    let j := 64 * t.n.val + line.val
    (line.val = 63 → isRecovery s.dev k = true → exec (.evtBindWrite t line v) s = .next s) ∧
    (¬ (line.val = 63 ∧ isRecovery s.dev k = true) → ∃ u, exec (.evtBindWrite t line v) s = .next u ∧
      cur u.dev .rlEvtBind t.reel.val j = v &&& 0xF000FFFF ∧ cfg u.dev .rlEvtBind t.reel.val j = cfg s.dev .rlEvtBind t.reel.val j ∧
      u.dev.dr.rebind = lineKey k line.val :: s.dev.dr.rebind ∧
      cur u.dev .rlEvtCfg t.reel.val t.n.val =
        (if 10 ≤ fld v 28 4 then cur s.dev .rlEvtCfg t.reel.val t.n.val ||| 0x400 else cur s.dev .rlEvtCfg t.reel.val t.n.val) ∧
      OtherWords s u [addr .rlEvtBind t.reel.val j, addr .rlEvtCfg t.reel.val t.n.val] ∧
      u = { s with dev := { s.dev with regs := u.dev.regs, dr := { s.dev.dr with rebind := u.dev.dr.rebind } } })

/-- R124, R216, R468, R528 and R542: the areas that the device keeps in memory are configured. The frame pool's BASE and COUNT change only while
EN is 0; the flow areas only while the flow cache is empty and HBM_BASE is at most 22; the counter area only while PAIRS is 0, with at most
16,777,216 pairs; SW_COUNT only while its lock bit is clear. A refused change sets the register's error flag, or LOCK_VIOL, and leaves the
field. INIT falls when the clearing is done. Clauses rest on the model's own choices or readings: log entries 61, 211, 212. -/
def Obligations.AreasAreConfiguredOnlyWhileUnused : Prop :=
  ∀ (s : State) (v : Word) (x : BitVec 64), Live s →
    (∃ u, exec (.frmPoolCfgWrite true v) s = .next u ∧ RegsOnly s u ∧
      (let n := v &&& 0x3FFFFC0
       if n = cur s.dev .tkFrmBase 0 0 then u = s
       else if bit (cur s.dev .tkFrmCfg 0 0) 31 = true then
         cur u.dev .tkFrmCfg 0 0 = cur s.dev .tkFrmCfg 0 0 ||| 0x40000000 ∧ OtherWords s u [addr .tkFrmCfg 0 0]
       else cur u.dev .tkFrmBase 0 0 = n ∧ OtherWords s u [addr .tkFrmBase 0 0])) ∧
    (∃ u, exec (.frmPoolCfgWrite false v) s = .next u ∧ RegsOnly s u ∧ OtherWords s u [addr .tkFrmCfg 0 0] ∧
      (let w := cur s.dev .tkFrmCfg 0 0
       let n := cur u.dev .tkFrmCfg 0 0
       (bit w 31 = true → fld n 0 14 = fld w 0 14) ∧ (bit w 31 = false → fld n 0 14 = fld v 0 14) ∧
       (bit w 31 = true → bit v 31 = false → s.dev.rl.held ≠ [] → bit n 31 = true ∧ bit n 30 = true) ∧
       (bit w 31 = false → (bit n 31 = true ↔ bit v 31 = true ∧ (cur s.dev .tkFrmBase 0 0).toNat + 4160 * fld v 0 14 ≤ 2 ^ 26)))) ∧
    (∃ u, exec (.flowCfgWrite v) s = .next u ∧
      (let w := cur s.dev .lkFlowCfg 0 0
       let n := cur u.dev .lkFlowCfg 0 0
       let m : Word := 0x80001F03
       (v &&& m ≠ w &&& m → entsOf s.dev 4 ≠ [] ∨ 23 ≤ fld v 8 5 →
          n = w ||| 0x20000000 ∧ RegsOnly s u ∧ OtherWords s u [addr .lkFlowCfg 0 0]) ∧
       (v &&& m ≠ w &&& m → entsOf s.dev 4 = [] → fld v 8 5 < 23 → n &&& m = v &&& m ∧
          (bit v 31 = true → bit w 31 = false → bit n 30 = true)) ∧
       (v &&& m = w &&& m → RegsOnly s u ∧ n &&& m = w &&& m ∧ bit n 30 = bit w 30 ∧ bit n 29 = (bit w 29 && !bit v 29)))) ∧
    (∃ u, exec .flowInitDone s = .next u ∧ RegsOnly s u ∧ OtherWords s u [addr .lkFlowCfg 0 0] ∧
      cur u.dev .lkFlowCfg 0 0 = cur s.dev .lkFlowCfg 0 0 &&& 0xBFFFFFFF) ∧
    (∃ u, exec (.ftCntCfgWrite x) s = .next u ∧
      OtherWords s u [addr .ftCntCfg 0 0, addr .ftCntCfg 0 0 + 4] ∧
      (let w := cur64 s.dev .ftCntCfg 0 0
       let n := cur64 u.dev .ftCntCfg 0 0
       (16777216 < fld x 32 25 → pairsOf n = pairsOf w ∧ bit n 63 = true ∧ u.dev.hbm = s.dev.hbm) ∧
       (fld w 32 25 ≠ 0 → pairsOf x ≠ pairsOf w → pairsOf n = pairsOf w ∧ bit n 63 = true ∧ u.dev.hbm = s.dev.hbm) ∧
       (fld w 32 25 = 0 → 1 ≤ fld x 32 25 → fld x 32 25 ≤ 16777216 →
         4096 * fld x 0 24 + 16 * fld x 32 25 ≤ 0xBC0000000 →
         pairsOf n = pairsOf x ∧ bit n 62 = true ∧ ∀ a, memRd u.dev.hbm a =
           if 4096 * fld x 0 24 ≤ a ∧ a < 4096 * fld x 0 24 + 16 * fld x 32 25 then 0 else memRd s.dev.hbm a))) ∧
    (∃ u, exec .cntAreaInitDone s = .next u ∧ RegsOnly s u ∧ pairsOf (cur64 u.dev .ftCntCfg 0 0) = pairsOf (cur64 s.dev .ftCntCfg 0 0) ∧
      bit (cur64 u.dev .ftCntCfg 0 0) 62 = false) ∧
    (∃ u, exec (.bbCfgWrite v) s = .next u ∧ RegsOnly s u ∧ OtherWords s u [addr .bbCfg 0 0, addr .ctLock 0 0] ∧
      (let w := cur s.dev .bbCfg 0 0
       let n := cur u.dev .bbCfg 0 0
       let locked := bit (cur s.dev .ctLock 0 0) 0 = true ∧ fld v 0 11 ≠ fld w 0 11
       fld n 16 4 = fld v 16 4 ∧ (locked → fld n 0 11 = fld w 0 11 ∧ cur u.dev .ctLock 0 0 = cur s.dev .ctLock 0 0 ||| 0x80000000) ∧
       (¬ locked → fld n 0 11 = fld v 0 11 ∧ cur u.dev .ctLock 0 0 = cur s.dev .ctLock 0 0)))

/-- The writes that act as their fields say: R18 (a network port's MODE and ADMIN_UP), R198 (a ring: while it is enabled only EN changes;
enabling it empties it), R237 (FREEZE), R265 (the sampler), R286 (a link's configuration), R435 (a doorbell receiver needs a service thread
that no other receiver has), R464 (1 written to SAT clears the counter), R177 (a write in the bank windows goes to the standby bank).
Clauses rest on the model's own choices or readings: log entry 77. -/
def Obligations.ConfigurationWritesStoreTheirFields : Prop :=
  ∀ (s : State) (x : Fin 4) (mode : BitVec 2) (v : Word) (r : Fin 4) (dst : Fin 32) (h : Fin 8) (q : Fin 256), Live s →
    (∃ u, exec (.npPortModeWrite x mode) s = .next u ∧ RegsOnly s u ∧ OtherWords s u [addr .npPortCfg x 0] ∧
      fld (cur u.dev .npPortCfg x 0) 0 2 = (if mode = 3 then fld (cur s.dev .npPortCfg x 0) 0 2 else mode.toNat) ∧
      (mode = 3 → bit (cur u.dev .npPortCfg x 0) 9 = true) ∧
      bit (cur u.dev .npPortCfg x 0) 8 = bit (cur s.dev .npPortCfg x 0) 8) ∧
    (∃ u, exec (.portAdminUp x) s = .next u ∧ RegsOnly s u ∧ OtherWords s u [addr .npPortCfg x 0] ∧
      bit (cur u.dev .npPortCfg x 0) 8 = true ∧ fld (cur u.dev .npPortCfg x 0) 0 2 = fld (cur s.dev .npPortCfg x 0) 0 2) ∧
    (∃ u, exec (.portAdminDown x) s = .next u ∧ RegsOnly s u ∧ OtherWords s u [addr .npPortCfg x 0] ∧
      bit (cur u.dev .npPortCfg x 0) 8 = false ∧ fld (cur u.dev .npPortCfg x 0) 0 2 = fld (cur s.dev .npPortCfg x 0) 0 2) ∧
    (∃ u, exec (.lkRingCfgWrite r v) s = .next u ∧ RegsOnly s u ∧
      OtherWords s u [addr .lkRingCfg r 0, addr .lkRingProd r 0, addr .lkRingCons r 0] ∧
      (let w := cur s.dev .lkRingCfg r 0
       if bit w 31 = true then bit (cur u.dev .lkRingCfg r 0) 31 = bit v 31 ∧ cur u.dev .lkRingCfg r 0 &&& 0x7FFFFFFF = w &&& 0x7FFFFFFF
       else cur u.dev .lkRingCfg r 0 = v &&& 0x83FFFFDF ∧
         (bit v 31 = true → cur u.dev .lkRingProd r 0 = 0 ∧ cur u.dev .lkRingCons r 0 = 0))) ∧
    (∃ u, exec (.destFreeze dst) s = .next u ∧ RegsOnly s u ∧ OtherWords s u [addr .swDestCtl dst 0] ∧
      cur u.dev .swDestCtl dst 0 = cur s.dev .swDestCtl dst 0 ||| 1) ∧
    (∃ u, exec (.destUnfreeze dst) s = .next u ∧ RegsOnly s u ∧ OtherWords s u [addr .swDestCtl dst 0] ∧
      cur u.dev .swDestCtl dst 0 = cur s.dev .swDestCtl dst 0 &&& 0xFFFFFFFE) ∧
    (∃ u, exec (.smpCfgWrite v) s = .next u ∧ bit (cur u.dev .scSmpCfg 0 0) 31 = bit v 31 ∧
      (bit (cur s.dev .scSmpCfg 0 0) 31 = true → RegsOnly s u ∧ cur u.dev .scSmpCfg 0 0 &&& 0x7FFFFFFF = cur s.dev .scSmpCfg 0 0 &&& 0x7FFFFFFF) ∧
      (bit (cur s.dev .scSmpCfg 0 0) 31 = false → bit v 31 = true → cur u.dev .scSmpProd 0 0 = 0 ∧ cur u.dev .scSmpCons 0 0 = 0) ∧
      OtherWords s u [addr .scSmpCfg 0 0, addr .scSmpProd 0 0, addr .scSmpCons 0 0]) ∧
    (∃ u, exec (.blCfgWrite h v) s = .next u ∧ RegsOnly s u ∧ OtherWords s u [addr .blCfg h 0] ∧
      cur u.dev .blCfg h 0 = v &&& 0x801FFFFF ∧ cfg u.dev .blCfg h 0 = cfg s.dev .blCfg h 0) ∧
    (∃ u, exec (.rcvCfgWrite q v) s = .next u ∧
      (let k := 64 * fld v 24 6 + fld v 16 6
       let fit := isService s.dev k = true ∧ ∀ p < 256, p ≠ q.val → bit (cur s.dev .mbRcvCfg p 0) 31 = true →
         64 * fld (cur s.dev .mbRcvCfg p 0) 24 6 + fld (cur s.dev .mbRcvCfg p 0) 16 6 ≠ k
       (bit (cur u.dev .mbRcvCfg q 0) 31 = true ↔ bit v 31 = true ∧ fit) ∧
       (bit v 31 = true → ¬ fit → bit (cur u.dev .mbRcvCfg q 0) 30 = true))) ∧
    (∀ e ∈ [(Reg.ctCmdRefuseCnt, 3), (.lkEvtCnt, 12), (.swEvtCnt, 0), (.pwEvtCnt, 4), (.ftEvtCnt, 25), (.ftMemCnt, 1), (.ctBootSkipped, 0)],
      ∃ u, exec (.counterSatClear .ctl (BitVec.ofNat 32 (addr e.1 e.2 0))) s = .next u ∧ RegsOnly s u ∧
        OtherWords s u [addr e.1 e.2 0] ∧ cur u.dev e.1 e.2 0 = 0) ∧
    (∃ u, exec (.standbyBankWrite (BitVec.ofNat 32 (addr .swPgInput x 0)) v) s = .next u ∧ RegsOnly s u ∧
      u.dev.regs.act = s.dev.regs.act ∧
      (if bit (cur s.dev .swPeCommit 0 0) 1 = true then
         cur u.dev .swPeCommit 0 0 = cur s.dev .swPeCommit 0 0 ||| 4 ∧ OtherWords s u [addr .swPeCommit 0 0]
       else cur u.dev .swPgInput x 0 = (cur s.dev .swPgInput x 0 &&& ~~~(BitVec.ofNat 32 (regDef .swPgInput).rw))
           ||| (v &&& BitVec.ofNat 32 (regDef .swPgInput).rw) ∧ OtherWords s u [addr .swPgInput x 0])) ∧
    (∃ u, exec .bankSyncDone s = .next u ∧ RegsOnly s u ∧ u.dev.regs.act = s.dev.regs.act ∧
      (bit (cur s.dev .swPeCommit 0 0) 1 = false → u = s) ∧
      (bit (cur s.dev .swPeCommit 0 0) 1 = true → bit (cur u.dev .swPeCommit 0 0) 1 = false ∧
        ∀ a, a ≠ addr .swPeCommit 0 0 → storedWord u.dev a = if bankedAddr a then usedWord s.dev a else storedWord s.dev a))

/-! ### Reads that take or latch (chapters 12, 13, 16, 17, 18) -/

namespace Sys2Proof.Claims
open Sys2Proof Sys2Proof.Machine

/-- What a read of a word answers on a path. -/
abbrev answer (p : Path) (r : Reg) (i j : Nat) (w : Word) : Out := .readData p (BitVec.ofNat 32 (addr r i j)) w

/-- A read of a path touches no latch of another path. -/
def OtherLatches (s u : State) (p : Path) : Prop := ∀ q a, pathKey q ≠ pathKey p → getLatch u.dev q a = getLatch s.dev q a

/-- A firmware access to a mailbox joins those that wait for the boundary (R427). -/
def asks (s : State) (x : FwAcc) : State := { s with dev := { s.dev with ct := { s.dev.ct with fwq := s.dev.ct.fwq ++ [x] } } }

end Sys2Proof.Claims

open Sys2Proof Sys2Proof.Machine Sys2Proof.Claims

/-- R347, R377, R454, R468, R471 and the TM register section, on the control path and the security processor's. A read of FT_LOG[0], CI_REKEY_Q,
BS_LOCKED or TM_TXTS[n] takes the oldest entry out and answers it, or answers without VALID when there is none; the further words are
latched for the path alone. A read of TM_NOW_FRAC or FT_CNT_RD[0] latches the other words from the same instant. A firmware read of MB_IN
and a write of MB_OUT wait for the boundary (R427), which gives the read the word and acknowledges a FULL one, and stores the written word
or refuses it (Table 16-1). Clauses rest on the model's own choices or readings: log entries 189, 210. -/
def Obligations.ReadsTakeTheOldestEntryAndLatch : Prop :=
  ∀ (s : State) (p : Path) (n : Fin 17) (q : Fin 2048), Live s → inner p = true → awake s.dev 41 = true →
    (∃ u, exec (.ftLogRead p) s = .next u ∧ u.dev.ft.log = s.dev.ft.log.tail ∧ OtherLatches s u p ∧
      u.dev.out = answer p .ftLog 0 0 (BitVec.ofNat 32 ((s.dev.ft.log.head?.map (·.1)).getD 0)) :: s.dev.out ∧
      getLatch u.dev p (addr .ftLog 2 0) = BitVec.ofNat 32 ((s.dev.ft.log.head?.map (·.2)).getD 0) ∧
      getLatch u.dev p (addr .ftLog 3 0) = BitVec.ofNat 32 ((s.dev.ft.log.head?.map (·.2)).getD 0 / 2 ^ 32) ∧
      getLatch u.dev p (addr .ftLog 1 0) = 0 ∧
      u = { s with dev := { s.dev with regs := u.dev.regs, out := u.dev.out, ft := { s.dev.ft with log := u.dev.ft.log } } } ∧
      OtherWords s u []) ∧
    (∃ u w, exec (.ciRekeyQRead p) s = .next u ∧ u.dev.ci.rekey = s.dev.ci.rekey.tail ∧
      u.dev.out = answer p .ciRekeyQ 0 0 w :: s.dev.out ∧ bit w 31 = !s.dev.ci.rekey.isEmpty ∧
      bit w 30 = bit (cur s.dev .ciRekeyQ 0 0) 30 ∧ cur u.dev .ciRekeyQ 0 0 = 0 ∧ OtherWords s u [addr .ciRekeyQ 0 0] ∧
      (∀ e ∈ s.dev.ci.rekey.head?, fld w 0 20 = e.1 % 2 ^ 20 ∧ bit w 20 = e.2) ∧
      u = { s with dev := { s.dev with regs := u.dev.regs, out := u.dev.out, ci := { s.dev.ci with rekey := u.dev.ci.rekey } } }) ∧
    (∃ u w, exec (.bsLockedRead p) s = .next u ∧ u.dev.bs.kept = s.dev.bs.kept.tail ∧
      u.dev.out = answer p .bsLocked 0 0 w :: s.dev.out ∧ bit w 31 = !s.dev.bs.kept.isEmpty ∧
      (∀ e ∈ s.dev.bs.kept.head?, fld w 0 16 = e.1 % 65536 ∧ cur u.dev .bsLockedLo 0 0 = BitVec.ofNat 32 e.2 ∧
        cur u.dev .bsLockedHi 0 0 = BitVec.ofNat 32 (e.2 / 2 ^ 32)) ∧
      OtherWords s u [addr .bsLockedLo 0 0, addr .bsLockedHi 0 0] ∧
      u = { s with dev := { s.dev with regs := u.dev.regs, out := u.dev.out, bs := { s.dev.bs with kept := u.dev.bs.kept } } }) ∧
    (∃ u w, exec (.tmTxtsRead p n) s = .next u ∧ mget u.dev.tm.fifo n [] = (mget s.dev.tm.fifo n []).tail ∧
      (∀ k, k ≠ n.val → mget u.dev.tm.fifo k [] = mget s.dev.tm.fifo k []) ∧
      u.dev.out = answer p .tmTxts n 0 w :: s.dev.out ∧ bit w 31 = !(mget s.dev.tm.fifo n []).isEmpty ∧
      (bit w 30 = true ↔ n.val ∈ s.dev.tm.lost) ∧ n.val ∉ u.dev.tm.lost ∧
      (∀ e ∈ (mget s.dev.tm.fifo n []).head?, fld w 0 16 = e.seq % 65536 ∧ fld w 16 8 = e.dom % 256 ∧ fld w 24 4 = e.msg % 16 ∧
        getLatch u.dev p (addr .tmTxts n 1) = BitVec.ofNat 32 e.ns ∧ getLatch u.dev p (addr .tmTxts n 2) = BitVec.ofNat 32 e.sec ∧
        getLatch u.dev p (addr .tmTxts n 3) = BitVec.ofNat 32 (e.sec / 2 ^ 32)) ∧ OtherLatches s u p ∧ OtherWords s u []) ∧
    (∃ u, exec (.tmNowFracRead p) s = .next u ∧ u.dev.out = answer p .tmNowFrac 0 0 (BitVec.ofNat 32 s.dev.tm.now.frac) :: s.dev.out ∧
      getLatch u.dev p (addr .tmNowNs 0 0) = BitVec.ofNat 32 s.dev.tm.now.ns ∧
      getLatch u.dev p (addr .tmNowSecLo 0 0) = BitVec.ofNat 32 s.dev.tm.now.sec ∧
      getLatch u.dev p (addr .tmNowSecHi 0 0) = BitVec.ofNat 32 (s.dev.tm.now.sec / 2 ^ 32 % 65536) ∧
      OtherLatches s u p ∧ OtherWords s u [] ∧ u = { s with dev := { s.dev with regs := u.dev.regs, out := u.dev.out } }) ∧
    (∃ u, exec (.ftCntRdRead p) s = .next u ∧ u.dev.out = answer p .ftCntRd 0 0 (cntRdWord s.dev 0) :: s.dev.out ∧
      (∀ k ∈ [1, 2, 3], getLatch u.dev p (addr .ftCntRd k 0) = cntRdWord s.dev k) ∧
      (∀ i, cfgF s.dev .ftCntRdIdx 0 0 0 24 = i → i < (pairsOf (cfg64 s.dev .ftCntCfg 0 0)).1 →
        cntRdWord s.dev 0 = BitVec.ofNat 32 (pairGet s.dev i).1 ∧ cntRdWord s.dev 1 = BitVec.ofNat 32 ((pairGet s.dev i).1 / 2 ^ 32) ∧
        cntRdWord s.dev 2 = BitVec.ofNat 32 (pairGet s.dev i).2 ∧ cntRdWord s.dev 3 = BitVec.ofNat 32 ((pairGet s.dev i).2 / 2 ^ 32)) ∧
      OtherLatches s u p ∧ OtherWords s u [] ∧ u = { s with dev := { s.dev with regs := u.dev.regs, out := u.dev.out } }) ∧
    (let v := vportOf s.dev q
     let x := cur64 s.dev .vpMbIn q 0
     exec (.fwMbInRead p q) s = .next (asks s ⟨p, q, false, none, false⟩) ∧
     ∀ d : Dev, v = vportOf d q → x = cur64 d .vpMbIn q 0 → let e := fwAccess d ⟨p, q, false, none, false⟩
       answer p .vpMbIn q 0 (x.extractLsb' 0 32) ∈ e.out.head? ∧ getLatch e p (addr .vpMbIn q 0 + 4) = x.extractLsb' 32 32 ∧
       vportOf e q = { v with inFull := false } ∧ (∀ k, k ≠ q.val → vportOf e k = vportOf d k) ∧ (v.inFull = false → e.hp = d.hp)) ∧
    (∀ w : BitVec 64, let v := vportOf s.dev q
      (∃ u, exec (.fwMbOutWrite p q w) s = .next u ∧ u.dev.ct = (asks s ⟨p, q, true, some w, false⟩).dev.ct ∧
        u = { s with dev := { s.dev with ct := u.dev.ct, regs := { s.dev.regs with held := u.dev.regs.held } } }) ∧
      ∀ d : Dev, v = vportOf d q → let e := fwAccess d ⟨p, q, true, some w, false⟩
        if v.outFull = true ∨ v.st = .off ∨ v.st = .orphaned then
          vportOf e q = { v with refusedFw := true } ∧ cur64 e .vpMbOut q 0 = cur64 d .vpMbOut q 0 ∧
            cur e .pwEvtCnt 5 0 = bumpSat (cur d .pwEvtCnt 5 0) 1
        else vportOf e q = { v with outFull := true, outEpoch := v.fwEpoch } ∧ cur64 e .vpMbOut q 0 = w)

/-! ### Vports, mailboxes, bobbins, power domains (chapters 11, 14, 16) -/

namespace Sys2Proof.Claims
open Sys2Proof Sys2Proof.Machine

/-- Two states differ in nothing but register words and vport `p`. -/
def OnlyVport (s u : State) (p : Nat) : Prop :=
  u = { s with dev := { s.dev with regs := u.dev.regs, hp := { s.dev.hp with vports := u.dev.hp.vports } } } ∧
  ∀ k, k ≠ p → vportOf u.dev k = vportOf s.dev k

/-- A record that an endpoint sends to a vport page: type, page, tag, length, offset and data (Tables 10-3 and 11-1). -/
def pageRecord (ty p : Nat) (tag : BitVec 16) (len off : Nat) (bs : List Byte) : BlRec :=
  ⟨BitVec.ofNat 8 ty, BitVec.ofNat 8 (p % 256), tag, BitVec.ofNat 16 len, 0, 0, BitVec.ofNat 64 off, bs⟩

/-- The four endpoint accesses to mailboxes and doorbell bits, with their records. -/
def pageRow (p : Fin 2048) (tag : BitVec 16) (w : BitVec 64) (b : Word) (c : Instr) (r : BlRec) : Prop :=
  (c = .mbInWrite p tag w ∧ r = pageRecord 0x13 p tag 8 0x08 (beBytes 8 w.toNat)) ∨
  (c = .mbInStatusRead p tag ∧ r = pageRecord 0x12 p tag 8 0x08 []) ∨
  (c = .mbOutRead p tag ∧ r = pageRecord 0x12 p tag 8 0x10 []) ∨
  (c = .dbbWrite p tag b ∧ r = pageRecord 0x13 p tag 4 0x18 (beBytes 4 b.toNat))

/-- The host status word of Table 16-2. -/
def hostStatus (d : Dev) (p : Nat) : Nat :=
  let v := vportOf d p
  b2n v.inFull + 2 * b2n v.outFull + 4 * b2n v.crossed + 8 * b2n v.peerResetHost + 16 * b2n (rcvAwake d (vpRcv d p)) + 32 * b2n v.refusedHost +
    2 ^ 8 * epochWord v

/-- What an endpoint's access does at its boundary (Table 16-1, R296): the reply that its host port sends, the mailbox flags and the doorbell bits. -/
def PageServed (d : Dev) (p : Fin 2048) (tag : BitVec 16) (w : BitVec 64) (b : Word) (c : Instr) (e : Dev) : Prop :=
  let v := vportOf d p
  let reply (st : Nat) (bs : List Byte) : Prop := (linkOf e (p / 256)).outq.getLast? = some (.mbc tag.toNat (p % 256) st bs)
  let word := cur64 e .vpMbIn p 0
  let dbb := cur e .vpDbb p 0
  if v.st ≠ .active ∧ v.st ≠ .frozen then reply 0xA [] ∧ vportOf e p = v ∧ e.regs = d.regs
  else
    (c = .mbInWrite p tag w → rcvAwake d (vpRcv d p) = false → reply 9 [] ∧ vportOf e p = v ∧ word = cur64 d .vpMbIn p 0) ∧
    (c = .mbInWrite p tag w → rcvAwake d (vpRcv d p) = true → v.inFull = true → reply 0 [] ∧ vportOf e p = { v with refusedHost := true } ∧
      word = cur64 d .vpMbIn p 0 ∧ dbb = cur d .vpDbb p 0) ∧
    (c = .mbInWrite p tag w → rcvAwake d (vpRcv d p) = true → v.inFull = false → reply 0 [] ∧ word = w ∧ dbb = cur d .vpDbb p 0 ||| 0x80000000 ∧
      vportOf e p = { v with inFull := true, inEpoch := v.hostEpoch }) ∧
    (c = .mbInStatusRead p tag → reply 0 (beBytes 8 (hostStatus d p)) ∧ e.regs = d.regs ∧
      vportOf e p = { v with peerResetHost := false, refusedHost := false }) ∧
    (c = .mbOutRead p tag → reply 0 (beBytes 8 (cur64 d .vpMbOut p 0).toNat) ∧ vportOf e p = { v with outFull := false } ∧
      dbb = (if v.outFull = true then cur d .vpDbb p 0 ||| 0x40000000 else cur d .vpDbb p 0) ∧ cur64 e .vpMbOut p 0 = cur64 d .vpMbOut p 0) ∧
    (c = .dbbWrite p tag b → reply 0 [] ∧ vportOf e p = v ∧ dbb = cur d .vpDbb p 0 ||| (b &&& 0x3FFFFFFF))

/-- What the vport commands do at the boundary (R308, R327, R388, R391, R394), in a vport with no other command waiting. -/
def VportCommandsServed (s : State) (p : Fin 2048) : Prop :=
  let d := s.dev
  let v := vportOf d p
  let unit (d : Dev) : Dev := vportCmds d p
  v.cmds = [] →
    (v.st ≠ .off → (∀ x c, cmdOf d x = some c → c.page ≠ p) → Done s (.vportReset p) unit fun e =>
      let w := vportOf e p
      w.st = (if v.st = .frozen then .active else v.st) ∧ w.drained = false ∧ w.saveBusy = false ∧ w.cmds = [] ∧
      w.resetBusy = !(vportReqs e p).isEmpty ∧ (p.val, true) ∈ e.ct.mbResets ∧
      ∀ y ∈ vportQueues d p, (queueOf e y.1 y.2).st = .off ∧ (queueOf e y.1 y.2).jobs = []) ∧
    (v.st = .orphaned → v.reattaching = false → (linkOf d (p / 256)).st = .active → Done s (.reattach p) unit fun e =>
      (if readsIndex e p then vportOf e p = { v with reattaching := true }
       else vportOf e p = { v with st := .active, orphanAt := none, reattaching := false }) ∧
      ∀ y ∈ vportQueues d p, (queueOf e y.1 y.2).st =
        match (queueOf d y.1 y.2).st with | .off => .off | .error => .error | _ => .active) ∧
    (v.st = .active → v.resetBusy = false → Done s (.freeze p) unit fun e =>
      vportOf e p = { v with result := 1, st := .frozen, frozenAt := d.tick, drained := false }) ∧
    (v.st = .frozen → Done s (.thaw p) unit fun e =>
      vportOf e p = { v with result := 1, st := .active, drained := false, restored := false }) ∧
    (∀ x, let w := cur64 d .vpMigSave p 0
      w = cfg64 d .vpMigSave p 0 → v.st = .frozen → v.drained = true → v.saveBusy = false → sessOf d (fld w 40 4) = some x → x.source = true →
      migDenied d (fld w 0 36) 64 = false → Done s (.save p) id fun e =>
        vportOf e p = { v with result := 1, saveBusy := true } ∧ e.ct.savePend = d.ct.savePend ++ [p.val] ∧
        (reserveCount e p ≤ 3582 → (vportMacs e p).length ≤ 16384 →
          migDenied e (fld w 0 36) (0xC0 + (vportPart e p).length + 32 * (vportMacs e p).length + 136) = false →
          (saveCapture e p).ct.saves = e.ct.saves ++ [⟨p.val, fld w 0 36, vpFull e p, x, x.seq, vportPart e p, vportMacs e p⟩] ∧
          sessOf (saveCapture e p) (fld w 40 4) = some { x with seq := x.seq + 1 }) ∧
        (3582 < reserveCount e p ∨ 16384 < (vportMacs e p).length → vportOf (saveCapture e p) p = { v with result := 4, saveBusy := false }))

end Sys2Proof.Claims

open Sys2Proof Sys2Proof.Machine Sys2Proof.Claims

/-- R308, R327, R388, R391, R394: a command of VP_CTL or VP_MIG_CTL is accepted for the next tick boundary, in the vport's state that its rule
names, or leaves RESULT at 2 (STATE) and the vport as it is. REATTACH of a vport that is not ORPHANED is ignored. SAVE needs a FROZEN and
DRAINED vport and a source session. No other vport and nothing but the vport and its command register changes. At the boundary the vport is
reset (its queues off, its requests awaited), reattached once its index reads are back, frozen, thawed, or captured for its sealed object.
Clauses rest on the model's own choices or readings: log entries 161, 164, 165. -/
def Obligations.VportCommandsWaitForTheBoundary : Prop :=
  ∀ (s : State) (p : Fin 2048), Live s →
    let v := vportOf s.dev p
    VportCommandsServed s p ∧
    (∃ u, exec (.vportReset p) s = .next u ∧ OnlyVport s u p ∧ OtherWords s u [addr .vpCtl p 0] ∧
      vportOf u.dev p = { v with cmds := v.cmds ++ [.reset] }) ∧
    (∃ u, exec (.reattach p) s = .next u ∧ OnlyVport s u p ∧ OtherWords s u [addr .vpCtl p 0] ∧
      vportOf u.dev p = if v.st = .orphaned then { v with cmds := v.cmds ++ [.reattach] } else v) ∧
    (∃ u, exec (.freeze p) s = .next u ∧ OnlyVport s u p ∧ OtherWords s u [addr .vpMigCtl p 0] ∧
      vportOf u.dev p = if v.st = .active ∧ v.resetBusy = false then { v with result := 1, cmds := v.cmds ++ [.freeze] }
        else { v with result := 2 }) ∧
    (∃ u, exec (.thaw p) s = .next u ∧ OnlyVport s u p ∧ OtherWords s u [addr .vpMigCtl p 0] ∧
      vportOf u.dev p = if v.st = .frozen then { v with result := 1, cmds := v.cmds ++ [.thaw] } else { v with result := 2 }) ∧
    (∃ u, exec (.save p) s = .next u ∧ (∀ k, k ≠ p.val → vportOf u.dev k = vportOf s.dev k) ∧ u.dev.hbm = s.dev.hbm ∧
      (if v.st = .frozen ∧ v.drained = true ∧ v.saveBusy = false then
         (vportOf u.dev p = { v with result := 1, saveBusy := true } ∧ u.dev.ct.savePend = s.dev.ct.savePend ++ [p.val]) ∨
         (vportOf u.dev p = { v with result := 3 } ∧ u.dev.ct.savePend = s.dev.ct.savePend) ∨
         (vportOf u.dev p = { v with result := 5 } ∧ u.dev.ct.savePend = s.dev.ct.savePend)
       else vportOf u.dev p = { v with result := 2 } ∧ u.dev.ct.savePend = s.dev.ct.savePend))

/-- R427, R428, R433, R435: an endpoint's access to its page is a record that waits on its host port for the next boundary, behind those that
wait already; the boundary serves it by Table 16-1, and the host port replies. DBB_SET sets the doorbell bits that it names in its receiver
at once and no other. Clauses rest on the model's own choices or readings: log entry 193. -/
def Obligations.EndpointAccessesQueueOnTheirHostPort : Prop :=
  ∀ (s : State) (p : Fin 2048) (tag : BitVec 16) (w : BitVec 64) (b : Word) (r : Fin 256), Live s →
    (∀ c x, pageRow p tag w b c x → Done s c (fun d => hostAct (p / 256) d x) (PageServed s.dev p tag w b c) ∧ ∃ u, exec c s = .next u ∧
      linkOf u.dev (p / 256) = { linkOf s.dev (p / 256) with hostq := (linkOf s.dev (p / 256)).hostq ++ [x] } ∧
      (∀ h, h ≠ p.val / 256 → linkOf u.dev h = linkOf s.dev h) ∧
      u = { s with dev := { s.dev with hp := { s.dev.hp with links := u.dev.hp.links } } }) ∧
    (∃ u, exec (.dbbSet r b) s = .next u ∧ RegsOnly s u ∧ OtherWords s u [addr .mbDbb r 0] ∧
      cur u.dev .mbDbb r 0 = cur s.dev .mbDbb r 0 ||| b)

/-- R330, R333, R334: PAUSE is stored; START of a software bobbin that is RUNNING, PAUSED or about to pause sets START_ERR and leaves it; an
accepted START leaves it RUNNING; RESUME goes on from HALTED only; ABORT of a bobbin without outstanding requests leaves it IDLE. The
registers of a pool bobbin ignore writes. Clauses rest on the model's own choices or readings: log entries 117, 118. -/
def Obligations.BobbinCommandsFollowR333 : Prop :=
  ∀ (s : State) (b : Fin 1024), Live s →
    (bobSoft s.dev b = false → ∀ c ∈ [Instr.bobbinPause b, .bobbinUnpause b, .bobbinStart b, .bobbinResume b, .bobbinAbort b],
      exec c s = .next s) ∧
    (bobSoft s.dev b = true →
      (∃ u, exec (.bobbinPause b) s = .next u ∧ RegsOnly s u ∧ (∀ a, a ≠ addr .bbCtl b 0 → storedWord u.dev a = storedWord s.dev a) ∧ bit (cur u.dev .bbCtl b 0) 31 = true) ∧
      (∃ u, exec (.bobbinUnpause b) s = .next u ∧ RegsOnly s u ∧ (∀ a, a ≠ addr .bbCtl b 0 → storedWord u.dev a = storedWord s.dev a) ∧
        bit (cur u.dev .bbCtl b 0) 31 = false) ∧
      (∃ u, exec (.bobbinStart b) s = .next u ∧ u.dev.tick = s.dev.tick ∧ (∀ k, k ≠ b.val → bobOf u.dev k = bobOf s.dev k) ∧
        ((bobOf s.dev b).st ∈ [.running, .pausing, .paused] → bobOf u.dev b = bobOf s.dev b ∧ bit (cur u.dev .bbStatus b 0) 4 = true) ∧
        (bit (cur u.dev .bbStatus b 0) 4 = true ∨ (bobOf u.dev b).st = .running)) ∧
      (∃ u, exec (.bobbinResume b) s = .next u ∧ (∀ k, k ≠ b.val → bobOf u.dev k = bobOf s.dev k) ∧
        ((bobOf s.dev b).st = .halted → (bobOf u.dev b).st = .running ∧ (bobOf u.dev b).done = (bobOf s.dev b).done) ∧
        ((bobOf s.dev b).st ≠ .halted → bobOf u.dev b = bobOf s.dev b)) ∧
      (∃ u, exec (.bobbinAbort b) s = .next u ∧ (∀ k, k ≠ b.val → bobOf u.dev k = bobOf s.dev k) ∧
        ((bobOf s.dev b).live = [] → (bobOf u.dev b).st = .idle)))

/-- R438, R440, R441, R443: a sleep request sets SLEEP where the domain may sleep, or is refused with a flag and counted; a domain that meets
its condition goes to sleep, OFF or SLEEPING; writing SLEEP = 0 requests a wake once; the gust limiter admits the oldest entry whose rail is
free, none in sag; the domain is AWAKE when its restore time is over; sag begins with one raise of SAG and ends at a boundary. Clauses rest
on the model's own choices or readings: log entries 190, 196, 198. -/
def Obligations.PowerDomainsSleepAndWake : Prop :=
  ∀ (s : State) (p : Fin 42) (ns : Nat), Live s →
    (∃ u, exec (.domainSleepRequest p) s = .next u ∧ RegsOnly s u ∧ OtherWords s u [addr .pwDomCtl p 0, addr .pwEvtCnt 2 0] ∧
      (if sleepState s.dev p = true then cur u.dev .pwDomCtl p 0 = cur s.dev .pwDomCtl p 0 ||| 1 ∧
          cur u.dev .pwEvtCnt 2 0 = cur s.dev .pwEvtCnt 2 0
       else cur u.dev .pwDomCtl p 0 = cur s.dev .pwDomCtl p 0 ||| 0x10000 ∧
          cur u.dev .pwEvtCnt 2 0 = bumpSat (cur s.dev .pwEvtCnt 2 0) 1)) ∧
    (∃ u, exec (.wakeRequest p) s = .next u ∧ bit (cur u.dev .pwDomCtl p 0) 0 = false ∧ OtherWords s u [addr .pwDomCtl p 0] ∧
      (if domSt s.dev p ≤ 1 then u.dev.pw = s.dev.pw
       else domSt u.dev p = 1 ∧ u.dev.pw.fifo = s.dev.pw.fifo ++ [(p.val, s.dev.tick)]) ∧
      (∀ k, k ≠ p.val → domSt u.dev k = domSt s.dev k) ∧
      u = { s with dev := { s.dev with regs := u.dev.regs, pw := u.dev.pw } }) ∧
    (∃ u, exec (.domainSleepEntry p) s = .next u ∧ (∀ k, k ≠ p.val → domSt u.dev k = domSt s.dev k) ∧
      (if cfgB s.dev .pwDomCtl p 0 0 = true ∧ domSt s.dev p = 0 ∧ sleepCond s.dev p = true then
         domSt u.dev p = if p.val < 33 ∧ (reelOf s.dev p).st = .admitted then 2 else 3
       else u = s)) ∧
    (∃ u, exec .gustAdmit s = .next u ∧
      (∀ k, domSt u.dev k = domSt s.dev k) ∧ (s.dev.pw.sag = true → u = s) ∧
      ∀ e, s.dev.pw.sag = false → s.dev.pw.fifo.find? (fun e => decide (mget s.dev.pw.rail (domRail e.1) 0 ≤ s.dev.tick)) = some e →
        mget u.dev.pw.rail (domRail e.1) 0 = s.dev.tick + 63 ∧
        mget u.dev.pw.ramps e.1 none = some (e.2, s.dev.tick + 63 + domRestore e.1) ∧ (∀ x ∈ u.dev.pw.fifo, x.1 ≠ e.1) ∧
        cur u.dev .pwEvtCnt 1 0 = bumpSat (cur s.dev .pwEvtCnt 1 0) 1) ∧
    (∃ u, exec (.domainAwake p) s = .next u ∧ (∀ k, k ≠ p.val → domSt u.dev k = domSt s.dev k) ∧
      (∀ q t, mget s.dev.pw.ramps p none = some (q, t) → t ≤ s.dev.tick → domSt u.dev p = 0 ∧ mget u.dev.pw.ramps p none = none) ∧
      (mget s.dev.pw.ramps p none = none → u = s)) ∧
    (∃ u, exec .sagEntry s = .next u ∧ u.dev.pw.sag = true ∧ u.dev.pw.sagOver = none ∧
      (s.dev.pw.sag = false → 22 ∈ u.dev.ft.raising ∧ bit (cur64 u.dev .pwSagStatus 0 0) 63 = true ∧
        fld (cur64 u.dev .pwSagStatus 0 0) 0 32 = s.dev.tick % 2 ^ 32) ∧ (s.dev.pw.sag = true → u.dev.ft = s.dev.ft)) ∧
    (∃ u, exec (.sagExit ns) s = .next u ∧ (s.dev.pw.sag = false → u = s) ∧
      (s.dev.pw.sag = true → u = { s with dev := { s.dev with pw := { s.dev.pw with sagOver := some ns } } })) ∧
    ∀ h : Fin 2048, ∃ u, exec (.crossed h) s = .next u ∧ (32 ≤ (vportOf s.dev h).bothFull → (vportOf s.dev h).crossed = false →
        (vportOf u.dev h).crossed = true ∧ cur u.dev .pwEvtCnt 6 0 = bumpSat (cur s.dev .pwEvtCnt 6 0) 1) ∧
      ((vportOf s.dev h).bothFull < 32 → u = s)

/-! ### Frames, the crossbar, the ports and the tables (chapters 1, 6, 7, 8, 9) -/

namespace Sys2Proof.Claims
open Sys2Proof Sys2Proof.Machine

/-- Where a frame that arrives at input `i` is taken by port receive as a frame of the switch: its port is up and no gang link, it is no
command frame, no cipher cluster takes it, and CP takes it only in phase FULL. -/
def PortTakes (d : Dev) (i : Nat) (bs : List Byte) : Prop :=
  (decide (i < 16) && linkEn d (8 + lowMember d i)) = false ∧ portUp d i = true ∧ bs ≠ [] ∧ isCommand d i bs = false ∧
  (i ≠ 24 ∨ inFull d = true) ∧ toCluster d (memberInput d i (flowHash d bs)) bs = false

/-- Two states differ in nothing but frames, what has been presented, and the number of the next frame. -/
def FramesOnly (s u : State) : Prop :=
  u = { s with dev := { s.dev with sw := { s.dev.sw with
    frames := u.dev.sw.frames, presented := u.dev.sw.presented, nextFrame := u.dev.sw.nextFrame } } }

/-- A frame at a port of Ethernet whose last byte has not come, and that no ingress cluster takes. -/
def arriving (d : Dev) (p : Nat) (x : Frame) : Bool :=
  decide (x.input ∈ membersOf d p) && !x.whole && decide (x.st ≠ .cipher) && (decide (x.input < 16) || decide (x.input = 24))

/-- The copies of two states are the same but for that of number `id`. -/
def OtherCopies (s u : State) (id : Nat) : Prop := ∀ k, k ≠ id → copyOf u.dev k = copyOf s.dev k

/-- The entries of two states are the same but for the slot named. -/
def OtherSlots (s u : State) (t k : Nat) : Prop := ∀ t' k', slotKey t' k' ≠ slotKey t k → entOf u.dev t' k' = entOf s.dev t' k'

/-- What a visit of the comb makes of an entry that is no SUSPECT (R200). -/
def combed (e : TEnt) : Option TEnt :=
  if e.isHit then some ((e.withBit 25 false).withBit 26 false)
  else if e.stale = false then some (e.withBit 26 true)
  else if e.isStatic then some e
  else none

end Sys2Proof.Claims

open Sys2Proof Sys2Proof.Machine Sys2Proof.Claims

/-- R16, R20, R23, R162, R223: a frame that port receive takes is assigned to one member input, cut at RXMAX cells, and stored with none of its
cells there; one that does not fit is counted and no frame is stored. PARSE_PRESENT hands a frame whose first cell is there to the parse
graph, at most 64 per input and tick. CELL_READY completes one cell; with the last one the frame is whole and, where its FCS is wrong or it
was cut, bad. A frame that ends bad keeps the bytes that arrived and is bad; the flow hash of a host frame is taken as it is presented
(R47). Clauses rest on the model's own choices or readings: log entries 63, 64, 65, 66. -/
def Obligations.FramesArriveAndArePresented : Prop :=
  ∀ s : State, Live s →
    (∀ (i : Fin 25) (bs : List Byte) (ps : Nat), PortTakes s.dev i bs →
      let m := memberInput s.dev i (flowHash s.dev bs)
      let n := s.dev.sw.nextFrame
      ∃ u, exec (.frameArrival i bs ps) s = .next u ∧
        (canTake s.dev m = true → FramesOnly s u ∧ u.dev.sw.nextFrame = n + 1 ∧ (∀ k, k ≠ n → frameOf u.dev k = frameOf s.dev k) ∧
          ∃ f, frameOf u.dev n = some f ∧ f.input = m ∧ f.bytes = bs.take (256 * rxmaxOf s.dev m) ∧
            f.trunc = decide (256 * rxmaxOf s.dev m < bs.length) ∧ f.got = 0 ∧ f.whole = false ∧ f.st = .receiving ∧
            f.ts = some (rxTime s.dev m ps)) ∧
        (canTake s.dev m = false → RegsOnly s u ∧ OtherWords s u [addr .swInRxdrop m 0] ∧
          cur u.dev .swInRxdrop m 0 = bumpSat (cur s.dev .swInRxdrop m 0) 1)) ∧
    (∀ f x, frameOf s.dev f = some x → ∃ u, exec (.parsePresent f) s = .next u ∧ FramesOnly s u ∧
      (∀ k, k ≠ f → frameOf u.dev k = frameOf s.dev k) ∧
      let mine := s.dev.sw.presented.filter fun g => (frameOf s.dev g).any fun y => decide (y.input = x.input)
      if x.st = .receiving ∧ (x.whole = true ∨ 1 ≤ x.got) ∧ mine.length < 64 then
        frameOf u.dev f = some { x with
          st := .parsing, flow := if 16 ≤ x.input ∧ x.input ≤ 23 then flowHash s.dev x.bytes else x.flow } ∧ u.dev.sw.presented = s.dev.sw.presented ++ [f]
      else u = s) ∧
    (∀ f x, frameOf s.dev f = some x → x.whole = false → x.st ≠ .cipher → (x.input < 16 ∨ 23 < x.input) →
      ∃ u, exec (.cellReady f) s = .next u ∧
        (x.got + 1 < cellsOf x.bytes.length → FramesOnly s u ∧ (∀ k, k ≠ f → frameOf u.dev k = frameOf s.dev k) ∧
          frameOf u.dev f = some { x with got := x.got + 1 }) ∧
        (cellsOf x.bytes.length ≤ x.got + 1 → x.released = false → ∃ y, frameOf u.dev f = some y ∧ y.bytes = x.bytes ∧ y.whole = true ∧
          (x.trunc = true → y.bad = true) ∧ ((x.input < 16 ∨ x.input = 24) → fcsGood x.bytes = false → y.bad = true) ∧
          (x.bad = true → y.bad = true))) ∧
    (∀ f x why len, frameOf s.dev f = some x → x.whole = false → x.released = false → ∃ u, exec (.frameEndBad f why len) s = .next u ∧
      ∃ y, frameOf u.dev f = some y ∧ y.bad = true ∧ y.bytes = x.bytes.take (max len (256 * x.got)) ∧ y.input = x.input)

/-- R233: in a cell time every copy moves at most one cell and stays whole otherwise, no two copies that move share an input or a destination,
and where only one copy is there and it may ask for its next cell, it moves that cell; where that copy has crossed and its port sends it,
the port sends what its rate makes in 2 ns, and with the last byte the copy has left with its new FCS, inverted where it ended bad. No copy
is made. Clauses rest on the model's own choices or readings: log entries 67, 69, 79. -/
def Obligations.CellsCrossOnePerInputAndDestination : Prop :=
  ∀ s : State, Live s → ∃ u, exec .cellTime s = .next u ∧ u.dev.tick = s.dev.tick ∧ u.dev.sw.nextCopy = s.dev.sw.nextCopy ∧
    (∀ k c', copyOf u.dev k = some c' → ∃ c, copyOf s.dev k = some c ∧ c'.input = c.input ∧ c'.dest = c.dest ∧ c'.cls = c.cls ∧
      (c'.crossed = c.crossed ∨ c'.crossed = c.crossed + 1)) ∧
    (∀ k l c e c' e', k ≠ l → copyOf s.dev k = some c → copyOf s.dev l = some e → copyOf u.dev k = some c' → copyOf u.dev l = some e' →
      c.crossed < c'.crossed → e.crossed < e'.crossed → c.input ≠ e.input ∧ c.dest ≠ e.dest) ∧
    (∀ k c f, s.dev.sw.copies = [(k, some c)] → frameOf s.dev c.frame = some f → c.input < 30 → c.dest < 30 → 0 < c.crossed →
      c.started = false → c.refr = none → mayRequest s.dev f c = true →
      copyOf u.dev k = some { c with
        crossed := c.crossed + 1, first := some (c.first.getD s.dev.sw.nextFirst)
        pin := if copyCells s.dev c ≤ c.crossed + 1 then none else c.pin }) ∧
    (∀ k c f bs, s.dev.sw.copies = [(k, some c)] → frameOf s.dev c.frame = some f → (c.dest < 16 ∨ c.dest = 24) → c.started = true →
      c.ptp = none → c.out = some bs → copyCells s.dev c ≤ c.crossed → c.sent < bs.length + 4 → gangPort s.dev c.dest = none →
      let n := c.sent + portRate s.dev c.dest / 4
      (n < bs.length + 4 → copyOf u.dev k = some { c with sent := n, pin := none }) ∧
      (bs.length + 4 ≤ n → copyOf u.dev k = none ∧
        u.dev.out = .frame (if c.dest < 16 then lowMember s.dev c.dest else c.dest)
          (bs ++ if c.inverted = true then (fcsOf bs).map (~~~·) else fcsOf bs) :: s.dev.out))

/-- R22, R23, R132, R156, R178, R224, R239, R266, R267: the editor takes the oldest copy of its port when it may, drops a bad frame's copy under
RX_BAD unless it is cut-through (then it ends with the inverted FCS and is counted), and otherwise holds the edited bytes for the next
boundary; port transmit starts a copy that may start; a stored punt copy becomes the entry of Table 4-12 and gives up its place; a wafted
frame's gap is drawn anew from 1 to 2N − 1; a waft copy is stored or dropped and counted. Clauses rest on the model's own choices or
readings: log entries 79, 83, 84, 259. -/
def Obligations.CopiesLeaveThroughTheirPorts : Prop :=
  ∀ (s : State) (k : Nat) (c : Copy) (f : Frame), Live s → copyOf s.dev k = some c → frameOf s.dev c.frame = some f →
    (∃ u, exec (.editorTake k) s = .next u ∧ OtherCopies s u k ∧
      (editorReady s.dev k c = false → u = s) ∧
      (editorReady s.dev k c = true → f.bad = true → c.ct = false → copyOf u.dev k = none) ∧
      (editorReady s.dev k c = true → (f.bad = false ∨ c.ct = true) → outMissing s.dev c = [] → (c.dest < 16 ∨ 23 < c.dest) →
        gangPort s.dev c.dest = none → wantsCipher s.dev c = false → ∀ o, editCopy (edJob s.dev f c) = some o →
        copyOf u.dev k = some { c with
          inverted := c.inverted || f.bad, fan := none, out := some o.bytes, full := o.full + o.bytes.length - o.bytes.length, outAt := s.dev.tick + 1, ptp := o.ptp } ∧
        (f.bad = true → c.inverted = false → c.dest < 29 →
          cur u.dev .swCtAbort c.dest 0 = bump32 (cur s.dev .swCtAbort c.dest 0) 1))) ∧
    (∀ (dst : Fin 29) rest, (egressOrder s.dev dst fun x => onWire x || !x.started || decide (x.crossed < copyCells s.dev x)) = (k, c) :: rest →
      ∃ u, exec (.egressTxStart dst) s = .next u ∧
        (c.started = true ∨ c.out = none ∨ txMayStart s.dev c f = false → u = s) ∧
        (c.started = false → ∀ bs, c.out = some bs → txMayStart s.dev c f = true → (c.dest < 16 ∨ c.dest = 24) →
          (c.crossed < copyCells s.dev c ∨ c.ptp ≠ none ∨ c.sent < bs.length + 4) →
            copyOf u.dev k = some { c with
              started := true, refr := none, pin := if copyCells s.dev c ≤ c.crossed then none else c.pin })) ∧
    (∀ q reason buf lim, c.kind = .punt q reason buf lim → f.whole = true → copyCells s.dev c ≤ c.crossed → f.bad = false →
      ∃ u, exec (.puntStore k) s = .next u ∧ copyOf u.dev k = none ∧ OtherCopies s u k ∧
        puntOf u.dev q = { puntOf s.dev q with
          places := (puntOf s.dev q).places - 1
          entries := (puntOf s.dev q).entries ++ [BitVec.ofNat 64 ((if lim < f.bytes.length then 2 ^ 56 else 0) +
            min lim f.bytes.length * 2 ^ 40 + reason * 2 ^ 32 + bufAddr s.dev buf)] } ∧
        (∀ p, p ≠ q → puntOf u.dev p = puntOf s.dev p)) ∧
    (c.kind = .waft → f.whole = true → copyCells s.dev c ≤ c.crossed → f.bad = false → ∃ u, exec (.waftStore k) s = .next u ∧
      copyOf u.dev k = none ∧ OtherCopies s u k ∧
      (min 1024 (cfgF s.dev .scWaftQ 0 0 0 11) ≤ s.dev.dr.waft.entries.length ∨ freeBuf s.dev = none →
        u.dev.dr.waft = s.dev.dr.waft ∧ cur u.dev .scEvtCnt 2 0 = bumpSat (cur s.dev .scEvtCnt 2 0) 1) ∧
      (s.dev.dr.waft.entries.length < min 1024 (cfgF s.dev .scWaftQ 0 0 0 11) → freeBuf s.dev ≠ none →
        ∃ w : DWord, u.dev.dr.waft.entries = s.dev.dr.waft.entries ++ [w] ∧ bit w 57 = true)) ∧
    (∀ (i : Fin 30) e, (s.dev.sw.waftDue.find? fun e => e.input = i.val) = some e →
      ∃ u, exec (.waftGapExpiry i) s = .next u ∧ u.dev.sw.waftDue = s.dev.sw.waftDue.erase e ∧
        1 ≤ mget u.dev.sw.gap i 0 ∧ mget u.dev.sw.gap i 0 ≤ 2 * (cfgF s.dev .scWaftCfg i 0 0 16 + 1) - 1 ∧
        ∀ j, j ≠ i.val → mget u.dev.sw.gap j 0 = mget s.dev.sw.gap j 0)

/-- R23, R246, R518: a port whose link is lost ends the frames that still arrive there bad, enters HOLD, and every copy that has begun to cross
toward it is lost; with no hold it is DOWN at once; a link that is back brings it UP where auto-negotiation does not run or finds a type
that both partners advertise, and leaves it down where there is none; at the end of the hold every copy toward it is dropped and it is DOWN.
Clauses rest on the model's own choices or readings: log entries 63, 266. -/
def Obligations.PortsLoseAndRegainTheirLinks : Prop :=
  ∀ (s : State) (p : Fin 25), Live s →
    (∃ u, exec (.linkDown p) s = .next u ∧ u.dev.tick = s.dev.tick ∧
      lowMember s.dev p ∈ u.dev.sw.lost ∧
      (∀ f x y, frameOf s.dev f = some x → arriving s.dev p x = true → frameOf u.dev f = some y → y.whole = true ∧ y.bad = true) ∧
      let d := cutArriving s.dev p
      (destState s.dev p ≠ .up → u = { s with dev := { d with sw := { d.sw with lost := u.dev.sw.lost } } }) ∧
      (destState s.dev p = .up →
        destState u.dev p = (if flapHold s.dev = 0 then .down else .hold s.dev.tick false) ∧
        (∀ k c, copyOf s.dev k = some c → towardPort s.dev p c = true → (0 < c.crossed ∨ flapHold s.dev = 0) → copyOf u.dev k = none) ∧
        (∀ k, (∀ c, (k, c) ∈ allCopies s.dev → towardPort s.dev p c = false ∨ (c.crossed = 0 ∧ flapHold s.dev ≠ 0)) →
          copyOf u.dev k = copyOf d k) ∧
        ((∀ f x, frameOf s.dev f = some x → arriving s.dev p x = false) → ∀ k, copyOf d k = copyOf s.dev k))) ∧
    (∃ u, exec (.linkUp p) s = .next u ∧
      let ts := Config.partnerTypes (lowMember s.dev p) s.dev.tick
      mget u.dev.sw.partner (lowMember s.dev p) none = some ts ∧
      (lowMember s.dev p ∉ u.dev.sw.lost ↔ anTypes s.dev p = [] ∨ ∃ t ∈ anTypes s.dev p, t ∈ ts) ∧
      (lowMember s.dev p ∉ u.dev.sw.lost → (portUp s.dev p = false → destState u.dev p = destState s.dev p) ∧
        (portUp s.dev p = true → destState u.dev p = .up) ∧
        u = { s with dev := { s.dev with sw := { s.dev.sw with
          dst := u.dev.sw.dst, lost := u.dev.sw.lost, partner := u.dev.sw.partner } } }) ∧
      (lowMember s.dev p ∈ u.dev.sw.lost → destState u.dev p ≠ .up)) ∧
    ∃ u, exec (.flapHoldExpiry p) s = .next u ∧ u.dev.tick = s.dev.tick ∧
      (∀ since admin, destState s.dev p = .hold since admin → since + (if admin = true then 0 else flapHold s.dev) ≤ s.dev.tick →
        destState u.dev p = .down ∧ (∀ k c, copyOf s.dev k = some c → towardPort s.dev p c = true → copyOf u.dev k = none) ∧
        (∀ k, (∀ c, (k, c) ∈ allCopies s.dev → towardPort s.dev p c = false) → copyOf u.dev k = copyOf s.dev k)) ∧
      ((∀ since admin, destState s.dev p = .hold since admin → s.dev.tick < since + (if admin = true then 0 else flapHold s.dev)) → u = s)

/-- R200, R211, R213, R215, R218, R264: a comb visit that is due treats its 64 slots by HIT and STALE, SUSPECT entries apart, and moves on; the
HBM sweep does the same to a flow held in HBM; a promotion's read and a demotion's write, once they are complete, wait for step 3 of the
boundary, where the promotion places the flow and the demotion ends; a finished shadow write reaches its word in HBM; a visit of the sampler
that is due sets the next one. What is not due changes nothing. Clauses rest on the model's own choices or readings: log entries 58, 59, 60,
87. -/
def Obligations.TablesAgePromoteAndShadow : Prop :=
  ∀ s : State, Live s →
    (∀ t : Fin 5, ∃ u, exec (.combVisit t) s = .next u ∧
      (bit (combCfg s.dev t) 31 = false ∨ (∀ b, combDue s.dev t = some b → s.dev.tick < b) → u = s) ∧
      (∀ b, bit (combCfg s.dev t) 31 = true → combDue s.dev t = some b → b ≤ s.dev.tick →
        combDue u.dev t = some (s.dev.tick + combPeriod s.dev t) ∧
        ((∀ x ∈ entsOf s.dev t, x.1 < wayCount t) → ∀ k e, mget s.dev.lk.comb t 0 ≤ k → k < mget s.dev.lk.comb t 0 + 64 →
          k < slotCount t → entOf s.dev t k = some e → entOf u.dev t k = if e.suspect = true then some e else combed e))) ∧
    (∃ u, exec .hbmSweepVisit s = .next u ∧
      (bit (combCfg s.dev 5) 31 = false ∨ hbmEn s.dev = false ∨ (∀ b, combDue s.dev 5 = some b → s.dev.tick < b) → u = s) ∧
      (∀ a, bit (combCfg s.dev 5) 31 = true → hbmEn s.dev = true → combDue s.dev 5 = some a → a ≤ s.dev.tick →
        combDue u.dev 5 = some (s.dev.tick + combPeriod s.dev 5) ∧
        ∀ b kw e, s.dev.lk.homes = [(b, [⟨kw, some e⟩])] → bucketOf s.dev kw = b → mget s.dev.lk.comb 5 0 ≤ b →
          b < mget s.dev.lk.comb 5 0 + 64 → homesOf u.dev b = match combed e with
            | some e => [⟨kw, some e⟩]
            | none => [])) ∧
    (∀ hi lo : DWord, ∃ u, exec (.flowPromotionDone hi lo) s = .next u ∧
      u = { s with dev := { s.dev with lk := { s.dev.lk with readDone := u.dev.lk.readDone } } } ∧
      (promoting s.dev [hi, lo] = false → u = s) ∧ (promoting s.dev [hi, lo] = true → [hi, lo] ∈ u.dev.lk.readDone)) ∧
    (∀ kw : List DWord, kw ∉ s.dev.lk.demos → promoting s.dev kw = true → findAny s.dev 4 kw = none →
      ∀ k e, e = ((homeOf s.dev kw).bind (·.held)).getD (flowEnt kw (2 ^ 24 + 2 ^ 28) [0, 0, 0, 0]) →
        search s.dev 4 e.kw = some ([], k) → let u := { s with dev := promoDone kw s.dev }
          OtherSlots s u 4 k ∧ (∀ x ∈ u.dev.lk.promos, x.1 ≠ kw) ∧ entOf u.dev 4 k = some { e with camAt := s.dev.tick }) ∧
    (∀ hi lo : DWord, ∃ u, exec (.demotionWriteDone hi lo) s = .next u ∧
      u = { s with dev := { s.dev with lk := { s.dev.lk with writeDone := u.dev.lk.writeDone } } } ∧
      ([hi, lo] ∈ s.dev.lk.demos → [hi, lo] ∈ u.dev.lk.writeDone)) ∧
    (∀ kw : List DWord, (demoDone kw s.dev).lk.demos = s.dev.lk.demos.erase kw ∧
      ∀ t k, entOf (demoDone kw s.dev) t k = entOf s.dev t k) ∧
    (∀ (t : Fin 4) (k : BitVec 20), ∃ u, exec (.shadowWriteDone t k) s = .next u ∧
      match s.dev.lk.shw.find? fun x => x.1 = slotKey t k.toNat with
      | none => u = s
      | some x => u = { s with dev := { s.dev with
          lk := { s.dev.lk with shw := s.dev.lk.shw.erase x }
          hbm := memWrN s.dev.hbm (shadowAddr s.dev t k.toNat) (leBytes 4 x.2) } }) ∧
    ∃ u, exec .sampleVisit s = .next u ∧
      (cfgB s.dev .scSmpCfg 0 0 31 = false ∨ s.dev.tick < s.dev.sw.smpNext → u = s) ∧
      (cfgB s.dev .scSmpCfg 0 0 31 = true → s.dev.sw.smpNext ≤ s.dev.tick →
        u.dev.sw.smpNext = s.dev.tick + cfgF s.dev .scSmpSched 0 0 16 16 + 1 ∧ u.dev.hbm = s.dev.hbm ∧ u.dev.tick = s.dev.tick)

/-! ### The Bamura link and the gang (chapters 10 and 17) -/

namespace Sys2Proof.Claims
open Sys2Proof Sys2Proof.Machine

/-- Two states differ in nothing but the link of key `h` (0 to 7 a host link, 8 to 23 a gang link) and what the device has sent. -/
def OnlyLink (s u : State) (h : Nat) : Prop :=
  u = { s with dev := { s.dev with hp := { s.dev.hp with links := u.dev.hp.links }, out := u.dev.out } } ∧
  ∀ k, k ≠ h → linkOf u.dev k = linkOf s.dev k

/-- REPLAY_MAX and REPLAY_TIMEOUT of a link (R282), ENDPOINT_LOST in ticks (R286). -/
def replayMax (d : Dev) (h : Nat) : Nat := orIf0 (fld (lcfg d .blReplay h) 24 4) 1
def replayTicks (d : Dev) (h : Nat) : Nat := max 32 (min 2000 (fld (lcfg d .blReplay h) 0 11))
def lostTicks (d : Dev) (h : Nat) : Nat := max 3125 (min (fld (lcfg d .blLost h) 0 22) 3125000)

/-- The limits that a header carries, by virtual channel (R277). -/
def limits (m : SMap Nat) (x : BlHdr) : SMap Nat :=
  mput (mput (mput (mput m 0 x.cl0.toNat 0) 1 x.cl1.toNat 0) 2 x.cl2.toNat 0) 3 x.cl3.toNat 0

/-- A header of the epochs that the link knows (R284). -/
def epochsAgree (l : Link) (x : BlHdr) : Prop := l.epPeer = some x.epOwn.toNat ∧ x.epPeer.toNat = l.epOwn

/-- The header of a DATA or CONTROL frame that the link sends (Table 10-1): it acknowledges the last frame accepted and carries the NAK that is
due and the link's own credit limits. -/
def sentHead (l : Link) (ftype seq : Nat) : List Byte := linkHead l ftype l.nakDue seq ((l.nrx + 65535) % 65536) fun v => mget l.own v 0

/-- The frame of a Bamura frame after its Ethernet header and without its FCS. -/
def blBody (bs : List Byte) : List Byte := (bs.take (bs.length - 4)).drop 14

end Sys2Proof.Claims

open Sys2Proof Sys2Proof.Machine Sys2Proof.Claims

/-- R281, R282, R284 to R288, R298 and Table 10-8: a link goes to INIT with alignment and ENABLE and to DOWN with the loss of alignment; in INIT
it sends an INIT frame every 31 ticks, records the endpoint's, and enters ACTIVE FRESH or RESUME; an acknowledgement that is due is sent; a
header frees what it acknowledges; a frame of another epoch, a RESET_NOTICE and REPLAY_MAX replays take the link to INIT; an endpoint that
is lost is treated as reset. Clauses rest on the model's own choices or readings: log entries 93, 102, 103, 104. -/
def Obligations.LinksFollowTheirStates : Prop :=
  ∀ (s : State) (h : Fin 24), Live s →
    let l := linkOf s.dev h
    (∃ u, exec (.pcsAlign h) s = .next u ∧ OnlyLink s u h ∧ u.dev.out = s.dev.out ∧
      linkOf u.dev h = if l.st = .down ∧ linkEn s.dev h = true ∧ l.resetTill = none then
        { l with
          aligned := true, st := .init, sentInit := false, gotInit := none, initAt := s.dev.tick, ackDue := none, nakDue := false
          replay := [] }
      else { l with aligned := true }) ∧
    (∃ u, exec (.pcsLoss h) s = .next u ∧ (linkOf u.dev h).st = .down ∧ (linkOf u.dev h).aligned = false ∧
      (l.st = .active → (linkOf u.dev h).leftAt = some s.dev.tick) ∧ (linkOf u.dev h).holds = l.holds ∧ (linkOf u.dev h).sent = l.sent ∧
      ∀ k, k ≠ h.val → linkOf u.dev k = linkOf s.dev k) ∧
    (∃ u, exec (.initSend h) s = .next u ∧ OnlyLink s u h ∧
      if l.st = .init ∧ l.initAt ≤ s.dev.tick then
        let own : SMap Nat := if l.holds = true then l.own else (List.range 4).foldl (fun m v => mput m v (ownInit s.dev h v).1 0) []
        linkOf u.dev h = { l with sentInit := true, initAt := s.dev.tick + 31, own := own, ownInf := infBits s.dev h } ∧
          u.dev.out = .bamura h (bamuraFrame l (linkHead l 2 false 0 0 (fun v => mget own v 0) ++ initBody s.dev h)) :: s.dev.out
      else u = s) ∧
    (∀ x b, ∃ u, exec (.initFrameReceive h x b) s = .next u ∧
      (l.st = .down → u = s) ∧
      (l.st = .active → (linkOf u.dev h).st = .init) ∧
      (l.st = .init → b.role = (if h.val < 8 then 1 else 2) → b.kind = 1 → l.holds = false →
        (l.epPeer = none ∨ l.epPeer = some x.epOwn.toNat) → x.epPeer.toNat = l.epOwn →
        linkOf u.dev h = { l with
          epPeer := some x.epOwn.toNat, gotInit := some b.nrx.toNat, cl := limits l.cl x, inf := b.inf.toNat % 16 })) ∧
    (∃ u, exec (.linkEnterActive h) s = .next u ∧
      (∀ nrx, l.st = .init → l.gotInit = some nrx → l.sentInit = true →
        (linkOf u.dev h).st = .active ∧ (linkOf u.dev h).leftAt = none ∧ (linkOf u.dev h).holds = true ∧
        (l.holds = false → (linkOf u.dev h).next = 0 ∧ (linkOf u.dev h).nrx = 0 ∧ (linkOf u.dev h).sent = [] ∧ (linkOf u.dev h).cc = []) ∧
        (l.holds = true → (linkOf u.dev h).next = l.next ∧ (linkOf u.dev h).nrx = l.nrx ∧ (linkOf u.dev h).cc = l.cc ∧
          (linkOf u.dev h).sent = l.sent.filter (fun f => !seqLe f.seq ((nrx + 65535) % 65536)) ∧
          (linkOf u.dev h).replay = (linkOf u.dev h).sent.map (·.seq))) ∧
      (l.st ≠ .init ∨ l.gotInit = none ∨ l.sentInit = false → u = s)) ∧
    (∃ u, exec (.ackSend h) s = .next u ∧ (l.nakDue = false → OnlyLink s u h) ∧
      if l.st = .active ∧ (l.ackDue.isSome = true ∨ l.nakDue = true) then
        linkOf u.dev h = { l with ackDue := none, nakDue := false, nakSent := l.nakSent || l.nakDue } ∧
          u.dev.out = .bamura h (bamuraFrame l (sentHead l 1 0)) :: s.dev.out ∧
          (l.nakDue = true → h.val < 8 → cur u.dev .blErrCnt h 4 = bumpSat (cur s.dev .blErrCnt h 4) 1)
      else u = s) ∧
    (∀ x, ∃ u, exec (.controlFrameReceive h x) s = .next u ∧
      (l.st ≠ .active → u = s) ∧
      (l.st = .active → ¬epochsAgree l x → (linkOf u.dev h).st = .init) ∧
      (l.st = .active → epochsAgree l x → x.nak = false → OnlyLink s u h ∧ (linkOf u.dev h).st = .active ∧
        (linkOf u.dev h).sent = l.sent.filter (fun f => !seqLe f.seq x.ackSeq.toNat) ∧ (linkOf u.dev h).cl = limits l.cl x)) ∧
    (∃ u, exec (.replayTimeout h) s = .next u ∧
      (l.st ≠ .active ∨ l.replay ≠ [] ∨ l.sent = [] → u = s) ∧
      (∀ f rest, l.sent = f :: rest → l.st = .active → l.replay = [] → f.last + replayTicks s.dev h ≤ s.dev.tick →
        (replayMax s.dev h ≤ f.replays → (linkOf u.dev h).st = .init) ∧
        (f.replays < replayMax s.dev h → linkOf u.dev h = { l with replay := l.sent.map (·.seq) }))) ∧
    (∀ r, ∃ u, exec (.resetNotice h r) s = .next u ∧
      (l.st ≠ .active ∨ r.ty ≠ 0x3A ∨ recOk (decide (8 ≤ h.val)) r = false → u = s) ∧
      (l.st = .active → r.ty = 0x3A → recOk (decide (8 ≤ h.val)) r = true → (linkOf u.dev h).st = .init ∧
        (linkOf u.dev h).wasReset = true ∧ (l.wasReset = false → (linkOf u.dev h).holds = false ∧ 11 ∈ u.dev.ft.raising))) ∧
    (∃ u, exec (.endpointLost h) s = .next u ∧ (l.leftAt = none → u = s) ∧
      ∀ t, l.leftAt = some t → (s.dev.tick < t + lostTicks s.dev h → u = s) ∧
        (t + lostTicks s.dev h ≤ s.dev.tick → (linkOf u.dev h).leftAt = none ∧ (linkOf u.dev h).wasReset = true ∧
          (l.wasReset = false → (linkOf u.dev h).holds = false ∧ (linkOf u.dev h).epPeer = none ∧ 11 ∈ u.dev.ft.raising ∧
            ∀ p, h.val < 8 → p / 256 = h.val → (vportOf s.dev p).st = .active ∨ (vportOf s.dev p).st = .frozen →
              (vportOf u.dev p).st = .orphaned)))

/-- R272, R273, R280 to R283, R290 to R293, R296 to R299, R313, R460 and Table 10-5: a frame is checked and treated by its type; the next DATA
frame in sequence is accepted and its accesses wait for the boundary, a malformed one is counted and raises BL_PROTO, an old one is
acknowledged again, one ahead is answered by one NAK; a frame is sent with the next record of a channel and kept until it is acknowledged;
completions and write acknowledgements end their requests, and time ends those whose time has run out; a gang frame for this device enters
the parse graph without its header. Clauses rest on the model's own choices or readings: log entries 92, 95, 98, 205, 207. -/
def Obligations.FramesAndRecordsCrossTheLink : Prop :=
  ∀ (s : State) (h : Fin 24) (g : Fin 8), Live s →
    let l := linkOf s.dev h
    (∀ bs : List Byte,
      (∀ ok, (ok = false ∨ bs.length < 64) → h.val < 8 → ∃ u, exec (.blFrameReceive h bs ok) s = .next u ∧ RegsOnly s u ∧
        OtherWords s u [addr .blErrCnt h 0] ∧ cur u.dev .blErrCnt h 0 = bumpSat (cur s.dev .blErrCnt h 0) 1) ∧
      (64 ≤ bs.length → bs.length ≤ 4160 → beNat (sliceD 0 bs 12 2) = l.etype →
        ((blBody bs).getD 0 0 = 0x10 → exec (.blFrameReceive h bs true) s = exec (.dataFrameReceive h (parseHdr (blBody bs))
          (parseRecs 260 ((blBody bs).drop 16)).1
          ((parseRecs 260 ((blBody bs).drop 16)).2 || (parseRecs 260 ((blBody bs).drop 16)).1.isEmpty)) s) ∧
        ((blBody bs).getD 0 0 = 0x11 → exec (.blFrameReceive h bs true) s = exec (.controlFrameReceive h (parseHdr (blBody bs))) s ∧
          ∃ u, exec (.blFrameReceive h bs true) s = .next u ∧ (l.st = .active → epochsAgree l (parseHdr (blBody bs)) →
            (parseHdr (blBody bs)).nak = false → (linkOf u.dev h).cl = limits l.cl (parseHdr (blBody bs)) ∧
              (linkOf u.dev h).sent = l.sent.filter fun f => !seqLe f.seq (parseHdr (blBody bs)).ackSeq.toNat)))) ∧
    (∀ x recs pastEnd, ∃ u, exec (.dataFrameReceive h x recs pastEnd) s = .next u ∧ (l.st ≠ .active → u = s) ∧
      (l.st = .active → epochsAgree l x → x.nak = false →
        (x.seq.toNat = l.nrx → pastEnd = false → creditOk s.dev h (useCredits l.used recs) = true →
          (∀ r ∈ recs, r.ty.toNat ∈ [0x12, 0x13, 0x30] ∧ recOk (decide (8 ≤ h.val)) r = true) → OnlyLink s u h ∧
          (linkOf u.dev h).nrx = (l.nrx + 1) % 65536 ∧ (linkOf u.dev h).hostq = l.hostq ++ recs ∧
          (linkOf u.dev h).ackDue = some (l.ackDue.getD s.dev.tick)) ∧
        (x.seq.toNat = l.nrx → pastEnd = true → (linkOf u.dev h).nrx = (l.nrx + 1) % 65536 ∧ (linkOf u.dev h).hostq = l.hostq ∧
          10 ∈ u.dev.ft.raising) ∧
        (1 ≤ (l.nrx + 65536 - x.seq.toNat) % 65536 → (l.nrx + 65536 - x.seq.toNat) % 65536 ≤ 32768 →
          (linkOf u.dev h).nrx = l.nrx ∧ (linkOf u.dev h).hostq = l.hostq ∧ (linkOf u.dev h).ackDue = some (l.ackDue.getD s.dev.tick)) ∧
        (32768 < (l.nrx + 65536 - x.seq.toNat) % 65536 → (linkOf u.dev h).nrx = l.nrx ∧ (linkOf u.dev h).hostq = l.hostq ∧
          (linkOf u.dev h).nakSent = l.nakSent ∧ (l.nakSent = false → (linkOf u.dev h).nakDue = true)))) ∧
    (l.st = .active →
      (∀ n rest f vcs, l.replay = n :: rest → (l.sent.find? fun f => f.seq = n) = some f → ∃ u, exec (.dataFrameSend h vcs) s = .next u ∧
        (l.nakDue = false → OnlyLink s u h) ∧ (linkOf u.dev h).replay = rest ∧
        u.dev.out = .bamura h (bamuraFrame l (sentHead l 0 n ++ f.recs.flatMap ORec.wire)) :: s.dev.out) ∧
      (∀ (v : Fin 4) r, v ≠ 0 → l.replay = [] → (l.outq.find? fun r => r.vc = v.val) = some r → mayUse l v (recCost r.payload.length) = true →
        recSize r.payload.length ≤ 4126 → l.sent.foldl (fun n f => n + f.bytes) 0 + 64 * ceilDiv (16 + recSize r.payload.length) 64 ≤ 524288 →
        l.sent.length < 32767 → ∃ u, exec (.dataFrameSend h [v]) s = .next u ∧ (l.nakDue = false → OnlyLink s u h) ∧
          u.dev.out = .bamura h (bamuraFrame l (sentHead l 0 l.next ++ r.wire)) :: s.dev.out ∧ (linkOf u.dev h).outq = l.outq.erase r ∧
          (linkOf u.dev h).next = (l.next + 1) % 65536 ∧
          (linkOf u.dev h).sent = l.sent ++ [⟨l.next, [r], 64 * ceilDiv (16 + recSize r.payload.length) 64, s.dev.tick, 0⟩])) ∧
    (∀ v w, ((linkOf s.dev g).outq.find? fun r => r.vc = 2) = some (.sig v.toNat w.toNat) →
      exec (.sigSend g v w) s = exec (.dataFrameSend ⟨g.val, by omega⟩ [2]) s) ∧
    (∀ v w, let L := linkOf s.dev g
      let r : ORec := .sig v.toNat w.toNat
      L.outq.find? (fun r => r.vc = 2) = some r → L.st = .active → L.replay = [] → mayUse L 2 (recCost r.payload.length) = true →
      L.sent.foldl (fun n f => n + f.bytes) 0 + 64 * ceilDiv (16 + recSize r.payload.length) 64 ≤ 524288 → L.sent.length < 32767 →
      ∃ u, exec (.sigSend g v w) s = .next u ∧ u.dev.out = .bamura g.val (bamuraFrame L (sentHead L 0 L.next ++ r.wire)) :: s.dev.out ∧
        (linkOf u.dev g).outq = L.outq.erase r ∧ (linkOf u.dev g).next = (L.next + 1) % 65536) ∧
    (∀ x r, x.ty = 0x20 → recOk false x = true → reqOfTag (linkOf s.dev g) x.tag.toNat false = some r → x.status = 0 →
      x.word.toNat = r.got.length → ∃ u, exec (.cplRecord g x) s = .next u ∧
        (bit x.rflags 0 = true → r.got.length + x.data.length = r.len → ∀ q ∈ (linkOf u.dev g).reqs, q.tag ≠ r.tag) ∧
        (bit x.rflags 0 = false → r.got.length + x.data.length ≤ r.len → (r.iova + r.got.length + x.data.length) % 64 = 0 →
          OnlyLink s u g ∧ (linkOf u.dev g).reqs = (linkOf s.dev g).reqs.map fun q =>
            if q.tag = r.tag then { q with got := q.got ++ x.data } else q)) ∧
    (∀ x r, x.ty = 0x21 → recOk false x = true → reqOfTag (linkOf s.dev g) x.tag.toNat true = some r →
      ∃ u, exec (.wackRecord g x) s = .next u ∧ ∀ q ∈ (linkOf u.dev g).reqs, q.tag ≠ r.tag) ∧
    (∃ u, exec (.cplTimeout g) s = .next u ∧
      (∀ r ∈ (linkOf s.dev g).reqs, ∀ n gen dl, r.tag = some (n, gen, dl) → dl ≤ s.dev.tick → ∀ q ∈ (linkOf u.dev g).reqs, q.tag ≠ r.tag) ∧
      ((∀ r ∈ (linkOf s.dev g).reqs, ∀ n gen dl, r.tag = some (n, gen, dl) → s.dev.tick < dl) → u = s)) ∧
    (∀ (c : Instr) (x : BlRec), (c = .mbrRecord g x ∧ x.ty = 0x12) ∨ (c = .mbwRecord g x ∧ x.ty = 0x13) ∨ (c = .dbRecord g x ∧ x.ty = 0x30) →
      recOk false x = true → ∃ u, exec c s = .next u ∧ OnlyLink s u g ∧ u.dev.out = s.dev.out ∧
        linkOf u.dev g = { linkOf s.dev g with hostq := (linkOf s.dev g).hostq ++ [x] }) ∧
    (∀ x, x.ty = 0x38 → recOk (decide (8 ≤ h.val)) x = true → ∃ u, exec (.pingRecord h x) s = .next u ∧ OnlyLink s u h ∧
      u.dev.out = s.dev.out ∧ linkOf u.dev h = { l with outq := l.outq ++ [.pong x.word] }) ∧
    (∀ (n : Fin 16) (bs : List Byte), ∃ u, exec (.gangFrameReceive n bs) s = .next u ∧
      (cfgB s.dev .ggCfg 0 0 31 = false → u = s) ∧
      (cfgB s.dev .ggCfg 0 0 31 = true → beNat (sliceD 0 bs 6 2) % 4096 = 0 → RegsOnly s u ∧ OtherWords s u [addr .ggEvtCnt 0 0] ∧
        cur u.dev .ggEvtCnt 0 0 = bumpSat (cur s.dev .ggEvtCnt 0 0) 1) ∧
      (cfgB s.dev .ggCfg 0 0 31 = true → beNat (sliceD 0 bs 6 2) % 4096 ≠ 0 → beNat (sliceD 0 bs 2 2) % 4096 = cfgF s.dev .ggCfg 0 0 0 12 →
        canTake s.dev n = true → ∃ f, frameOf u.dev s.dev.sw.nextFrame = some f ∧ f.input = n.val ∧
          f.bkt = some (beNat (sliceD 0 bs 10 2) % 4096) ∧ fld f.md 60 4 = 6))

/-! ### Queues, vports and migration (chapters 11 and 14) -/

namespace Sys2Proof.Claims
open Sys2Proof Sys2Proof.Machine

/-- What a completion queue is after an entry has been pushed (R311, R322, R323, R325): the ring takes it where it has room and nothing waits
in the reserve, and H of its queue waits for the entry's write; otherwise the reserve does, and the queue is stalling. -/
def pushed (y : Queue) (tick : Nat) (e : CEnt) (src : Nat × Nat × Nat) : Queue :=
  if y.reserve = [] ∧ idxSub y.dev y.host < qSize y then
    { y with dev := (y.dev + 1) % 2 ^ 32, places := y.places - 1, posted := mset y.posted y.dev src }
  else { y with reserve := y.reserve ++ [{ e with src := none }], stall := some (y.stall.getD tick) }

/-- A send or receive queue whose oldest job has got its completion entry (R311): H passes it once that has been written, to the reserve at
once. -/
def gotEntry (x y : Queue) (js : List Job) (v : Nat) : Queue :=
  let z := { x with jobs := js, passing := x.passing ++ [v] }
  if y.reserve = [] ∧ idxSub y.dev y.host < qSize y then z else headOn z.passing.length { z with passed := v :: z.passed }

/-- SE_MIG_CMD holds an operation that runs (R392): BUSY is 1, OP is `op`, and no RESTORE is under way. -/
def MigBusy (s : State) (op : Nat) : Prop :=
  bit (cur s.dev .seMigCmd 0 0) 31 = true ∧ fld (cur s.dev .seMigCmd 0 0) 0 3 = op ∧ s.dev.ct.restore = none

/-- SE_MIG_CMD shows that its operation is over with a status (Table 14-13). -/
def MigOver (u : State) (st : Nat) : Prop := bit (cur u.dev .seMigCmd 0 0) 31 = false ∧ fld (cur u.dev .seMigCmd 0 0) 27 4 = st

/-- The session that SE_MIG_CMD names. -/
abbrev migSlot (s : State) : Nat := fld (cur s.dev .seMigCmd 0 0) 4 4

/-- HBM outside a range is as before. -/
def HbmOutside (s u : State) (lo n : Nat) : Prop := ∀ a, a < lo ∨ lo + n ≤ a → memRd u.dev.hbm a = memRd s.dev.hbm a

end Sys2Proof.Claims

open Sys2Proof Sys2Proof.Machine Sys2Proof.Claims

/-- R308, R320 to R327, R389, R390, R394: the end of a vport's reset, of a reattachment and of an orphan's hold; the oldest send job or receive
entry that is done leaves its ring and its completion entry goes to the bound queue; a held copy whose hold has run out is dropped; a queue
that stalls too long is STALLED and raises CQ_STALLED; unmasking a pending vector sends its SIG; a written SAVE ends; a FROZEN vport with
nothing left is DRAINED. Where the condition of an event does not hold, nothing changes. Clauses rest on the model's own choices or
readings: log entries 110, 121, 160. -/
def Obligations.HostQueuesCompleteAndSignal : Prop :=
  ∀ (s : State) (p : Fin 2048) (q : Fin 32768) (c : Fin 16384) (k : Nat) (vec : Fin 64), Live s →
    let v := vportOf s.dev p
    (∃ u, exec (.vportResetDone p) s = .next u ∧ OnlyVport s u p ∧ u.dev.regs = s.dev.regs ∧
      vportOf u.dev p = if v.resetBusy = true ∧ vportReqs s.dev p = [] then { v with resetBusy := false } else v) ∧
    (∃ u, exec (.reattachDone p) s = .next u ∧ OnlyVport s u p ∧ u.dev.regs = s.dev.regs ∧
      vportOf u.dev p = if v.reattaching = true ∧ readsIndex s.dev p = false ∧ v.st = .orphaned then
        { v with reattaching := false, st := .active, orphanAt := none } else v) ∧
    (∃ u, exec (.orphanHoldExpiry p) s = .next u ∧ (v.orphanAt = none ∨ v.st ≠ .orphaned → u = s) ∧
      ∀ t, v.orphanAt = some t → v.st = .orphaned →
        (s.dev.tick < t + 31250000 * orIf0 (cfgF s.dev .vpCtl p 0 24 8) 1 → u = s) ∧
        (t + 31250000 * orIf0 (cfgF s.dev .vpCtl p 0 24 8) 1 ≤ s.dev.tick → vportOf u.dev p = Vport.reset ∧
          (∀ j, j ≠ p.val → vportOf u.dev j = vportOf s.dev j) ∧
          ∀ a, 0x1000000 + 0x1000 * p.val ≤ a → a < 0x1001000 + 0x1000 * p.val → mfind u.dev.regs.cur a = none ∧ mfind u.dev.regs.act a = none)) ∧
    (∃ u, exec (.sendJobComplete q) s = .next u ∧
      ((queueOf s.dev 0 q).jobs = [] ∨ ownerOf s.dev 0 q = none → u = s) ∧
      ∀ j js o, (queueOf s.dev 0 q).jobs = j :: js → ownerOf s.dev 0 q = some o →
        (j.st ≠ .done → u = s) ∧
        (j.st = .done →
          let y := queueOf s.dev 2 (qCq (queueOf s.dev 0 q))
          let next := (j.idx + j.units) % 2 ^ 32
          queueOf u.dev 0 q = gotEntry (queueOf s.dev 0 q) y js next ∧
          queueOf u.dev 2 (qCq (queueOf s.dev 0 q)) = pushed y s.dev.tick
            ⟨1, j.status, q - (kindRange s.dev o 0).1, j.idx, 0, j.tag, [], none⟩ (0, q.val, next))) ∧
    (∃ u, exec (.rxComplete q) s = .next u ∧
      ((queueOf s.dev 1 q).jobs = [] ∨ ownerOf s.dev 1 q = none → u = s) ∧
      ∀ j js o, (queueOf s.dev 1 q).jobs = j :: js → ownerOf s.dev 1 q = some o →
        (j.st ≠ .done → u = s) ∧
        (j.st = .done →
          let y := queueOf s.dev 2 (qCq (queueOf s.dev 1 q))
          let next := (j.idx + j.units) % 2 ^ 32
          queueOf u.dev 1 q = gotEntry (queueOf s.dev 1 q) y js next ∧
          queueOf u.dev 2 (qCq (queueOf s.dev 1 q)) = pushed y s.dev.tick
            ⟨2, j.status, q - (kindRange s.dev o 1).1, j.idx, if j.status = 0 then j.wrote else 0, j.tag, [], none⟩ (1, q.val, next))) ∧
    (∃ u, exec (.rxHoldExpiry k) s = .next u ∧ ∀ x, copyOf s.dev k = some x →
      if voqHead s.dev k x = true ∧ x.crossed = 0 ∧ hostHold s.dev x = .rxDrop then copyOf u.dev k = none ∧ OtherCopies s u k else u = s) ∧
    (∃ u, exec (.freezeHoldExpiry k) s = .next u ∧ ∀ x, copyOf s.dev k = some x →
      if voqHead s.dev k x = true ∧ x.crossed = 0 ∧ hostHold s.dev x = .migDrop then copyOf u.dev k = none ∧ OtherCopies s u k else u = s) ∧
    (∃ u, exec (.cqStall c) s = .next u ∧ ((queueOf s.dev 2 c).stall = none ∨ (queueOf s.dev 2 c).st ≠ .active → u = s) ∧
      ∀ t, (queueOf s.dev 2 c).stall = some t → (queueOf s.dev 2 c).st = .active →
        (s.dev.tick < t + qStall (queueOf s.dev 2 c) → u = s) ∧
        (t + qStall (queueOf s.dev 2 c) ≤ s.dev.tick → queueOf u.dev 2 c = { queueOf s.dev 2 c with st := .stalled } ∧ 13 ∈ u.dev.ft.raising)) ∧
    (∃ u, exec (.sigUnmask p vec) s = .next u ∧ bit (cur u.dev .vpSigCfg p vec) 0 = false ∧ bit (cur u.dev .vpSigCfg p vec) 1 = false ∧
      OtherWords s u [addr .vpSigCfg p vec] ∧
      (bit (cur s.dev .vpSigCfg p vec) 1 = true → .sig (p % 256) vec ∈ (linkOf u.dev (p / 256)).outq) ∧
      (bit (cur s.dev .vpSigCfg p vec) 1 = false → RegsOnly s u)) ∧
    (∃ u, exec .saveWritten s = .next u ∧ (s.dev.ct.saves = [] → u = s) ∧
      ∀ x rest, s.dev.ct.saves = x :: rest → u.dev.ct.saves = rest ∧
        vportOf u.dev x.page = { vportOf s.dev x.page with saveBusy := false } ∧ (∀ j, j ≠ x.page → vportOf u.dev j = vportOf s.dev j)) ∧
    (∃ u, exec (.vportDrained p) s = .next u ∧ OnlyVport s u p ∧ u.dev.regs = s.dev.regs ∧ (v.st ≠ .frozen → u = s) ∧
      (v.st = .frozen → vportReqs s.dev p = [] → (∀ kq ∈ vportQueues s.dev p, (queueOf s.dev kq.1 kq.2).jobs = []) → s.dev.bs.cmds = [] →
        allCopies s.dev = [] → vportOf u.dev p = { v with drained := true }))

/-- R392, R396, R397, R413: MIG_SESSION writes its four registers and starts its operation, or is answered STATE while one runs; OFFER opens a
destination session of value zero objects and writes its 280 bytes; ACCEPT opens a source session with the offer's value, or ends with 4
where the offer does not verify; CLOSE erases the session; RESTORE without a session, or of a source session, ends with 3, and one whose
checks all pass makes the vport FROZEN, and ends when every index has been read and every entry tried. Clauses rest on the model's own
choices or readings: log entries 156, 157, 158, 159, 166, 186. -/
def Obligations.MigrationSessionsFollowR392 : Prop :=
  ∀ s : State, Live s →
    (∀ r, s.dev.ct.busy = some r → r.opcode = 0x10A → r.body.length = 32 →
      let w : Word := BitVec.ofNat 32 (beAt r.body 24 8)
      ∃ u, exec .migSession s = .next u ∧
        (bit (cur s.dev .seMigCmd 0 0) 31 = true → u = { s with dev := reply s.dev r 4 [] }) ∧
        (bit (cur s.dev .seMigCmd 0 0) 31 = false → 1 ≤ fld w 0 3 → fld w 0 3 ≤ 4 → s.dev.ct.trngFail = false →
          OtherWords s u [addr .seMigAddr 0 0, addr .seMigAddr 0 0 + 4, addr .seMigAddr 1 0, addr .seMigAddr 1 0 + 4, addr .seMigArg 0 0,
            addr .seMigArg 0 0 + 4, addr .seMigCmd 0 0] ∧
          (cur64 u.dev .seMigAddr 0 0).toNat = beAt r.body 0 8 ∧ (cur64 u.dev .seMigAddr 1 0).toNat = beAt r.body 8 8 ∧
          (cur64 u.dev .seMigArg 0 0).toNat = beAt r.body 16 8 ∧ bit (cur u.dev .seMigCmd 0 0) 31 = true ∧
          fld (cur u.dev .seMigCmd 0 0) 0 3 = fld w 0 3 ∧ fld (cur u.dev .seMigCmd 0 0) 4 4 = fld w 4 4 ∧ u.dev.ct.busy = some r)) ∧
    (∃ u, exec .migOffer s = .next u ∧ (MigBusy s 1 →
      let a := migAddr s.dev 0
      let bad := migDenied s.dev a 280 = true ∨ migDenied s.dev (migAddr s.dev 1) 136 = true
      (bad → MigOver u 1 ∧ u.dev.hbm = s.dev.hbm ∧ u.dev.ct.sessions = s.dev.ct.sessions) ∧
      (¬bad → MigOver u 0 ∧ HbmOutside s u a 280 ∧ (∀ k, k ≠ migSlot s → sessOf u.dev k = sessOf s.dev k) ∧
        ∃ x, sessOf u.dev (migSlot s) = some x ∧ x.source = false ∧ x.peer = memRdN s.dev.hbm (migAddr s.dev 1) 136 ∧ x.seq = 0 ∧
          x.peerPub = none))) ∧
    (∃ u, exec .migAccept s = .next u ∧ (MigBusy s 2 →
      let offer := memRdN s.dev.hbm (migAddr s.dev 0) 280
      let peer := memRdN s.dev.hbm (migAddr s.dev 1) 136
      let bad := migDenied s.dev (migAddr s.dev 0) 280 = true ∨ migDenied s.dev (migAddr s.dev 1) 136 = true
      let good := sigOk peer (sha512 (offer.take 144)) (offer.drop 144) = true ∧ ecPoint ((offer.drop 8).take 136) ≠ none
      u.dev.hbm = s.dev.hbm ∧ (bad → MigOver u 1 ∧ u.dev.ct.sessions = s.dev.ct.sessions) ∧
      (¬bad → ¬good → MigOver u 4 ∧ u.dev.ct.sessions = s.dev.ct.sessions) ∧
      (¬bad → good → MigOver u 0 ∧ (∀ k, k ≠ migSlot s → sessOf u.dev k = sessOf s.dev k) ∧
        ∃ x, sessOf u.dev (migSlot s) = some x ∧ x.source = true ∧ x.value = leNat (offer.take 8) ∧ x.peer = peer ∧
          x.peerPub = some ((offer.drop 8).take 136) ∧ x.seq = 1))) ∧
    (∃ u, exec .migClose s = .next u ∧ (MigBusy s 4 → MigOver u 0 ∧ sessOf u.dev (migSlot s) = none ∧ u.dev.hbm = s.dev.hbm ∧
      ∀ k, k ≠ migSlot s → sessOf u.dev k = sessOf s.dev k)) ∧
    (∃ u, exec .migRestore s = .next u ∧ (MigBusy s 3 →
      let a := migAddr s.dev 0
      let rd (o k : Nat) : List Byte := memRdN s.dev.hbm (a + o) k
      let num (o k : Nat) : Nat := leNat (rd o k)
      let blen := num 0x18 4 + 32 * num 0x1C 4
      let w := cur s.dev .seMigCmd 0 0
      let arg := cur64 s.dev .seMigArg 0 0
      let p := 256 * fld w 16 3 + fld w 19 8
      u.dev.hbm = s.dev.hbm ∧
      ((∀ x, sessOf s.dev (migSlot s) = some x → x.source = true) → MigOver u 3 ∧ u.dev.hp = s.dev.hp) ∧
      (∀ x key body, sessOf s.dev (migSlot s) = some x → x.source = false → num 8 8 = x.value → migDenied s.dev a (0xC0 + 136) = false →
        8224 ≤ num 0x18 4 → num 0x18 4 ≤ 65536 → num 0x1C 4 ≤ 16384 → migDenied s.dev a (0xC0 + blen + 136) = false →
        sigOk x.peer (sha512 (rd 0 (0xC0 + blen))) (rd (0xC0 + blen) 136) = true → x.seq < num 0x10 8 →
        (x.peerPub = none ∨ x.peerPub = some (rd 0x20 136)) → sessKey x (rd 0x20 136) = some key →
        gcmOpen key (migIv (num 0x10 8)) (rd 0 0xA8) (rd 0xC0 blen) (rd 0xA8 16) = some body →
        (vportOf s.dev p).st = .off → (linkOf s.dev (p / 256)).st = .active →
        let sq := (fld arg 8 15, leNat (body.take 4) % 128)
        let rq := (fld arg 23 15, leNat (body.take 4) / 2 ^ 8 % 128)
        let cq := (fld arg 38 14, leNat (body.take 4) / 2 ^ 16 % 128)
        countsFit (decide (num 6 2 % 2 = 1)) sq rq cq = true → rangeFree s.dev p 0 sq.1 sq.2 = true → rangeFree s.dev p 1 rq.1 rq.2 = true →
        rangeFree s.dev p 2 cq.1 cq.2 = true →
        (vportOf u.dev p).st = .frozen ∧ (vportOf u.dev p).restored = true ∧
          sessOf u.dev (migSlot s) = some { x with peerPub := some (rd 0x20 136), seq := num 0x10 8 } ∧
          (u.dev.ct.restore.map (·.page)) = some p))) ∧
    (∃ u, exec .restoreDone s = .next u ∧ (∀ r, s.dev.ct.restore = some r → r.ents = [] → readsIndex s.dev r.page = false →
      MigOver u 0 ∧ u.dev.ct.restore = none ∧ cur u.dev .seMigResult 0 0 = BitVec.ofNat 32 (r.placed + r.failed * 2 ^ 16)))

/-! ### Cipher clusters and the block service (chapters 12 and 13) -/

/-- R346, R349 to R355: a cluster takes a protected frame that fits its hold buffer, drops it, lets it wait for a key, or holds its plaintext; a
verified frame goes to the packet buffer without its protection, or is counted and dropped; the oldest copy at a cluster's input leaves
protected, is dropped with its event, or waits; a lease that is written is the association's; a served fill brings the key in, or ends
without one; a wait for a key that has run out drops its frame. Clauses rest on the model's own choices or readings: log entries 125, 135,
136, 137. -/
def Obligations.CipherClustersDecryptAndProtect : Prop :=
  ∀ (s : State) (k : Nat) (sa : BitVec 20), Live s →
    (∀ x, frameOf s.dev k = some x → mget s.dev.ci.resetTill (x.input / 4) none = none → ∃ u, exec (.ingressDecrypt k) s = .next u ∧
      (x.st ≠ .cipher → u = s) ∧
      (x.st = .cipher → holdOf s.dev k = none → 8192 < holdUse s.dev (x.input / 4) + rxmaxOf s.dev x.input →
        frameOf u.dev k = none ∧ cur u.dev .ciDropCnt (x.input / 4) 2 = bumpSat (cur s.dev .ciDropCnt (x.input / 4) 2) 1) ∧
      (x.st = .cipher → holdOf s.dev k = none → holdUse s.dev (x.input / 4) + rxmaxOf s.dev x.input ≤ 8192 →
        match inPlan s.dev x.input (noFcs x.bytes) with
        | .drop n => frameOf u.dev k = none ∧ holdOf u.dev k = none ∧
            cur u.dev .ciDropCnt (x.input / 4) n = bumpSat (cur s.dev .ciDropCnt (x.input / 4) n) 1
        | .wait i => holdOf u.dev k = some ⟨cellsOf x.bytes.length, some s.dev.tick, false⟩ ∧ ∃ b, (i, b) ∈ u.dev.ci.fills
        | .go _ _ _ => holdOf u.dev k = some ⟨cellsOf x.bytes.length, none, true⟩ ∧ frameOf u.dev k = some x)) ∧
    (∀ x h, frameOf s.dev k = some x → holdOf s.dev k = some h →
      let kept (bs : List Byte) (y : Frame) : Frame := rxCut s.dev { y with
        bad := x.bad || !fcsGood x.bytes, bytes := bs, st := .receiving, whole := true, got := cellsOf bs.length }
      ∃ u, exec (.ingressTagVerify k) s = .next u ∧
      (h.ready = false → u = s) ∧
      (h.ready = true → match inPlan s.dev x.input (noFcs x.bytes) with
        | .drop _ => frameOf u.dev k = none ∧ holdOf u.dev k = none
        | .wait i => holdOf u.dev k = some { h with since := some s.dev.tick, ready := false } ∧ ∃ b, (i, b) ∈ u.dev.ci.fills
        | .go none none _ => holdOf u.dev k = none ∧
            (canTake s.dev x.input = true →
              frameOf u.dev k = some (kept x.bytes x)) ∧
            (canTake s.dev x.input = false → x.input < 30 → frameOf u.dev k = none ∧
              cur u.dev .swInRxdrop x.input 0 = bumpSat (cur s.dev .swInRxdrop x.input 0) 1)
        | .go (some (i, n)) none _ => holdOf u.dev k = none ∧ match (inMacsec s.dev x.input i n (noFcs x.bytes)).2 with
            | .inl _ => frameOf u.dev k = none
            | .inr bs => canTake s.dev x.input = true → frameOf u.dev k = some (kept (bs ++ fcsOf bs) { x with macsec := true })
        | .go none (some i) _ => holdOf u.dev k = none ∧ match (inEsp s.dev i (noFcs x.bytes)).2 with
            | .inl _ => frameOf u.dev k = none
            | .inr p => canTake s.dev x.input = true → frameOf u.dev k = some (kept (p.1 ++ fcsOf p.1) { x with macsec := false, esp := some p.2 })
        | .go (some _) (some _) _ => holdOf u.dev k = none)) ∧
    (∀ c, copyOf s.dev k = some c → ∃ u, exec (.egressProtect k) s = .next u ∧ OtherCopies s u k ∧
      ((eqOf s.dev (outCluster c.dest)).head? ≠ some k ∨ s.dev.tick < c.outAt ∨ partHost s.dev c = true → u = s) ∧
      ((eqOf s.dev (outCluster c.dest)).head? = some k → mget s.dev.ci.resetTill (outCluster c.dest) none = none → c.outAt ≤ s.dev.tick →
        partHost s.dev c = false → c.ptp = none → match (protectBytes s.dev c (c.out.getD [])).2 with
          | .inl none => copyOf u.dev k = some c ∧ eqOf u.dev (outCluster c.dest) = eqOf s.dev (outCluster c.dest)
          | .inl (some _) => copyOf u.dev k = none ∧ eqOf u.dev (outCluster c.dest) = (eqOf s.dev (outCluster c.dest)).drop 1
          | .inr bs => copyOf u.dev k = some { c with out := some bs, full := bs.length, prot := false } ∧
              eqOf u.dev (outCluster c.dest) = (eqOf s.dev (outCluster c.dest)).drop 1)) ∧
    (∃ u, exec (.leaseWriteDone sa) s = .next u ∧ ((keyOf s.dev sa.toNat).bind (·.leasing) = none → u = s) ∧
      ∀ e l, keyOf s.dev sa.toNat = some e → e.leasing = some l → saF u.dev sa.toNat 0x38 8 = l % 2 ^ 64 ∧
        ∃ e', keyOf u.dev sa.toNat = some e' ∧ e'.leased = some l ∧ e'.key = e.key ∧ e'.count = e.count) ∧
    (∃ u, exec (.keyFillDone sa) s = .next u ∧ ((sa.toNat, true) ∉ s.dev.ci.fills → u = s) ∧
      ((sa.toNat, true) ∈ s.dev.ci.fills → keyOf s.dev sa.toNat = none → saValid s.dev sa.toNat = true →
        match unwrapKey s.dev (Config.deviceKey s.otp.devSeed) sa.toNat with
        | none => keyOf u.dev sa.toNat = none ∧ (sa.toNat, 3) ∈ u.dev.ci.stPend ∧ 14 ∈ u.dev.ft.raising ∧ ∀ e ∈ u.dev.ci.fills, e.1 ≠ sa.toNat
        | some key => ((domKeys s.dev (saDomain s.dev sa.toNat)).length < domShare s.dev (saDomain s.dev sa.toNat) ∧ cacheFill s.dev < 16384) ∨
            (∃ o, oldestKey s.dev (saDomain s.dev sa.toNat) = some o ∧ o ≠ sa.toNat) →
            (∀ e ∈ u.dev.ci.fills, e.1 ≠ sa.toNat) ∧ ∃ e, keyOf u.dev sa.toNat = some e ∧ e.key = key.take (keyLen s.dev sa.toNat) ∧
              e.count = saF s.dev sa.toNat 0x20 8 ∧ e.leased = none)) ∧
    (∃ u, exec (.keyMissTimeout false k) s = .next u ∧
      (∀ h x, holdOf s.dev k = some h → frameOf s.dev k = some x → fillLate s.dev h.since = true →
        frameOf u.dev k = none ∧ holdOf u.dev k = none ∧
          cur u.dev .ciDropCnt (x.input / 4) 3 = bumpSat (cur s.dev .ciDropCnt (x.input / 4) 3) 1) ∧
      ((∀ h, holdOf s.dev k = some h → fillLate s.dev h.since = false) → u = s)) ∧
    (∃ u, exec (.keyMissTimeout true k) s = .next u ∧ (fillLate s.dev (mget s.dev.ci.waits k none) = false → u = s) ∧
      (fillLate s.dev (mget s.dev.ci.waits k none) = true → copyOf u.dev k = none ∧ OtherCopies s u k ∧ mget u.dev.ci.waits k none = none))

/-- R359 to R362, R365, R366, R371, R375 to R378, R439 and Tables 13-2 and 13-3: an entry in a context is dispatched by its opcode or ends with
its status; each command begins its own phase; a command that is over leaves its context and its locks; a whole segment is taken from its
connection's queue; a retransmission doubles the timeout and cuts the window, and one too many, like a shard command without a response,
fails the connection; a posted admin PDU is taken from the ring. A register of the block service that is not AWAKE is not reached. Clauses
rest on the model's own choices or readings: log entries 138, 140, 142. -/
def Obligations.BlockServiceCommandsRun : Prop :=
  ∀ (s : State) (x : Fin 32768) (cn : BitVec 16) (v : Word), Live s →
    (∀ c, cmdOf s.dev x = some c → ∃ u, exec (.nvmeCmdFetch x) s = .next u ∧ (c.ph ≠ .fetched → u = s) ∧
      (c.ph = .fetched → ∃ c', cmdOf u.dev x = some c' ∧
        (sqeOpc c ∉ [0, 1, 2, 8, 9] → c'.ph = .ended ∧ c'.status = some (c.status.getD (0x01, true))) ∧
        (sqeOpc c ∈ [0, 1, 2, 8, 9] → sqeFieldsOk c = false → c'.ph = .ended ∧ c'.status = some (c.status.getD (0x02, true))) ∧
        (sqeOpc c ∈ [0, 1, 2, 8, 9] → sqeFieldsOk c = true → findVd s.dev c.page (entF c.sqe 4 4) = none →
          c'.ph = .ended ∧ c'.status = some (c.status.getD (0x0B, true))) ∧
        (sqeOpc c = 0 → sqeFieldsOk c = true → ∀ n, findVd s.dev c.page (entF c.sqe 4 4) = some n →
          c'.ph = .dispatched ∧ c'.vd = n ∧ c'.vent = vdOf s.dev n ∧ c'.pages = []))) ∧
    (∀ c, cmdOf s.dev x = some c →
      (∃ u, exec (.nvmeFlush x) s = .next u ∧ (c.ph ≠ .dispatched ∨ sqeOpc c ≠ 0 → u = s) ∧
        (c.ph = .dispatched → sqeOpc c = 0 → cmdOf u.dev x = some { c with ph := .simple, parts := everyShard s.dev .flush c })) ∧
      (∃ u, exec (.nvmeRead x) s = .next u ∧ (c.ph ≠ .dispatched ∨ sqeOpc c ≠ 2 → u = s) ∧
        (c.ph = .dispatched → sqeOpc c = 2 → ∀ pg n, prpPages c = some (pg, n) →
          (n = 0 → cmdOf u.dev x = some { c with ph := .read }) ∧ (n ≠ 0 → (cmdOf u.dev x).map (·.ph) = some .list))) ∧
      (∃ u, exec (.nvmeWrite x) s = .next u ∧ (c.ph ≠ .dispatched ∨ sqeOpc c ≠ 1 → u = s) ∧
        (c.ph = .dispatched → sqeOpc c = 1 → ∀ pg n, prpPages c = some (pg, n) →
          (cmdOf u.dev x).map (·.ph) = some (if n = 0 then .stage else .list))) ∧
      (∃ u, exec (.nvmeWriteZeroes x) s = .next u ∧ (c.ph ≠ .dispatched ∨ sqeOpc c ≠ 8 → u = s) ∧
        (c.ph = .dispatched → sqeOpc c = 8 → (cmdOf u.dev x).map (·.ph) = some (if vdN c.vent = 1 ∧ vdXts c.vent = false then .simple else .crypt))) ∧
      (∃ u, exec (.nvmeDatasetManagement x) s = .next u ∧ (c.ph ≠ .dispatched ∨ sqeOpc c ≠ 9 → u = s) ∧
        (c.ph = .dispatched → sqeOpc c = 9 → ∀ pg, prpPages c = some (pg, 0) →
          (dsmActs c = true → (cmdOf u.dev x).map (·.ph) = some .stage) ∧
          (dsmActs c = false → (cmdOf u.dev x).map (·.ph) = some .ended))) ∧
      (∃ u, exec (.cqeWrite x) s = .next u ∧ (∀ y, y ≠ x.val → cmdOf u.dev y = cmdOf s.dev y) ∧
        if c.ph = .ended ∧ c.discard = false ∧ c.hostOut = 0 ∧ c.parts.all partOver = true then
          cmdOf u.dev x = none ∧ ∀ e ∈ u.dev.bs.locks, ∀ w ∈ e.2.2, w.1 ≠ x.val
        else u = s)) ∧
    (∃ u, exec (.tcpSegmentReceive cn) s = .next u ∧
      ((s.dev.bs.inq.find? fun e => e.1 = cn.toNat) = none → u = s) ∧
      ∀ e f, (s.dev.bs.inq.find? fun e => e.1 = cn.toNat) = some e → frameOf s.dev e.2 = some f →
        (f.whole = false → u = s) ∧ (f.whole = true → u.dev.bs.inq = s.dev.bs.inq.erase e ∧
          (f.bad = true ∨ (connOf s.dev cn.toNat).st = .closed ∨ (connOf s.dev cn.toNat).st = .failed → u.dev.bs.conns = s.dev.bs.conns))) ∧
    (∃ u, exec (.tcpRetransmitTimeout cn) s = .next u ∧
      (rtoDue s.dev (connOf s.dev cn.toNat) = false → u = s) ∧
      ∀ g rest, rtoDue s.dev (connOf s.dev cn.toNat) = true → (connOf s.dev cn.toNat).segs = g :: rest →
        (orIf0 (cfgF s.dev .bsTcpCfg 0 0 28 4) 1 ≤ g.tries → (connOf u.dev cn.toNat).st = .failed ∧ (connOf u.dev cn.toNat).cause = 1 ∧
          17 ∈ u.dev.ft.raising) ∧
        (g.tries < orIf0 (cfgF s.dev .bsTcpCfg 0 0 28 4) 1 →
          (connOf u.dev cn.toNat).rto = min (rtoMax s.dev) (2 * (connOf s.dev cn.toNat).rto) ∧
          (connOf u.dev cn.toNat).cwnd = effMss (connOf s.dev cn.toNat) ∧ (connOf u.dev cn.toNat).timer = some s.dev.tick ∧
          (connOf u.dev cn.toNat).st = (connOf s.dev cn.toNat).st)) ∧
    (∃ u, exec (.ioTimeout cn) s = .next u ∧
      ((connOf s.dev cn.toNat).cmds = [] → u = s) ∧
      ∀ e ∈ (connOf s.dev cn.toNat).cmds, ∀ y i c p, e.2 = some (y, i) → cmdOf s.dev y = some c → c.parts[i]? = some p →
        p.sentAt + Machine.ioTimeout s.dev ≤ s.dev.tick →
        (connOf u.dev cn.toNat).st = .failed ∧ (connOf u.dev cn.toNat).cause = 8 ∧ 17 ∈ u.dev.ft.raising) ∧
    ∃ u, exec (.adminTxPost v) s = .next u ∧
      (awake s.dev 41 = false → RegsOnly s u ∧ OtherWords s u [addr .pwEvtCnt 4 0] ∧
        cur u.dev .pwEvtCnt 4 0 = bumpSat (cur s.dev .pwEvtCnt 4 0) 1) ∧
      (awake s.dev 41 = true → ringEn (cfg s.dev .bsAdmTxCfg 0 0) = false → RegsOnly s u ∧ OtherWords s u [addr .bsAdmTxProd 0 0] ∧
        cur u.dev .bsAdmTxProd 0 0 = v) ∧
      (awake s.dev 41 = true → ringEn (cfg s.dev .bsAdmTxCfg 0 0) = true →
        v = BitVec.ofNat 32 ((cur s.dev .bsAdmTxCons 0 0).toNat + 1) → cur u.dev .bsAdmTxCons 0 0 = v)

/-! ### The control path and the security processor (chapter 15) -/

namespace Sys2Proof.Claims
open Sys2Proof Sys2Proof.Machine

/-- The command in progress and its opcode. -/
abbrev Runs (s : State) (r : CmdRun) (op : Nat) : Prop := s.dev.ct.busy = some r ∧ r.opcode = op

/-- The state after nothing but a reply to the command in progress. -/
abbrev replied (s : State) (r : CmdRun) (status : Nat) (body : List Byte) : State := { s with dev := reply s.dev r status body }

/-- The command is over, and its reply has that status and body. -/
def Answers (s u : State) (r : CmdRun) (status : Nat) (body : List Byte) : Prop :=
  u.dev.ct.busy = none ∧ u.dev.out = (reply s.dev r status body).out

/-- The rows that perform a command, with the opcode and the length of the body where Table 15-3 fixes it. -/
def opRows : List (Instr × Nat × Option Nat) :=
  [(.status, 1, some 0), (.regRead, 2, some 8), (.regWrite, 3, none), (.attest, 0x10, some 64), (.identityGet, 0x11, some 0),
   (.imgStage, 0x100, none), (.imgActivate, 0x101, some 8), (.keyInstall, 0x102, some 152), (.ctlkeySet, 0x103, some 88),
   (.vportCreate, 0x104, some 24), (.vportDestroy, 0x105, some 8), (.isolation, 0x106, some 8), (.debugEnable, 0x107, some 8),
   (.gangCfg, 0x108, none), (.rollbackAdvance, 0x109, some 8), (.migSession, 0x10A, some 32), (.provision, 0x1F0, some 0x1A0)]

/-- A frame of the command queue as the tests of Table 15-2 see it: its payload, and the command in it. -/
abbrev cmdPay (bs : List Byte) : List Byte := (noFcs bs).drop 14
abbrev cmdBodyLen (bs : List Byte) : Nat := beAt (cmdPay bs) 0x0A 2
abbrev cmdOp (bs : List Byte) : Nat := beAt (cmdPay bs) 2 2
abbrev cmdCounter (bs : List Byte) : Nat := beAt (cmdPay bs) 16 8
abbrev cmdKey (bs : List Byte) : Nat := beAt (cmdPay bs) 8 1

/-- Whether R405 has a command checked: a critical opcode, or while AUTH_ALL is 1 any but STATUS, ATTEST, IDENTITY_GET and PROVISION. -/
abbrev mustCheck (d : Dev) (op : Nat) : Prop :=
  (0x100 ≤ op ∧ op ≤ 0x10A) ∨ (op ∉ [1, 0x10, 0x11, 0x1F0] ∧ bit (cfg64 d .ctCmdCfg 0 0) 32 = true)

/-- A command frame that is taken and refused without a reply: counted at k, measured nowhere. -/
def RefusedAt (s u : State) (k : Nat) : Prop :=
  u.dev.ct = { s.dev.ct with cmdq := s.dev.ct.cmdq.drop 1 } ∧ u.dev.out = s.dev.out ∧
  cur u.dev .ctCmdRefuseCnt k 0 = bumpSat (cur s.dev .ctCmdRefuseCnt k 0) 1 ∧ OtherWords s u [addr .ctCmdRefuseCnt k 0]

end Sys2Proof.Claims

open Sys2Proof Sys2Proof.Machine Sys2Proof.Claims

/-- R400, R401, R404 to R406, R424: a command frame joins the queue of 16 or is counted at k = 6; CMD_TAKE takes the oldest frame once the
command before it has replied and applies the tests of Table 15-2 in order; past the ruled row the counter of the key advances, and a
critical command extends M_CONFIG. A reply carries the request's fields with REPLY 1 and the status. Clauses rest on the model's own choices
or readings: log entries 168, 170, 171. -/
def Obligations.CommandFramesFollowTable152 : Prop :=
  (∀ (s : State) (p : Fin 25) (bs : List Byte), Live s → ∃ u, exec (.cmdFrameReceive p bs) s = .next u ∧
    (isCommand s.dev p bs = false → u = s) ∧
    (isCommand s.dev p bs = true → s.dev.ct.cmdq.length < 16 →
      u = { s with dev := { s.dev with ct := { s.dev.ct with cmdq := s.dev.ct.cmdq ++ [(p.val, bs)] } } }) ∧
    (isCommand s.dev p bs = true → 16 ≤ s.dev.ct.cmdq.length → RegsOnly s u ∧ OtherWords s u [addr .ctCmdRefuseCnt 6 0] ∧
      cur u.dev .ctCmdRefuseCnt 6 0 = bumpSat (cur s.dev .ctCmdRefuseCnt 6 0) 1)) ∧
  (∀ s : State, (s.dev.ct.busy ≠ none ∨ s.dev.ct.cmdq = [] → exec .cmdTake s = .next s)) ∧
  (∀ (s : State) (port : Nat) (bs : List Byte) (rest : List (Nat × List Byte)), Live s → s.dev.ct.busy = none →
    s.dev.ct.cmdq = (port, bs) :: rest →
    let k := cmdKey bs
    let op := cmdOp bs
    let c := cmdCounter bs
    let body := sliceD 0 (cmdPay bs) 24 (cmdBodyLen bs)
    ∃ u, exec .cmdTake s = .next u ∧ u.dev.ct.cmdq = rest ∧ u.otp = s.otp ∧ u.dev.hbm = s.dev.hbm ∧
      (cmdFormed bs (cmdPay bs) = false → RefusedAt s u 0 ∧ u.dev.ft.raising = s.dev.ft.raising) ∧
      (cmdFormed bs (cmdPay bs) = true → mustCheck s.dev op → ctlKey s.dev k = none →
        RefusedAt s u 1 ∧ u.dev.ft.raising = s.dev.ft.raising) ∧
      (cmdFormed bs (cmdPay bs) = true → mustCheck s.dev op → ctlKey s.dev k ≠ none →
        (checkOf s.dev k ((cmdPay bs).take (24 + cmdBodyLen bs)) ≠ sliceD 0 (cmdPay bs) (24 + cmdBodyLen bs) 32 →
          RefusedAt s u 2 ∧ 19 ∈ u.dev.ft.raising) ∧
        (checkOf s.dev k ((cmdPay bs).take (24 + cmdBodyLen bs)) = sliceD 0 (cmdPay bs) (24 + cmdBodyLen bs) 32 →
          c / 2 ^ 32 ≠ s.dev.ct.bootId ∨ c % 2 ^ 32 ≤ mget s.dev.ct.last k 0 → RefusedAt s u 3 ∧ 19 ∈ u.dev.ft.raising)) ∧
      (cmdFormed bs (cmdPay bs) = true →
        (mustCheck s.dev op → ctlKey s.dev k ≠ none ∧
          checkOf s.dev k ((cmdPay bs).take (24 + cmdBodyLen bs)) = sliceD 0 (cmdPay bs) (24 + cmdBodyLen bs) 32 ∧
          c / 2 ^ 32 = s.dev.ct.bootId ∧ mget s.dev.ct.last k 0 < c % 2 ^ 32) →
        (∀ j, mget u.dev.ct.last j 0 = if mustCheck s.dev op ∧ j = k then c % 2 ^ 32 else mget s.dev.ct.last j 0) ∧
        u.dev.ft.raising = s.dev.ft.raising ∧
        (if 0x100 ≤ op ∧ op ≤ 0x10A then
          u.dev.ct.mconfig = sha512 (s.dev.ct.mconfig ++ beBytes 2 op ++ beBytes 8 c ++ sha512 body) ∧ u.dev.ct.crit = s.dev.ct.crit + 1
        else u.dev.ct.mconfig = s.dev.ct.mconfig ∧ u.dev.ct.crit = s.dev.ct.crit) ∧
        (op ∉ opcodes → u.dev.ct.busy = none ∧ cur u.dev .ctCmdRefuseCnt 5 0 = bumpSat (cur s.dev .ctCmdRefuseCnt 5 0) 1 ∧
          ∃ f, u.dev.out = .frame port f :: s.dev.out) ∧
        (op ∈ opcodes → 0x100 ≤ op → op ≤ 0x10A → (∀ x, ctlKey s.dev k = some x → x.mask.testBit (op - 0x100) = false) ∧ k ≠ 0 ∨
            (port ≠ 24 ∧ bit (cfg64 s.dev .ctCmdCfg 0 0) 33 = false) → u.dev.ct.busy = none ∧
          cur u.dev .ctCmdRefuseCnt 4 0 = bumpSat (cur s.dev .ctCmdRefuseCnt 4 0) 1 ∧ ∃ f, u.dev.out = .frame port f :: s.dev.out) ∧
        (op ∈ opcodes → (¬(0x100 ≤ op ∧ op ≤ 0x10A) ∨ (k = 0 ∧ (port = 24 ∨ bit (cfg64 s.dev .ctCmdCfg 0 0) 33 = true))) →
          s.dev.ct.phase = .full → s.otp.provisioned = true → op ≠ 0x1F0 → u.dev.out = s.dev.out ∧ u.dev.regs = s.dev.regs ∧
          ∃ r, Runs u r op ∧ r.port = port ∧ r.body = body ∧ r.keyId = k ∧ r.counter = c ∧ (r.checked = true ↔ mustCheck s.dev op)))) ∧
  (∀ (d : Dev) (r : CmdRun) (st : Nat) (body : List Byte), r.hdr.length = 24 →
    let b := body ++ List.replicate ((8 - body.length % 8) % 8) 0
    let answer := r.hdr.take 1 ++ [1] ++ sliceD 0 r.hdr 2 7 ++ beBytes 1 st ++ beBytes 2 b.length ++ r.hdr.drop 12 ++ b
    let bs := r.src ++ beBytes 6 (cfg64 d .ctCmdMac 0 0).toNat ++ beBytes 2 (fld (cfg64 d .ctCmdCfg 0 0) 16 16) ++ answer ++
      checkOf d r.keyId answer
    reply d r st body = { d with ct := { d.ct with busy := none }, out := .frame r.port (bs ++ fcsOf bs) :: d.out })

/-- R417, R424, R472, R525, R528: a failed health test stops the random bit generator and raises TRNG_FAIL once; a checked write of
CT_CMD_CFG takes both words with the high one, and a checked write of CT_LOCK sets its lock bits, each extending M_CONFIG; an event notice is
sent on CP when EN is 1, an unmasked class has become pending and GAP ticks have passed, and not otherwise. -/
def Obligations.NoticesLocksAndEntropy : Prop :=
  ∀ (s : State) (n : BitVec 64) (v : Word), Live s →
    (∃ u, exec .trngHealthFail s = .next u ∧ (s.dev.ct.trngFail = true → u = s) ∧
      (s.dev.ct.trngFail = false → u.dev.ct = { s.dev.ct with trngFail := true } ∧ 20 ∈ u.dev.ft.raising ∧ u.dev.regs = s.dev.regs)) ∧
    (∃ u, exec (.ctCmdCfgWrite n false v) s = .next u ∧ RegsOnly s u ∧ u.dev.regs.cur = s.dev.regs.cur ∧ u.dev.regs.act = s.dev.regs.act ∧
      ∀ hi, ∃ w, exec (.ctCmdCfgWrite n true hi) u = .next w ∧
        cur64 w.dev .ctCmdCfg 0 0 = (cur64 s.dev .ctCmdCfg 0 0 &&& ~~~0xFFFF0003FFFF0000) ||| ((hi ++ v) &&& 0xFFFF0003FFFF0000) ∧
        cfg64 w.dev .ctCmdCfg 0 0 = cfg64 s.dev .ctCmdCfg 0 0 ∧ OtherWords s w [addr .ctCmdCfg 0 0, addr .ctCmdCfg 0 0 + 4] ∧
        w.dev.ct.mconfig = sha512 (s.dev.ct.mconfig ++ beBytes 2 3 ++ beBytes 8 n.toNat ++
          sha512 (beBytes 4 (addr .ctCmdCfg 0 0 + 4) ++ beBytes 4 hi.toNat))) ∧
    (∃ u, exec (.ctLockWrite n v) s = .next u ∧ OtherWords s u [addr .ctLock 0 0] ∧
      cur u.dev .ctLock 0 0 = (cur s.dev .ctLock 0 0 &&& ~~~(v &&& 0x80000000)) ||| (v &&& 7) ∧
      u.dev.ct.mconfig = sha512 (s.dev.ct.mconfig ++ beBytes 2 3 ++ beBytes 8 n.toNat ++
        sha512 (beBytes 4 (addr .ctLock 0 0) ++ beBytes 4 v.toNat))) ∧
    (∃ u, exec .eventNotice s = .next u ∧
      let w := cfg s.dev .ftNoticeCfg 0 0
      let seen : BitVec 26 := BitVec.ofNat 26 s.dev.ft.fresh &&& ~~~(BitVec.ofNat 26 (cfg s.dev .ftNoticeMask 0 0).toNat)
      let due := bit w 31 = true ∧ seen ≠ 0 ∧ ∀ t, s.dev.ft.lastNotice = some t → t + max 1 (fld w 0 16) ≤ s.dev.tick
      (¬due → u = s) ∧
      (due →
        let m := (s.dev.ft.noticeSeq + 1) % 2 ^ 32
        let pend : BitVec 26 :=
          BitVec.ofNat 26 (cur s.dev .ftEvtPend 0 0).toNat &&& ~~~(BitVec.ofNat 26 (cfg s.dev .ftNoticeMask 0 0).toNat)
        let notice := beBytes 1 1 ++ beBytes 1 1 ++ beBytes 2 0x30 ++ beBytes 4 m ++ beBytes 1 (fld w 24 2) ++ beBytes 1 0 ++ beBytes 2 16 ++
          beBytes 4 0 ++ beBytes 4 s.dev.ct.bootId ++ beBytes 4 m ++ (beBytes 4 pend.toNat ++ beBytes 4 0 ++ beBytes 8 s.dev.tick)
        let bs := beBytes 6 (cfg64 s.dev .ftNoticeMac 0 0).toNat ++ beBytes 6 (cfg64 s.dev .ctCmdMac 0 0).toNat ++
          beBytes 2 (fld (cfg64 s.dev .ctCmdCfg 0 0) 16 16) ++ notice ++ checkOf s.dev (fld w 24 2) notice
        u = { s with dev := { s.dev with
          ft := { s.dev.ft with fresh := 0, lastNotice := some s.dev.tick, noticeSeq := m }, out := .frame 24 (bs ++ fcsOf bs) :: s.dev.out } }))

/-- R407, R408, R411 to R414, R418, R425, R463, R384: what each command in progress does and how it is answered. A body of the wrong length is
answered RANGE (0x05), and a row whose command is not in progress changes nothing. Clauses rest on the model's own choices or readings: log
entries 168, 169, 172, 175, 176, 181, 182, 183, 184, 263. -/
def Obligations.CommandsActAndAnswer : Prop :=
  ∀ (s : State) (r : CmdRun), Live s →
    (∀ x ∈ opRows, (∀ q, s.dev.ct.busy = some q → q.opcode ≠ x.2.1) → exec x.1 s = .next s) ∧
    (∀ x ∈ opRows, ∀ n, x.2.2 = some n → Runs s r x.2.1 → r.body.length ≠ n → exec x.1 s = .next (replied s r 5 [])) ∧
    (Runs s r 1 → r.body = [] → exec .status s = .next (replied s r 0
      (beBytes 4 s.dev.ct.bootId ++ beBytes 16 s.dev.ct.devId ++ beBytes 4 (seStatusNow s.dev) ++ beBytes 8 0))) ∧
    (Runs s r 2 → r.body.length = 8 →
      let n := beAt r.body 4 4
      (n = 0 ∨ 256 < n → exec .regRead s = .next (replied s r 5 [])) ∧
      (1 ≤ n → n ≤ 256 → ∃ (d : Dev) (ws : List Word), readRegs n (beAt r.body 0 4) s.dev = (d, ws.flatMap fun w => beBytes 4 w.toNat) ∧
        ws.length = n ∧ exec .regRead s = .next { s with dev := reply d r 0 (ws.flatMap fun w => beBytes 4 w.toNat) })) ∧
    (∀ a d, readRegs 0 a d = (d, [])) ∧
    (∀ n a d, readRegs (n + 1) a d =
      ((readRegs n (a + 4) (readReg .ctl a d).1).1, beBytes 4 (readReg .ctl a d).2.toNat ++ (readRegs n (a + 4) (readReg .ctl a d).1).2)) ∧
    (Runs s r 3 →
      let n := r.body.length / 8
      let ps := (cutBytes 8 n r.body).map fun p => (beAt p 0 4, (BitVec.ofNat 32 (beAt p 4 4) : Word))
      (r.body.length % 8 ≠ 0 ∨ n = 0 ∨ 255 < n → exec .regWrite s = .next (replied s r 5 [])) ∧
      (r.body.length % 8 = 0 → 1 ≤ n → n ≤ 255 →
        ((∀ p ∈ ps, ¬(p.1 = addr .ctReset 0 0 ∧ bit p.2 31 = true ∧ r.checked = true)) →
          let e := ps.foldl (fun x p => (writeReg ⟨.ctl, r.checked, r.counter, r.body⟩ p.1 p.2 x.1,
            if writeDone r.checked p.1 x.1 = true then x.2 + 1 else x.2)) (s.dev, 0)
          exec .regWrite s = .next { s with dev := reply e.1 r 0 (beBytes 4 e.2 ++ beBytes 4 0) }) ∧
        (∀ v : Word, n = 1 → ps = [(addr .ctReset 0 0, v)] → bit v 31 = true → r.checked = true → ∃ u, exec .regWrite s = .next u ∧
          u.board.held = true ∧ u.board.cause = 3 ∧ u.dev.tick = 0 ∧ u.dev.out = s.dev.out ∧ u.dev.hbm = s.dev.hbm))) ∧
    (Runs s r 0x10 → r.body.length = 64 →
      (s.dev.ct.trngFail = true → exec .attest s = .next (replied s r 8 [])) ∧
      (s.dev.ct.trngFail = false → ∃ (b : List Byte) (k g : Nat),
        let sig := ecdsaSign (Config.identityKey s.otp.idSeed) k (sha512 b)
        exec .attest s = .next { s with dev := reply { s.dev with rng := g } r 0 (b ++ sig) } ∧
        sliceD 0 b 0 6 = leBytes 4 0x41545354 ++ leBytes 2 1 ∧ (b.getD 6 0).toNat = b2n s.dev.ct.debugEn + 2 * b2n s.dev.ct.debugSeen +
          4 * b2n (bit (cur s.dev .ctIsoCfg 0 0) 31) + 8 * b2n (debugRuns s.dev) + 16 * b2n s.otp.debugPerm ∧
        sliceD 0 b 8 16 = leBytes 16 s.dev.ct.devId ∧ sliceD 0 b 0x18 4 = leBytes 4 s.dev.ct.bootId ∧
        sliceD 0 b 0x1C 4 = leBytes 4 s.otp.rollback ∧ sliceD 0 b 0x20 8 = leBytes 8 s.dev.tick ∧ sliceD 0 b 0x28 64 = r.body ∧
        sliceD 0 b 0x68 4 = leBytes 4 ((s.dev.ct.running.map (·.svn)).getD 0) ∧ sliceD 0 b 0x6C 4 = leBytes 4 s.dev.ct.crit)) ∧
    (Runs s r 0x11 → r.body = [] → ∃ u, exec .identityGet s = .next u ∧
      let pub := pubOf (Config.identityKey s.otp.idSeed)
      let c := if 3928 < (certOf s).length then [] else certOf s
      Answers s u r 0 (pub ++ beBytes 8 c.length ++ c) ∧ u.otp = s.otp ∧ u.dev.regs = s.dev.regs ∧
      (certNames c pub = true → u.dev.ft = s.dev.ft ∧ u.dev.ct.certBad = s.dev.ct.certBad) ∧
      (certNames c pub = false → 21 ∈ u.dev.ft.raising ∧ u.dev.ct.certBad = true)) ∧
    (Runs s r 0x103 → r.body.length = 88 →
      let k := beAt r.body 0 4
      (r.keyId ≠ 0 → exec .ctlkeySet s = .next (replied s r 3 [])) ∧
      (r.keyId = 0 → k = 0 ∨ 3 < k → exec .ctlkeySet s = .next (replied s r 5 [])) ∧
      (r.keyId = 0 → 1 ≤ k → k ≤ 3 → ∃ u, exec .ctlkeySet s = .next u ∧
        match openSealed s.dev r (sliceD 0 r.body 8 64) (sliceD 0 r.body 72 16) with
        | none => u = replied s r 6 []
        | some x => Answers s u r 0 [] ∧ mget u.dev.ct.last k 0 = 0 ∧
            ctlKey u.dev k = (if x.all (· = 0) = true then none else some ⟨x, beAt r.body 4 4 % 65536⟩) ∧
            ∀ j, j ≠ k → ctlKey u.dev j = ctlKey s.dev j ∧ mget u.dev.ct.last j 0 = mget s.dev.ct.last j 0)) ∧
    (Runs s r 0x104 → r.body.length = 24 →
      let n (o k : Nat) : Nat := beAt r.body o k
      let p := 256 * n 0 1 + n 1 1
      let c : Word := BitVec.ofNat 32 (n 2 1 * 2 ^ 24 + n 18 2 * 2 ^ 17 + n 16 2 * 8 + n 3 1)
      let g : DWord := BitVec.ofNat 64 (n 14 2 * 2 ^ 40 + n 12 2 * 2 ^ 24 + n 10 2 * 2 ^ 16 + n 8 2)
      let fits := countsFit (decide (n 3 1 = 1)) (n 8 2, n 10 2) (n 12 2, n 14 2) (n 16 2, n 18 2) = true ∧
        rangeFree s.dev p 0 (n 8 2) (n 10 2) = true ∧ rangeFree s.dev p 1 (n 12 2) (n 14 2) = true ∧ rangeFree s.dev p 2 (n 16 2) (n 18 2) = true
      (8 ≤ n 0 1 ∨ 1 < n 3 1 → exec .vportCreate s = .next (replied s r 5 [])) ∧
      (n 0 1 < 8 → n 3 1 ≤ 1 → n 5 3 = 0 → n 20 4 = 0 → (vportOf s.dev p).cmds = [] →
        ((vportOf s.dev p).st = .off → ¬fits → exec .vportCreate s = .next (replied s r 5 [])) ∧
        ((vportOf s.dev p).st = .off → fits → ∃ u, exec .vportCreate s = .next u ∧ Answers s u r 0 [] ∧
          vportOf u.dev p = { vportOf s.dev p with cmds := [.create c g (n 4 1)] } ∧ ∀ q, q ≠ p → vportOf u.dev q = vportOf s.dev q) ∧
        ((vportOf s.dev p).st ≠ .off → (vportOf s.dev p).st ≠ .active → exec .vportCreate s = .next (replied s r 4 [])))) ∧
    (Runs s r 0x105 → r.body.length = 8 →
      let h := beAt r.body 0 4
      let v := beAt r.body 4 4
      (8 ≤ h ∨ 256 ≤ v → exec .vportDestroy s = .next (replied s r 5 [])) ∧
      (h < 8 → v < 256 → (vportOf s.dev (256 * h + v)).st = .off → exec .vportDestroy s = .next (replied s r 0 [])) ∧
      (h < 8 → v < 256 → (vportOf s.dev (256 * h + v)).st ≠ .off → ∃ u, exec .vportDestroy s = .next u ∧ Answers s u r 0 [] ∧
        vportOf u.dev (256 * h + v) = { vportOf s.dev (256 * h + v) with cmds := (vportOf s.dev (256 * h + v)).cmds ++ [.destroy] } ∧
        ∀ q, q ≠ 256 * h + v → vportOf u.dev q = vportOf s.dev q)) ∧
    (Runs s r 0x106 → r.body.length = 8 →
      let strict := decide (beAt r.body 0 8 % 2 = 1)
      exec .isolation s = .next { s with dev := { s.dev with ct := { s.dev.ct with strictDue := some strict } } }) ∧
    (∀ (d : Dev) (b : Bool), d.ct.strictDue = some b → d.ct.busy = some r → r.opcode = 0x106 →
      let e := isolationBoundary d
      e.ct.busy = none ∧ e.ct.strictDue = none ∧ (e.out = (reply e r 0 (beBytes 4 (cur e .ctIsoCfg 0 0).toNat ++ beBytes 4 0)).out.head?.toList ++ d.out) ∧
      (b = true → strictOk d = false → bit (cur e .ctIsoCfg 0 0) 30 = true ∧ bit (cur e .ctIsoCfg 0 0) 31 = bit (cur d .ctIsoCfg 0 0) 31) ∧
      (b = false ∨ strictOk d = true → bit (cur e .ctIsoCfg 0 0) 31 = b ∧ bit (cur e .ctIsoCfg 0 0) 30 = bit (cur d .ctIsoCfg 0 0) 30)) ∧
    (Runs s r 0x107 → r.body.length = 8 →
      let en := decide (beAt r.body 0 8 % 2 = 1)
      (en = true → s.otp.debugPerm = true → exec .debugEnable s = .next (replied s r 3 [])) ∧
      (en = false ∨ s.otp.debugPerm = false → ∃ u, exec .debugEnable s = .next u ∧ Answers s u r 0 [] ∧
        u.dev.ct = { s.dev.ct with busy := none, debugDue := some en, debugSeen := s.dev.ct.debugSeen || en } ∧
        u.dev.regs = s.dev.regs ∧ u.dev.rl = s.dev.rl)) ∧
    (Runs s r 0x108 →
      (r.body.length % 8 ≠ 0 ∨ r.body.length = 0 ∨ 2040 < r.body.length → exec .gangCfg s = .next (replied s r 5 [])) ∧
      (r.body.length % 8 = 0 → 1 ≤ r.body.length → r.body.length ≤ 2040 → ∃ u, exec .gangCfg s = .next u ∧
        u.dev.ct.busy = none ∧ (∃ f, u.dev.out.head? = some (.frame r.port f)) ∧
        (r.body.length = 8 → beAt r.body 0 4 = 4 → RegsOnly { s with dev := reply s.dev r 0 (beBytes 4 1 ++ beBytes 4 0) } u ∧
          cur u.dev .ggPort 0 0 = (cur s.dev .ggPort 0 0 &&& 0xFFFF0000) ||| (BitVec.ofNat 32 (beAt r.body 4 4) &&& 0xFFFF)) ∧
        (∀ id, id < 4096 → r.body.length = 8 → beAt r.body 0 4 = 0x1000 + 4 * id →
          RegsOnly { s with dev := reply s.dev r 0 (beBytes 4 1 ++ beBytes 4 0) } u ∧
          cur u.dev .ggRoute id 0 = (cur s.dev .ggRoute id 0 &&& 0x7FFFFFF0) ||| (BitVec.ofNat 32 (beAt r.body 4 4) &&& 0x8000000F)) ∧
        (r.body.length = 8 → beAt r.body 0 4 = 0 → beAt r.body 4 4 % 4096 = fld (cur s.dev .ggCfg 0 0) 0 12 →
          RegsOnly { s with dev := reply s.dev r 0 (beBytes 4 1 ++ beBytes 4 0) } u ∧
          cur u.dev .ggCfg 0 0 = (cur s.dev .ggCfg 0 0 &&& 0x7000F000) ||| (BitVec.ofNat 32 (beAt r.body 4 4) &&& 0x8FFF0FFF)) ∧
        (r.body.length = 8 → beAt r.body 0 4 = 0 → beAt r.body 4 4 % 4096 ≠ fld (cur s.dev .ggCfg 0 0) 0 12 →
          ∀ q : Fin 16, (linkOf s.dev (8 + q.val)).st ≠ .down →
            (linkOf u.dev (8 + q.val)).st = .init ∧ (linkOf u.dev (8 + q.val)).epPeer = none)))

/-- R341, R349, R410: KEY_INSTALL refuses what R341 and Table 15-4 rule out, an association that is pinned, and, for want of random bits or of
the right seal, the rest; otherwise the association leaves the key cache, its entry has COUNT, LEASE, HIGHEST and BITMAP 0 and the limits
given, and it becomes ACTIVE, or INVALID with VALID 0, at the next boundary. Clauses rest on the model's own choices or readings: log
entries 172, 173, 174. -/
def Obligations.KeyInstallWritesTheAssociation : Prop :=
  ∀ (s : State) (r : CmdRun), Live s → Runs s r 0x102 → r.body.length = 152 →
    let i := beAt r.body 0 4
    let head := sliceD 0 r.body 8 64
    let w : Word := BitVec.ofNat 32 (leAt head 0 4)
    let lim := saLimits (fld w 0 3) (bit w 5)
    let hard := if leAt head 0x30 8 = 0 then lim.2.1 else leAt head 0x30 8
    let soft := if leAt head 0x28 8 = 0 then lim.2.2 else leAt head 0x28 8
    let bad := bit w 9 = true ∧ (fld w 0 3 = 0 ∨ 4 < fld w 0 3 ∨ (fld w 0 3 = 4 ∧ bit w 4 = true) ∨ lim.1 < hard ∨ hard < soft)
    let wrong := 2 ^ 20 ≤ i ∨ beAt r.body 4 4 ≠ 0 ∨ leAt head 0x20 8 ≠ 0 ∨ leAt head 0x38 8 ≠ 0 ∨ bad
    ∃ u, exec .keyInstall s = .next u ∧ u.otp = s.otp ∧
      (wrong → u = replied s r 5 []) ∧
      (¬wrong → saPinned s.dev i = true → u = replied s r 4 []) ∧
      (¬wrong → saPinned s.dev i = false → s.dev.ct.trngFail = true → u = replied s r 8 []) ∧
      (¬wrong → saPinned s.dev i = false → s.dev.ct.trngFail = false →
        let stored (st : Nat) : Prop := Answers s u r 0 [] ∧ (i, st) ∈ u.dev.ci.stPend ∧ keyOf u.dev i = none ∧
          HbmOutside s u (0xBC0000000 + 256 * i) 256 ∧ saF u.dev i 0x20 8 = 0 ∧ saF u.dev i 0x38 8 = 0 ∧ saF u.dev i 0x40 8 = 0 ∧
          memRdN u.dev.hbm (0xBC0000000 + 256 * i) 32 = head.take 32
        (bit w 9 = false → stored 0) ∧
        (bit w 9 = true → match openSealed s.dev r (sliceD 0 r.body 0x48 64) (sliceD 0 r.body 0x88 16) with
          | none => u = replied s r 6 []
          | some k =>
            let n := if bit w 3 = true then 32 else 16
            (fld w 0 3 = 4 → k.take n = (k.drop n).take n → u = replied s r 5 []) ∧
            (fld w 0 3 ≠ 4 ∨ k.take n ≠ (k.drop n).take n → stored 1 ∧ saF u.dev i 0x28 8 = soft % 2 ^ 64 ∧ saF u.dev i 0x30 8 = hard % 2 ^ 64)))

/-! ### Images, rollback and provisioning (chapters 15 and 19) -/

open Sys2Proof Sys2Proof.Machine Sys2Proof.Claims

/-- R416, R420, R421, R423, R500: IMG_STAGE writes the staging window; IMG_ACTIVATE answers with the result of the verification, and where it
passes erases the boot record of the bank not selected for boot; the flash write that follows selects that bank with the greater GEN plus 1,
or leaves it without a record where a digest fails; ROLLBACK_ADVANCE refuses what R423 names and otherwise its fuses follow; PROVISION burns
nothing where its tag fails and writes only fields that are still 0. Clauses rest on the model's own choices or readings: log entries 177,
178, 179, 185. -/
def Obligations.ImagesFusesAndProvisioning : Prop :=
  ∀ (s : State) (r : CmdRun), Live s →
    (Runs s r 0x100 → 8 ≤ r.body.length →
      let off := beAt r.body 0 8
      let data := r.body.drop 8
      (s.dev.ct.activation ≠ none → exec .imgStage s = .next (replied s r 4 [])) ∧
      (s.dev.ct.activation = none → 0x4000000 < off + data.length → exec .imgStage s = .next (replied s r 5 [])) ∧
      (s.dev.ct.activation = none → off + data.length ≤ 0x4000000 → ∃ u, exec .imgStage s = .next u ∧
        HbmOutside s u (0xBD0000000 + off) data.length ∧ (∀ j, j < data.length → memRd u.dev.hbm (0xBD0000000 + off + j) = data.getD j 0) ∧
        Answers s u r 0 [] ∧ u.dev.regs = s.dev.regs ∧ u.otp = s.otp ∧ u.flashA = s.flashA ∧ u.flashB = s.flashB)) ∧
    (Runs s r 0x101 → r.body.length = 8 →
      let mode := beAt r.body 0 8
      let b := stagedImage s.dev
      let st := verifyImage s.otp s.dev.ct.debugEn false b
      let t := match selectedBank s with
        | some k => 1 - k
        | none => 0
      ∃ u, exec .imgActivate s = .next u ∧ u.otp = s.otp ∧
        (1 < mode → u = replied s r 5 []) ∧ (mode ≤ 1 → s.dev.ct.activation ≠ none → u = replied s r 4 []) ∧
        (mode ≤ 1 → s.dev.ct.activation = none → st ≠ 0 → Answers s u r st [] ∧ u.flashA = s.flashA ∧ u.flashB = s.flashB ∧
          fld (cur u.dev .seImgStatus 0 0) 24 8 = 0x10 + st ∧ u.dev.hbm = s.dev.hbm ∧ u.dev.ct.activation = none) ∧
        (mode = 1 → s.dev.ct.activation = none → st = 0 → reelIdInUse s.dev b = true → Answers s u r 4 [] ∧
          u.flashA = s.flashA ∧ u.flashB = s.flashB ∧ u.dev.hbm = s.dev.hbm) ∧
        (mode ≤ 1 → s.dev.ct.activation = none → st = 0 → (mode = 1 → reelIdInUse s.dev b = false) →
          Answers s u r 0 [] ∧ flashOf u t = { flashOf s t with record := [] } ∧ flashOf u (1 - t) = flashOf s (1 - t) ∧
          u.dev.ct.activation = some (mode, t) ∧ bit (cur u.dev .seImgStatus 0 0) 16 = true ∧
          u.dev.hbm = (if mode = 1 then (placeReels b s.dev).hbm else s.dev.hbm))) ∧
    (∃ u, exec .imgFlashWriteDone s = .next u ∧ u.otp = s.otp ∧ (s.dev.ct.activation = none → u = s) ∧
      ∀ mode t, s.dev.ct.activation = some (mode, t) → t ≤ 1 →
        let b := stagedImage s.dev
        let good := ∀ c ∈ imgComps b, sha512 (compBytes b c) = c.digest
        u.dev.ct.activation = none ∧ flashOf u (1 - t) = flashOf s (1 - t) ∧ (flashOf u t).image.take b.length = b ∧
        bit (cur u.dev .seImgStatus 0 0) 16 = false ∧
        (good → fld (cur u.dev .seImgStatus 0 0) 24 8 = 1 ∧ (flashOf u t).record = bootRecord (nextGen s) b.length) ∧
        (¬good → fld (cur u.dev .seImgStatus 0 0) 24 8 = 0x16 ∧ (flashOf u t).record = (flashOf s t).record)) ∧
    (Runs s r 0x109 → r.body.length = 8 →
      let n := beAt r.body 0 4
      let mask := beAt r.body 4 4 % 16
      let wrong := 64 < n ∨ (s.dev.ct.running.map (·.svn)).getD 0 < n ∨ n < s.otp.rollback ∨ ∃ k ∈ slotsInUse s, mask.testBit k = true
      ∃ u, exec .rollbackAdvance s = .next u ∧ u.otp = s.otp ∧
        (s.dev.ct.activation ≠ none ∨ s.dev.ct.advance ≠ none → u = replied s r 4 []) ∧
        (s.dev.ct.activation = none → s.dev.ct.advance = none → wrong → Answers s u r 5 [] ∧ u.dev.ct.advance = none ∧
          fld (cur u.dev .seImgStatus 0 0) 24 8 = 0x15) ∧
        (s.dev.ct.activation = none → s.dev.ct.advance = none → ¬wrong → Answers s u r 0 [] ∧ u.dev.ct.advance = some (n, mask) ∧
          bit (cur u.dev .seImgStatus 0 0) 16 = true)) ∧
    (∃ u, exec .rollbackFusesDone s = .next u ∧ (s.dev.ct.advance = none → u = s) ∧
      ∀ n mask, s.dev.ct.advance = some (n, mask) → u.dev.ct.advance = none ∧
        u.otp = { s.otp with rollback := max s.otp.rollback n, revoke := s.otp.revoke ||| mask } ∧
        (max s.otp.rollback n ≤ 64 → fld (cur u.dev .seStatus 0 0) 16 8 = max s.otp.rollback n) ∧
        fld (cur u.dev .seImgStatus 0 0) 24 8 = 1 ∧ bit (cur u.dev .seImgStatus 0 0) 16 = false) ∧
    (Runs s r 0x1F0 → r.body.length = 0x1A0 → ∃ u, exec .provision s = .next u ∧ u.flashA = s.flashA ∧ u.flashB = s.flashB ∧
      let z := (ecPoint (sliceD 0 r.body 0 136)).bind (ecMul (Config.identityKey s.otp.idSeed))
      let k (z : List Byte) : List Byte := (sha512 (beBytes 4 1 ++ z ++ beBytes 16 s.otp.deviceId)).take 32
      match z.bind fun q => gcmOpen (k (beBytes 66 q.1)) (List.replicate 12 0) [] (sliceD 0 r.body 136 264) (sliceD 0 r.body 0x190 16) with
      | none => u = replied s r 6 []
      | some x => u.dev.ct.busy = none ∧ (∃ f, u.dev.out = .frame r.port f :: s.dev.out) ∧
          ctlKey u.dev 0 = some ⟨u.otp.ctlKey0, 0xFFFF⟩ ∧
          u.otp = { s.otp with
            ctlKey0 := if s.otp.ctlKey0.all (· = 0) = true then sliceD 0 x 0 64 else s.otp.ctlKey0, imgKey := u.otp.imgKey
            debugPerm := s.otp.debugPerm || decide (beAt x 256 8 % 2 = 1), provisioned := true } ∧
          ∀ j, mget u.otp.imgKey j [] = if 1 ≤ j ∧ j ≤ 3 ∧ mget s.otp.imgKey j [] = [] ∧ (sliceD 0 x (64 * j) 64).all (· = 0) = false
            then sliceD 0 x (64 * j) 64 else mget s.otp.imgKey j [])

/-! ### Memory errors, sparing and margins (chapters 18 and 20) -/

/-- R217, R473 to R475: a corrected error is counted, and MEM_CE is raised where more than CE_THRESH fall within 1,048,576 ticks; an
uncorrectable one has the effect of Table 18-8 in its memory and raises MEM_UE, but for lookup SRAM, whose slot becomes unread-bad; the
first channel that fails while sparing is armed is spared, a further one sets NO_SPARE; the end of the copy retires the channel. Clauses
rest on the model's own choices or readings: log entries 213, 214, 215, 216, 217. -/
def Obligations.MemoryErrorsFollowTable188 : Prop :=
  ∀ (s : State) (m : MemAt) (ch : Fin 32), Live s →
    let inLookup : Prop := (∃ t k, m = .lookup t k) ∨ ∃ t ks, m = .lookupFlags t ks
    (∃ u, exec (.memCorrectable m) s = .next u ∧
      let c : Reg × Nat := match m with
        | .lookup _ _ | .lookupFlags _ _ => (.lkEvtCnt, 12)
        | _ => (.ftMemCnt, 0)
      cur u.dev c.1 c.2 0 = bumpSat (cur s.dev c.1 c.2 0) 1 ∧ OtherWords s u [addr c.1 c.2 0] ∧
      u.dev.ft.ce = (s.dev.tick :: s.dev.ft.ce).filter (fun t => decide (s.dev.tick < t + 1048576)) ∧
      (cfgF s.dev .ftMemCfg 0 0 0 16 < u.dev.ft.ce.length → 7 ∈ u.dev.ft.raising) ∧
      (u.dev.ft.ce.length ≤ cfgF s.dev .ftMemCfg 0 0 0 16 → u.dev.ft.raising = s.dev.ft.raising)) ∧
    (∃ u, exec (.memUncorrectable m) s = .next u ∧ (¬inLookup → 8 ∈ u.dev.ft.raising) ∧
      match m with
      | .imem t => (reelOf u.dev t.reel.val).pend = (reelOf s.dev t.reel.val).pend.join .fail
      | .regFile t | .localMem t =>
        (service s t = true → (thread u t).dbg.faulted = true) ∧ (service s t = false → holdsSkein (thread s t) = false → thread u t = thread s t) ∧
        (service s t = false → holdsSkein (thread s t) = true → thread u t = { thread s t with run := .ended })
      | .reelMem q off => (2 ^ 40 * (2 + q.val) + off.toNat / 8) ∈ u.dev.ft.bad ∧ u.dev.rl = s.dev.rl ∧
          cur u.dev .ftMemCnt 1 0 = bumpSat (cur s.dev .ftMemCnt 1 0) 1
      | .hank off => off.toNat / 8 ∈ u.dev.ft.bad ∧ u.dev.hank = s.dev.hank ∧ cur u.dev .ftMemCnt 1 0 = bumpSat (cur s.dev .ftMemCnt 1 0) 1
      | .hbm off => (∀ j, j < 4 → (2 ^ 40 + (off.toNat / 32 * 32 + 8 * j) / 8) ∈ u.dev.ft.bad) ∧ u.dev.hbm = s.dev.hbm ∧
          (hbmChannel s.dev off.toNat, s.dev.tick) ∈ u.dev.ft.ue
      | .lookup t k => u = { s with dev := { s.dev with lk := { s.dev.lk with bad := u.dev.lk.bad } } } ∧
          (slotBad s.dev t.val k.toNat = 0 → slotBad u.dev t.val k.toNat = 1) ∧
          (slotBad s.dev t.val k.toNat ≠ 0 → u = s)
      | .lookupFlags t ks => ∀ k ∈ ks, ∀ e, entOf s.dev t.val k.toNat = some e →
          ∃ e', entOf u.dev t.val k.toNat = some e' ∧ e'.isHit = false ∧ e'.stale = false ∧ e'.suspect = true
      | .packetBuffer f => ∀ x, frameOf s.dev f = some x → x.whole = false → frameOf u.dev f = some { x with bad := true }
      | .holdIn f => ∀ x, frameOf s.dev f = some x → x.st = .cipher → frameOf u.dev f = none ∧ holdOf u.dev f = none ∧
          cur u.dev .ciDropCnt (x.input / 4 % 4) 0 = bumpSat (cur s.dev .ciDropCnt (x.input / 4 % 4) 0) 1
      | .holdOut c => ∀ x, copyOf s.dev c = some x → c ∈ eqOf s.dev (outCluster x.dest) → copyOf u.dev c = none ∧ c ∉ eqOf u.dev (outCluster x.dest)
      | .keyCache sa => keyOf s.dev sa.toNat ≠ none → keyOf u.dev sa.toNat = none ∧ ∃ b, (sa.toNat, b) ∈ u.dev.ci.fills
      | .replay h => 11 ∈ u.dev.ft.raising ∨ (linkOf s.dev h.val).wasReset = true
      | .hostArray h => u.dev.ct = { s.dev.ct with domReset := s.dev.ct.domReset ++ [h.val] }
      | .clusterArray c => u.dev.ct = { s.dev.ct with domReset := s.dev.ct.domReset ++ [8 + c.val] }
      | .reelArray q => (reelOf u.dev q.val).pend = (reelOf s.dev q.val).pend.join
          (if (reelOf s.dev q.val).st = .admitted ∨ (reelOf s.dev q.val).st = .draining then .fail else .reset) ∧
          ∀ j, j ≠ q.val → reelOf u.dev j = reelOf s.dev j) ∧
    (∃ u, exec (.hbmChannelFail ch) s = .next u ∧
      (cfgB s.dev .ftHbmSpare 0 0 31 = false ∨ s.dev.ft.spare = some ch.val → u = s) ∧
      (cfgB s.dev .ftHbmSpare 0 0 31 = true → s.dev.ft.spare = none → u.dev.ft.spare = some ch.val ∧ 9 ∈ u.dev.ft.raising ∧
        fld (cur u.dev .ftHbmStatus 0 0) 16 8 = ch.val ∧ fld (cur u.dev .ftHbmStatus 0 0) 8 2 = 1 ∧ fld (cur u.dev .ftHbmStatus 0 0) 0 7 = 0 ∧
        OtherWords s u [addr .ftHbmStatus 0 0]) ∧
      (∀ k, cfgB s.dev .ftHbmSpare 0 0 31 = true → s.dev.ft.spare = some k → k ≠ ch.val → u.dev.ft.spare = some k ∧
        9 ∈ u.dev.ft.raising ∧ bit (cur u.dev .ftHbmStatus 0 0) 31 = true ∧ OtherWords s u [addr .ftHbmStatus 0 0])) ∧
    (∃ u, exec .hbmSpareDone s = .next u ∧ RegsOnly s u ∧ OtherWords s u [addr .ftHbmStatus 0 0] ∧
      (fld (cur s.dev .ftHbmStatus 0 0) 8 2 = 1 → fld (cur u.dev .ftHbmStatus 0 0) 8 2 = 2 ∧ fld (cur u.dev .ftHbmStatus 0 0) 0 7 = 100 ∧
        fld (cur u.dev .ftHbmStatus 0 0) 16 8 = fld (cur s.dev .ftHbmStatus 0 0) 16 8) ∧
      (fld (cur s.dev .ftHbmStatus 0 0) 8 2 ≠ 1 → u = s))

/-- R444, R481, R482, R510: a measurement in sag changes nothing; otherwise it shows Tj and, with EN 1, re-plans each rail: one whose slack is
below LOW is raised by STEP up to 0.800 V and settles, or moves down a rung, or reports exhaustion; a slack above HIGH six times in a row
asks for a lowering. A measurement at the end of SETTLE re-plans that rail alone in the same way. Clauses rest on the model's own choices or
readings: log entries 219, 220, 221, 222, 224. -/
def Obligations.MarginsAreReplanned : Prop :=
  ∀ (s : State) (m : Measure) (b : Bool), Live s →
    let x := railOf s.dev b
    let slack := railSlack m b
    let low : Int := cfgF s.dev .mgCfg 0 0 16 8
    let high : Int := max (cfgF s.dev .mgCfg 0 0 16 8 + 1) (cfgF s.dev .mgCfg 0 0 8 8)
    let step := if cfgF s.dev .mgCfg 0 0 0 4 = 0 then 1 else cfgF s.dev .mgCfg 0 0 0 4
    let replans (u : State) (periodic : Bool) : Prop :=
      (slack < low → x.mv < 800 → (railOf u.dev b).mv = min 800 (x.mv + step) ∧ (railOf u.dev b).settle = some s.dev.tick ∧
        (railOf u.dev b).high = 0 ∧ 24 ∈ u.dev.ft.raising) ∧
      (slack < low → 800 ≤ x.mv → s.dev.rung < 2 → u.dev.mg.rungDue = some (s.dev.rung + 1) ∧ (railOf u.dev b).settle = some s.dev.tick ∧
        (railOf u.dev b).mv = x.mv ∧ 24 ∈ u.dev.ft.raising) ∧
      (slack < low → 800 ≤ x.mv → 2 ≤ s.dev.rung → 25 ∈ u.dev.ft.raising ∧ (railOf u.dev b).mv = x.mv ∧ (railOf u.dev b).settle = none) ∧
      (low ≤ slack → (railOf u.dev b).mv = x.mv ∧ (railOf u.dev b).settle = none ∧
        (periodic = false → (railOf u.dev b).high = x.high ∧ (railOf u.dev b).low = x.low) ∧
        (periodic = true → slack ≤ high → (railOf u.dev b).high = 0 ∧ (railOf u.dev b).low = x.low) ∧
        (periodic = true → high < slack → x.high + 1 < 6 → (railOf u.dev b).high = x.high + 1) ∧
        (periodic = true → high < slack → 6 ≤ x.high + 1 → (railOf u.dev b).high = 0 ∧
          ((railOf u.dev b).low = none ↔ x.mv ≤ 720)))
    (∃ u, exec (.marginMeasure m) s = .next u ∧ (s.dev.pw.sag = true → u = s) ∧
      (s.dev.pw.sag = false → fld (cur u.dev .mgTemp 0 0) 0 16 = m.tj.toNat ∧
        (cfgB s.dev .mgCfg 0 0 31 = false → RegsOnly s u) ∧
        (cfgB s.dev .mgCfg 0 0 31 = true → x.lost = false → avsFail s.dev b = false → replans u true))) ∧
    (∃ u, exec (.marginSettleExpiry m) s = .next u ∧
      (s.dev.pw.sag = true ∨ (∀ c t, (railOf s.dev c).settle = some t → s.dev.tick < t + 6250) → u = s) ∧
      (∀ t, s.dev.pw.sag = false → x.settle = some t → t + 6250 ≤ s.dev.tick → cfgB s.dev .mgCfg 0 0 31 = true → x.lost = false →
        avsFail s.dev b = false → replans u false))

/-! ### Device time and pins (chapters 17 and 20) -/

/-- R448, R452, R454 to R456, R513, R522: GO makes a step wait for the boundary, and a second GO changes nothing; PPS_OUT rises where the
seconds are about to carry and OUT_EN is 1, and falls after WIDTH; an edge of the selected polarity on PPS_IN latches the time and the tick;
THERMTRIP_N shows in TRIP until it is released; a TAP instruction changes nothing but the TAP. Clauses rest on the model's own choices or
readings: log entries 200, 201, 203, 204, 243, 244. -/
def Obligations.TimeAndPinsFollowTheirRules : Prop :=
  ∀ (s : State) (load falling : Bool) (ps : Nat) (i : TapOp), Live s →
    (∃ u, exec (.timeStepGo load) s = .next u ∧ (s.dev.tm.step ≠ none → u = s) ∧
      (s.dev.tm.step = none → u = { s with dev := { s.dev with regs := u.dev.regs, tm := { s.dev.tm with step := some load } } } ∧
        bit (cur u.dev .tmStepCtl 0 0) 1 = load ∧ bit (cur u.dev .tmStepCtl 0 0) 2 = true ∧ OtherWords s u [addr .tmStepCtl 0 0])) ∧
    (∀ d : Dev, d.tm.step = some load → (stepApply d).tm.step = none ∧ bit (cur (stepApply d) .tmStepCtl 0 0) 2 = false ∧
      (load = true → (cfg d .tmStepNs 0 0).toNat < 1000000000 → (stepApply d).tm.now =
        ⟨(cfg d .tmStepSecLo 0 0).toNat + 2 ^ 32 * cfgF d .tmStepSecHi 0 0 0 16, (cfg d .tmStepNs 0 0).toNat, 0⟩)) ∧
    (exec .ppsOutEdge s = .next (if (timeAdd s.dev.tm.now (tickUnits s.dev)).sec ≠ s.dev.tm.now.sec ∧ s.dev.tm.rose = false ∧
        cfgB s.dev .tmPpsCfg 0 0 31 = true
      then { s with dev := { s.dev with tm := { s.dev.tm with high := some s.dev.tick, rose := true } } } else s)) ∧
    (let width := 31250 * (if cfgF s.dev .tmPpsCfg 0 0 0 8 = 0 then 1 else cfgF s.dev .tmPpsCfg 0 0 0 8);
      (∀ t, s.dev.tm.high = some t → t + width ≤ s.dev.tick → exec .ppsOutPulseEnd s =
        .next { s with dev := { s.dev with tm := { s.dev.tm with high := none } } }) ∧
      ((∀ t, s.dev.tm.high = some t → s.dev.tick < t + width) → exec .ppsOutPulseEnd s = .next s)) ∧
    (∃ u, exec (.ppsInEdge falling ps) s = .next u ∧
      let w := cfg s.dev .tmPpsCfg 0 0
      let t := timeAt s.dev ps
      (bit w 30 = false ∨ bit w 29 ≠ falling → u = s) ∧
      (bit w 30 = true → bit w 29 = falling → RegsOnly s u ∧ bit (cur u.dev .tmPpsCfg 0 0) 28 = true ∧
        cur u.dev .tmPpsIn 0 0 = BitVec.ofNat 32 t.ns ∧ cur u.dev .tmPpsIn 1 0 = BitVec.ofNat 32 t.sec ∧
        cur u.dev .tmPpsIn 2 0 = BitVec.ofNat 32 (t.sec / 2 ^ 32) ∧ cur u.dev .tmPpsIn 3 0 = BitVec.ofNat 32 s.dev.tick ∧
        cur u.dev .tmPpsIn 4 0 = BitVec.ofNat 32 (s.dev.tick / 2 ^ 32) ∧
        (bit (cur s.dev .tmPpsCfg 0 0) 28 = true → cur u.dev .tmEvtCnt 3 0 = bumpSat (cur s.dev .tmEvtCnt 3 0) 1) ∧
        (bit (cur s.dev .tmPpsCfg 0 0) 28 = false → cur u.dev .tmEvtCnt 3 0 = cur s.dev .tmEvtCnt 3 0))) ∧
    (∀ c, ∃ u, exec (.txTimestampPoint c ps) s = .next u ∧
      (∀ x, copyOf s.dev c = some x → x.started = false ∨ x.ptp = none ∨ x.prot = true → u = s) ∧ (copyOf s.dev c = none → u = s) ∧
      ∀ x, copyOf s.dev c = some x → x.started = true → x.prot = false → x.ptp ≠ none → x.out ≠ none →
        u.dev.tick = s.dev.tick ∧ u.otp = s.otp ∧ u.dev.tm.now = s.dev.tm.now ∧ ∀ y, copyOf u.dev c = some y → y.ptp = none) ∧
    (∃ u, exec .thermtrip s = .next u ∧ u.board = { s.board with thermtrip := true } ∧ bit (cur u.dev .mgTemp 0 0) 31 = true ∧
      OtherWords s u [addr .mgTemp 0 0] ∧ u.otp = s.otp) ∧
    (exec .thermtripNRelease s = .next { s with board := { s.board with thermtrip := false } }) ∧
    (exec (.tapInstruction i) s = .next { s with board := { s.board with tap := i } }) ∧
    ∀ z : Board, tapActs z = if z.porstLow = false ∧ (z.tap = .extest ∨ z.tap = .extestPulse ∨ z.tap = .extestTrain ∨ z.tap = .highz ∨
      z.tap = .clamp) then .bypass else z.tap

/-! ### Resets, bring-up and the whole machine (chapter 19) -/

namespace Sys2Proof.Claims
open Sys2Proof Sys2Proof.Machine

/-- Every register word, stored and in use, holds its reset value, but for CT_BOOT_STATUS (R486). -/
def RegistersReset (d : Dev) : Prop := ∀ a, a ≠ addr .ctBootStatus 0 0 → storedWord d a = resetAt a ∧ usedWord d a = resetAt a

/-- What a device reset of any cause leaves of the on-die state (Table 19-2): registers at their reset values, tick 0, no thread, frame, lock,
vport, key or command. -/
def OnDieCleared (d : Dev) : Prop :=
  RegistersReset d ∧ d.tick = 0 ∧ d.rl = Rl.reset ∧ d.dr = Dr.reset ∧ d.sw = Sw.reset ∧ d.hp = ⟨[], [], [], [], 0⟩ ∧ d.ci = Ci.reset ∧
  d.lk = Lk.reset ∧ d.pw = Pw.reset ∧ d.mg = Mg.reset ∧ d.tm = Tm.reset ∧ d.hank = [] ∧ d.ct.busy = none ∧ d.ct.cmdq = [] ∧ d.ct.keys = [] ∧
  d.ct.mconfig = List.replicate 64 0 ∧ d.ct.crit = 0 ∧ d.ct.bootId = 0 ∧ d.ct.debugEn = false ∧ d.ct.debugSeen = false

/-- What a reset leaves of the fuses: all of them, and of a rollback advance that it cuts short a ROLLBACK between its old value and N
(R423, R486). -/
def FusesKept (s u : State) : Prop :=
  (s.dev.ct.advance = none → u.otp = s.otp) ∧
  (∀ n mask, s.dev.ct.advance = some (n, mask) → s.otp.rollback ≤ n → s.otp.rollback ≤ u.otp.rollback ∧ u.otp.rollback ≤ n ∧
    u.otp = { s.otp with rollback := u.otp.rollback, revoke := u.otp.revoke } ∧
    (u.otp.rollback < n → u.otp.revoke = s.otp.revoke)) ∧
  u.flashA = s.flashA ∧ u.flashB = s.flashB

/-- What every command keeps. Fuses, by comparison with an earlier OTP `o`: ROLLBACK is no lower, no slot is unrevoked, a blown PROVISIONED or
DEBUG_PERM stays blown, a programmed image key and a CTL_KEY0 that is not zero stay, factory fields stay. The reset hold: with PORST_N low or
an undervoltage hold the device is held in reset, and while it is held the tick counter stands at 0. Straps are two bits, and the cause is
one of Table 19-8. -/
structure Sound (o : Otp) (s : State) : Prop where
  rollback : o.rollback ≤ s.otp.rollback
  revoke : ∀ k, o.revoke.testBit k = true → s.otp.revoke.testBit k = true
  provisioned : o.provisioned = true → s.otp.provisioned = true
  debugPerm : o.debugPerm = true → s.otp.debugPerm = true
  imgKey : ∀ n, mget o.imgKey n [] ≠ [] → mget s.otp.imgKey n [] = mget o.imgKey n []
  ctlKey0 : o.ctlKey0.all (· = 0) = false → s.otp.ctlKey0 = o.ctlKey0
  factory : s.otp.deviceId = o.deviceId ∧ s.otp.idSeed = o.idSeed ∧ s.otp.devSeed = o.devSeed
  held : s.board.porstLow = true ∨ s.board.uv = true → s.board.held = true
  still : s.board.held = true → s.dev.tick = 0
  straps : s.keep.bootSel < 4 ∧ s.keep.rungInit < 4
  cause : s.board.cause < 4

end Sys2Proof.Claims

open Sys2Proof Sys2Proof.Machine Sys2Proof.Claims

/-- R485 to R492, R499, R509: a power-on reset latches the straps and loses HBM, PORST_N low holds the whole device, an undervoltage reset and a
device reset by command keep HBM; each clears the on-die state, keeps fuses and flash, and holds the device until PLL_LOCK, which runs the
boot ROM: HALTED_ENTROPY without entropy, else BOOT_ID, epochs and boot service on reels 0 to 3. A domain reset waits for the boundary,
which holds its link or cluster for 16 ticks. The end of the image fetch selects the first bank that passes, or stays in BOOT_HOLD. Clauses
rest on the model's own choices or readings: log entries 178, 226, 228, 231, 232, 236, 237, 239, 241. -/
def Obligations.ResetsAndBootFollowChapter19 : Prop :=
  ∀ (s : State) (bs ri : BitVec 2) (cp ok : Bool) (n : BitVec 64) (h c : Fin 8) (ms : List Measure),
    (∃ u, exec (.powerOnReset bs ri cp) s = .next u ∧ FusesKept s u ∧ OnDieCleared u.dev ∧ u.dev.hbm = [] ∧
      u.keep = ⟨[], bs.toNat, ri.toNat, cp⟩ ∧ u.board.held = true ∧ u.board.porstLow = false ∧ u.board.uv = false ∧
      u.board.cause = (if s.board.porstLow = true then 1 else 0) ∧ u.dev.ct.phase = .rom ∧ u.dev.out = s.dev.out ∧
      fld (cur u.dev .ctBootStatus 0 0) 10 2 = bs.toNat ∧ fld (cur u.dev .ctBootStatus 0 0) 8 2 = ri.toNat ∧
      bit (cur u.dev .ctBootStatus 0 0) 7 = cp ∧ fld (cur u.dev .ctBootStatus 0 0) 0 3 = u.board.cause) ∧
    (∃ u, exec .porstNLow s = .next u ∧ FusesKept s u ∧ OnDieCleared u.dev ∧ u.dev.hbm = [] ∧ u.board.held = true ∧
      u.board.porstLow = true ∧ u.keep.bootSel = s.keep.bootSel ∧ u.keep.rungInit = s.keep.rungInit ∧ u.keep.cpMedia = s.keep.cpMedia) ∧
    (∃ u, exec .undervoltageReset s = .next u ∧ (s.board.porstLow = true → u = s) ∧
      (s.board.porstLow = false → FusesKept s u ∧ OnDieCleared u.dev ∧ u.dev.hbm = s.dev.hbm ∧ u.board.held = true ∧ u.board.uv = true ∧
        u.board.cause = 2 ∧ fld (cur u.dev .ctBootStatus 0 0) 0 3 = 2)) ∧
    exec .undervoltageRelease s = .next { s with board := { s.board with uv := false } } ∧
    (∃ u, exec (.deviceResetCmd n) s = .next u ∧ (s.board.held = true → u = s) ∧
      (Live s → FusesKept s u ∧ OnDieCleared u.dev ∧ u.dev.hbm = s.dev.hbm ∧ u.board.held = true ∧ u.board.cause = 3 ∧
        u.board.porstLow = s.board.porstLow ∧ u.keep.bootSel = s.keep.bootSel ∧ u.keep.rungInit = s.keep.rungInit ∧
        u.dev.ct.phase = (if s.dev.ct.phase = .haltedEntropy then .haltedEntropy else .rom) ∧
        (s.dev.ct.phase ≠ .rom → s.dev.ct.phase ≠ .haltedEntropy → mget u.keep.epochs h 0 = (linkOf s.dev h.val).epOwn))) ∧
    (∃ u, exec (.pllLock ok ms) s = .next u ∧ u.otp = s.otp ∧ u.flashA = s.flashA ∧ u.flashB = s.flashB ∧ u.keep = s.keep ∧
      (s.board.porstLow = true ∨ s.board.uv = true ∨ (Live s ∧ s.dev.ct.phase ≠ .rom) → u = s) ∧
      (s.board.porstLow = false → s.board.uv = false → s.board.held = true ∨ s.dev.ct.phase = .rom →
        u.board = { s.board with held := false } ∧ u.dev.tick = s.dev.tick ∧ u.dev.ct.devId = s.otp.deviceId ∧
        (ok = false ∨ s.dev.ct.phase ≠ .rom → u.dev.ct.phase = .haltedEntropy ∧ u.dev.ct.trngFail = true ∧
          u.dev.ct.bootId = s.dev.ct.bootId ∧ u.dev.rl = s.dev.rl) ∧
        (ok = true → s.dev.ct.phase = .rom → u.dev.ct.phase = (if s.keep.bootSel = 3 then .bootHold else .bootService) ∧
          u.dev.ct.bootId = (Config.draw s.dev.rng).toNat % 2 ^ 32 ∧
          (∀ r, r < 4 → (reelOf u.dev r).st = .admitted) ∧ (reelOf u.dev 32).st = .spare ∧
          (2 ≤ s.board.cause → (linkOf u.dev h.val).epOwn = (mget s.keep.epochs h 0 + 1) % 256) ∧
          ∀ x, x < 4 → cur u.dev .npPortCfg x 0 = 0x101))) ∧
    (Live s → ∃ u, exec (.hostPortDomainReset h) s = .next u ∧
      u = { s with dev := { s.dev with ct := { s.dev.ct with domReset := u.dev.ct.domReset } } } ∧
      ∀ x, x ∈ u.dev.ct.domReset ↔ x ∈ s.dev.ct.domReset ∨ x = h.val) ∧
    (Live s → ∃ u, exec (.clusterDomainReset c) s = .next u ∧
      u = { s with dev := { s.dev with ct := { s.dev.ct with domReset := u.dev.ct.domReset } } } ∧
      ∀ x, x ∈ u.dev.ct.domReset ↔ x ∈ s.dev.ct.domReset ∨ x = 8 + c.val) ∧
    (∀ d : Dev, d.ct.domReset = [h.val] → (domainResets d).ct.domReset = [] ∧ (linkOf (domainResets d) h.val).st = .down ∧
      (linkOf (domainResets d) h.val).resetTill = some (d.tick + 16)) ∧
    (∀ d : Dev, d.ct.domReset = [8 + c.val] → domSt d (33 + c.val) ≠ 3 → (domainResets d).ct.domReset = [] ∧ eqOf (domainResets d) c.val = [] ∧
      mget (domainResets d).ci.resetTill c.val none = some (d.tick + 16)) ∧
    (Live s → ∃ u, exec .domainResetEnd s = .next u ∧ u.dev.regs = s.dev.regs ∧ u.dev.tick = s.dev.tick ∧
      (∀ t, (linkOf s.dev h.val).resetTill = some t → linkOf u.dev h.val =
        if t ≤ s.dev.tick then { linkOf s.dev h.val with resetTill := none } else linkOf s.dev h.val) ∧
      ((linkOf s.dev h.val).resetTill = none → linkOf u.dev h.val = linkOf s.dev h.val) ∧
      (∀ t, mget u.dev.ci.resetTill c.val none = some t → s.dev.tick < t) ∧
      ∀ t, mget s.dev.ci.resetTill c.val none = some t → s.dev.tick < t → mget u.dev.ci.resetTill c.val none = some t) ∧
    (Live s → ∃ u, exec .imageFetchDone s = .next u ∧ u.otp = s.otp ∧ u.flashA = s.flashA ∧ u.flashB = s.flashB ∧
      (s.dev.ct.phase ≠ .bootService → u = s) ∧
      (s.dev.ct.phase = .bootService →
        ((∀ k ∈ bankOrder s s.keep.bootSel, bankFail s k ≠ 1) →
          u.dev.ct.phase = .bootHold ∧ u.dev.rl = s.dev.rl ∧ OtherWords s u [addr .ctBootStatus 0 0]) ∧
        (∀ k ks, bankOrder s s.keep.bootSel = k :: ks → bankFail s k = 1 → ∃ d, u.dev = startSwitch (bankImage (flashOf s k)) d ∧
          RegsOnly s { s with dev := d } ∧ fld (cur d .ctBootStatus 0 0) 26 2 = k)))

/-- R4, R12, R424, R486, R527: right after reset every register reads its reset value, the tick counter is 0, the queue of commands is empty, no
thread, frame or lock is held, M_CONFIG is 0; memory lists nothing; and the machine is sound in the sense of EveryStepKeepsSoundness.
Clauses rest on the model's own choices or readings: log entries 4, 7, 188. -/
def Obligations.ResetLeavesTheMachineSound : Prop :=
  Sound State.reset.otp State.reset ∧ State.reset.pending = [] ∧ OnDieCleared State.reset.dev ∧ State.reset.dev.hbm = [] ∧
  State.reset.dev.out = [] ∧ Live State.reset ∧ State.reset.dev.ct.phase = .rom ∧
  storedWord State.reset.dev (addr .ctCmdMac 0 0) = 3 ∧ storedWord State.reset.dev (addr .ctCmdMac 0 0 + 4) = 0x200 ∧
  storedWord State.reset.dev (addr .ftNoticeCfg 0 0) = 31250 ∧ storedWord State.reset.dev (addr .ggCfg 0 0) = 0x100000

/-- R423, R485, R486, R489: whatever command is at the front, and whatever the state, a step keeps what `Sound` says: no fuse is lost, the
device stays held while PORST_N is low or the undervoltage hold lasts, and its tick counter stands while it is held. Clauses rest on the
model's own choices or readings: log entries 9, 178, 226, 241. -/
def Obligations.EveryStepKeepsSoundness : Prop :=
  ∀ (o : Otp) (s u : State), Sound o s → step s = .next u → Sound o u
end

