-- ==== Sys2Proof/Laws/Bits.lean ====
section
/-! SUPPORT. The laws of bit fields and of byte orders: a field reads what was written to it and every other field stays; a number and its
bytes spell each other. -/

namespace Sys2Proof.Machine
open Sys2Proof

/-! ### Bit fields -/

/-- A bit of a word whose field was written: the field's own bit, or as before. -/
theorem bit_setFld {n : Nat} (w : BitVec n) (lo len v i : Nat) (hi : i < n) :
    bit (setFld w lo len v) i = if lo ≤ i ∧ i < lo + len then (v % 2^len).testBit (i - lo) else bit w i := by
  unfold bit setFld
  simp only [BitVec.getLsbD_or, BitVec.getLsbD_and, BitVec.getLsbD_not, BitVec.getLsbD_ofNat, hi, decide_true, Bool.true_and]
  rw [Nat.testBit_shiftLeft, Nat.testBit_shiftLeft, Nat.testBit_two_pow_sub_one, Nat.testBit_mod_two_pow]
  by_cases h1 : lo ≤ i
  · by_cases h2 : i < lo + len
    · have : i - lo < len := by omega
      simp [h1, h2, this]
    · have : ¬ (i - lo < len) := by omega
      simp [h1, h2, this]
  · simp [h1]

/-- A bit of a word one of whose bits was written. -/
@[simp] theorem bit_setBit {n : Nat} (w : BitVec n) (i j : Nat) (b : Bool) (hj : j < n) :
    bit (setBit w i b) j = if j = i then b else bit w j := by
  unfold setBit; rw [bit_setFld _ _ _ _ _ hj]
  by_cases h : j = i
  · subst h; cases b <;> simp
  · rw [if_neg h, if_neg (by omega)]

/-- The bits of a field. -/
theorem fld_ext {n : Nat} (w : BitVec n) (lo len i : Nat) : (fld w lo len).testBit i = (decide (i < len) && bit w (lo + i)) := by
  unfold fld bit; rw [Nat.testBit_mod_two_pow, Nat.testBit_shiftRight]; rfl

/-- A field reads what was written to it. -/
theorem fld_setFld_self {n : Nat} (w : BitVec n) (lo len v : Nat) (h : lo + len ≤ n) : fld (setFld w lo len v) lo len = v % 2 ^ len := by
  apply Nat.eq_of_testBit_eq; intro i
  rw [fld_ext, Nat.testBit_mod_two_pow]
  by_cases hi : i < len
  · rw [bit_setFld _ _ _ _ _ (by omega)]; simp [hi]
  · simp [hi]

/-- A write to a field leaves every field beside it. -/
theorem fld_setFld_other {n : Nat} (w : BitVec n) (lo len v lo' len' : Nat) (h : lo' + len' ≤ n) (h2 : lo' + len' ≤ lo ∨ lo + len ≤ lo') :
    fld (setFld w lo len v) lo' len' = fld w lo' len' := by
  apply Nat.eq_of_testBit_eq; intro i
  rw [fld_ext, fld_ext]
  by_cases hi : i < len'
  · rw [bit_setFld _ _ _ _ _ (by omega)]; rw [if_neg (by omega)]
  · simp [hi]

/-! ### Byte orders (R4) -/

@[simp] theorem length_leBytes (n : Nat) : ∀ v, (leBytes n v).length = n := by
  induction n with
  | zero => intro v; rfl
  | succ n ih => intro v; simp [leBytes, ih]

@[simp] theorem length_beBytes (n v : Nat) : (beBytes n v).length = n := by simp [beBytes]

/-- The bytes of a number spell it, up to what n bytes hold. -/
theorem leNat_leBytes (n : Nat) : ∀ v, leNat (leBytes n v) = v % 256 ^ n := by
  induction n with
  | zero => intro v; simp [leBytes, leNat, Nat.mod_one]
  | succ n ih =>
    intro v
    rw [leBytes, leNat, ih, BitVec.toNat_ofNat, show (256 : Nat) ^ (n + 1) = 256 * 256 ^ n from Nat.pow_succ', Nat.mod_mul]

theorem beNat_beBytes (n v : Nat) : beNat (beBytes n v) = v % 256 ^ n := by
  simp [beNat, beBytes, leNat_leBytes]

/-- Bytes are those of the number that they spell. -/
theorem leBytes_leNat : ∀ bs : List Byte, leBytes bs.length (leNat bs) = bs
  | [] => rfl
  | b :: bs => by
    have hb := b.isLt
    simp only [List.length_cons, leBytes, leNat]
    rw [show (b.toNat + 256 * leNat bs) / 256 = leNat bs by omega, leBytes_leNat bs]
    congr 1
    apply BitVec.eq_of_toNat_eq
    simp only [BitVec.toNat_ofNat]; omega

end Sys2Proof.Machine
end

