-- ==== Sys2Proof/Laws/Map.lean ====
section
/-! SUPPORT. The laws of the sparse maps and of the memories: a read after a write, and that every operation keeps the canonical form. -/

namespace Sys2Proof.Machine
open Sys2Proof

section
variable {α : Type}

/-! ### Reads after writes -/

@[simp] theorem mfind_nil (x : Nat) : mfind ([] : SMap α) x = none := rfl

theorem mfind_mset (m : SMap α) (x y : Nat) (v : α) : mfind (mset m x v) y = if y = x then some v else mfind m y := by
  induction m with
  | nil => simp only [mset, mfind, eq_comm]
  | cons e m ih =>
    obtain ⟨k, w⟩ := e
    simp only [mset]
    split
    · simp only [mfind, eq_comm]
    · split
      · rename_i h; subst h
        simp only [mfind]
        by_cases h : x = y
        · simp [h]
        · simp [h, Ne.symm h]
      · rename_i h1 h2
        simp only [mfind, ih]
        by_cases h : k = y
        · subst h; simp [Ne.symm h2]
        · simp [h]

theorem mfind_mdel (m : SMap α) (x y : Nat) : mfind (mdel m x) y = if y = x then none else mfind m y := by
  induction m with
  | nil => simp [mdel]
  | cons e m ih =>
    obtain ⟨k, w⟩ := e
    simp only [mdel]
    split
    · rename_i h; subst h
      rw [ih]
      by_cases h : y = k
      · simp [h]
      · simp [h, mfind, Ne.symm h]
    · rename_i h1
      simp only [mfind, ih]
      by_cases h : k = y
      · subst h; simp [h1]
      · simp [h]

/-- A read with any default after a write: the value written, or the default where the value is not listed. -/
theorem mfind_mput [DecidableEq α] (m : SMap α) (x y : Nat) (v d : α) :
    mfind (mput m x v d) y = if y = x then (if v = d then none else some v) else mfind m y := by
  unfold mput
  split
  · rw [mfind_mdel]
  · rw [mfind_mset]

@[simp] theorem mget_mput [DecidableEq α] (m : SMap α) (x y : Nat) (v d : α) :
    mget (mput m x v d) y d = if y = x then v else mget m y d := by
  unfold mget
  rw [mfind_mput]
  split
  · split
    · simp_all
    · rfl
  · rfl

theorem mget_mput_self [DecidableEq α] (m : SMap α) (x : Nat) (v d : α) : mget (mput m x v d) x d = v := by simp

theorem mget_mput_other [DecidableEq α] (m : SMap α) (x y : Nat) (v d : α) (h : y ≠ x) : mget (mput m x v d) y d = mget m y d := by
  simp [h]

theorem mget_mputs [DecidableEq α] (d : α) (vs : List α) : ∀ (m : SMap α) (a y : Nat),
    mget (mputs m d a vs) y d = if a ≤ y ∧ y < a + vs.length then vs.getD (y - a) d else mget m y d := by
  induction vs with
  | nil =>
    intro m a y
    have h : ¬(a ≤ y ∧ y < a + ([] : List α).length) := by simp
    rw [if_neg h]; rfl
  | cons v vs ih =>
    intro m a y
    simp only [mputs, ih, mget_mput, List.length_cons]
    by_cases h : y = a
    · subst h
      have h3 : ¬(y + 1 ≤ y ∧ y < y + 1 + vs.length) := by omega
      have h4 : y ≤ y ∧ y < y + (vs.length + 1) := by omega
      rw [if_neg h3, if_pos rfl, if_pos h4, Nat.sub_self]; rfl
    · by_cases h2 : a ≤ y ∧ y < a + (vs.length + 1)
      · have h3 : a + 1 ≤ y ∧ y < a + 1 + vs.length := by omega
        have h4 : y - a = (y - (a + 1)) + 1 := by omega
        simp [h2, h3, h4]
      · have h3 : ¬(a + 1 ≤ y ∧ y < a + 1 + vs.length) := by omega
        rw [if_neg h3, if_neg h, if_neg h2]

/-! ### The canonical form -/

theorem keysFrom_mono {lo hi : Nat} (h : hi ≤ lo) : ∀ m : SMap α, keysFrom lo m = true → keysFrom hi m = true
  | [], _ => rfl
  | (k, v) :: m, hk => by
    simp only [keysFrom, Bool.and_eq_true, decide_eq_true_eq] at hk ⊢
    exact ⟨Nat.le_trans h hk.1, hk.2⟩

theorem keysFrom_mset (m : SMap α) : ∀ (lo x : Nat) (v : α), keysFrom lo m = true → lo ≤ x → keysFrom lo (mset m x v) = true := by
  induction m with
  | nil => intro lo x v _ hx; simp [mset, keysFrom, hx]
  | cons e m ih =>
    obtain ⟨k, w⟩ := e
    intro lo x v hm hx
    simp only [keysFrom, Bool.and_eq_true, decide_eq_true_eq] at hm
    simp only [mset]
    split
    · rename_i h
      simp only [keysFrom, Bool.and_eq_true, decide_eq_true_eq]
      exact ⟨hx, h, hm.2⟩
    · split
      · rename_i h; subst h
        simp only [keysFrom, Bool.and_eq_true, decide_eq_true_eq]
        exact hm
      · simp only [keysFrom, Bool.and_eq_true, decide_eq_true_eq]
        exact ⟨hm.1, ih _ _ _ hm.2 (by omega)⟩

theorem keysFrom_filter (p : Nat × α → Bool) (m : SMap α) : ∀ lo, keysFrom lo m = true → keysFrom lo (m.filter p) = true := by
  induction m with
  | nil => intro lo _; rfl
  | cons e m ih =>
    obtain ⟨k, w⟩ := e
    intro lo hm
    simp only [keysFrom, Bool.and_eq_true, decide_eq_true_eq] at hm
    simp only [List.filter_cons]
    split
    · simp only [keysFrom, Bool.and_eq_true, decide_eq_true_eq]
      exact ⟨hm.1, ih _ hm.2⟩
    · exact keysFrom_mono (by omega) _ (ih _ hm.2)

theorem mdel_eq_filter (m : SMap α) (x : Nat) : mdel m x = m.filter fun e => decide (e.1 ≠ x) := by
  induction m with
  | nil => rfl
  | cons e m ih =>
    obtain ⟨k, w⟩ := e
    simp only [mdel, List.filter_cons]
    split <;> simp_all

theorem mem_mset (m : SMap α) (x : Nat) (v : α) (e : Nat × α) (h : e ∈ mset m x v) : e = (x, v) ∨ e ∈ m := by
  induction m with
  | nil => simpa [mset] using h
  | cons f m ih =>
    obtain ⟨k, w⟩ := f
    simp only [mset] at h
    split at h
    · simpa using h
    · split at h
      · simp only [List.mem_cons] at h ⊢
        rcases h with h | h
        · exact Or.inl h
        · exact Or.inr (Or.inr h)
      · simp only [List.mem_cons] at h ⊢
        rcases h with h | h
        · exact Or.inr (Or.inl h)
        · rcases ih h with h | h
          · exact Or.inl h
          · exact Or.inr (Or.inr h)

theorem mwf_mput [DecidableEq α] (m : SMap α) (x : Nat) (v d : α) (h : mwf m d = true) : mwf (mput m x v d) d = true := by
  simp only [mwf, Bool.and_eq_true, List.all_eq_true, decide_eq_true_eq] at h ⊢
  unfold mput
  split
  · rw [mdel_eq_filter]
    exact ⟨keysFrom_filter _ _ _ h.1, fun e he => h.2 e ((List.mem_filter.mp he).1)⟩
  · refine ⟨keysFrom_mset _ _ _ _ h.1 (Nat.zero_le _), fun e he => ?_⟩
    rcases mem_mset _ _ _ _ he with rfl | he
    · assumption
    · exact h.2 e he

theorem mwf_mputs [DecidableEq α] (d : α) (vs : List α) : ∀ (m : SMap α) (a : Nat), mwf m d = true → mwf (mputs m d a vs) d = true := by
  induction vs with
  | nil => intro m a h; exact h
  | cons v vs ih => intro m a h; exact ih _ _ (mwf_mput _ _ _ _ h)

theorem mwf_mdelRange [DecidableEq α] (m : SMap α) (d : α) (lo hi : Nat) (h : mwf m d = true) : mwf (mdelRange m lo hi) d = true := by
  simp only [mwf, Bool.and_eq_true, List.all_eq_true, decide_eq_true_eq] at h ⊢
  exact ⟨keysFrom_filter _ _ _ h.1, fun e he => h.2 e ((List.mem_filter.mp he).1)⟩

end

/-! ### Memories -/

/-- A byte read after a byte write. -/
theorem memRd_memWr (m : Memory) (a b : Nat) (v : Byte) : memRd (memWr m a v) b = if b = a then v else memRd m b :=
  mget_mput (α := Byte) m a b v memDefault

/-- A byte read after a write of bytes: inside the range the byte written, outside it the byte as before. -/
theorem memRd_memWrN (m : Memory) (a b : Nat) (bs : List Byte) :
    memRd (memWrN m a bs) b = if a ≤ b ∧ b < a + bs.length then bs.getD (b - a) 0 else memRd m b :=
  mget_mputs (α := Byte) memDefault bs m a b

/-- Every write keeps the canonical form of a memory. -/
theorem memWr_wf (m : Memory) (a : Nat) (b : Byte) (h : Memory.wf m = true) : Memory.wf (memWr m a b) = true :=
  mwf_mput (α := Byte) m a b memDefault h

theorem memWrN_wf (m : Memory) (a : Nat) (bs : List Byte) (h : Memory.wf m = true) : Memory.wf (memWrN m a bs) = true :=
  mwf_mputs (α := Byte) memDefault bs m a h

theorem memClear_wf (m : Memory) (lo hi : Nat) (h : Memory.wf m = true) : Memory.wf (memClear m lo hi) = true :=
  mwf_mdelRange (α := Byte) m memDefault lo hi h

theorem length_memRdN (m : Memory) (a n : Nat) : (memRdN m a n).length = n := by
  unfold memRdN
  induction n generalizing a with
  | zero => rfl
  | succ n ih => simp [mrange, ih]

/-- Reset memory is canonical: nothing is listed. -/
theorem reset_memories_wf : Memory.wf State.reset.dev.hbm = true ∧ Memory.wf State.reset.dev.hank = true := ⟨rfl, rfl⟩

end Sys2Proof.Machine
end

