-- ==== Sys2Proof/Laws/State.lean ====
section
/-! SUPPORT. What each update of the device leaves of every field, what an accessor reads after an update, and what `onDev` can do. -/

namespace Sys2Proof.Machine
open Sys2Proof

/-! ### Fields that an update leaves -/

section setCurFields
variable (d : Dev) (r : Reg) (i j : Nat) (v : Word)
@[simp] theorem setCur_tick : (setCur d r i j v).tick = d.tick := rfl
@[simp] theorem setCur_rung : (setCur d r i j v).rung = d.rung := rfl
@[simp] theorem setCur_rl : (setCur d r i j v).rl = d.rl := rfl
@[simp] theorem setCur_dr : (setCur d r i j v).dr = d.dr := rfl
@[simp] theorem setCur_sw : (setCur d r i j v).sw = d.sw := rfl
@[simp] theorem setCur_hp : (setCur d r i j v).hp = d.hp := rfl
@[simp] theorem setCur_ci : (setCur d r i j v).ci = d.ci := rfl
@[simp] theorem setCur_bs : (setCur d r i j v).bs = d.bs := rfl
@[simp] theorem setCur_lk : (setCur d r i j v).lk = d.lk := rfl
@[simp] theorem setCur_ft : (setCur d r i j v).ft = d.ft := rfl
@[simp] theorem setCur_pw : (setCur d r i j v).pw = d.pw := rfl
@[simp] theorem setCur_mg : (setCur d r i j v).mg = d.mg := rfl
@[simp] theorem setCur_ct : (setCur d r i j v).ct = d.ct := rfl
@[simp] theorem setCur_tm : (setCur d r i j v).tm = d.tm := rfl
@[simp] theorem setCur_hank : (setCur d r i j v).hank = d.hank := rfl
@[simp] theorem setCur_hbm : (setCur d r i j v).hbm = d.hbm := rfl
@[simp] theorem setCur_rng : (setCur d r i j v).rng = d.rng := rfl
@[simp] theorem setCur_out : (setCur d r i j v).out = d.out := rfl
end setCurFields

section setActFields
variable (d : Dev) (r : Reg) (i j : Nat) (v : Word)
@[simp] theorem setAct_tick : (setAct d r i j v).tick = d.tick := rfl
@[simp] theorem setAct_rung : (setAct d r i j v).rung = d.rung := rfl
@[simp] theorem setAct_rl : (setAct d r i j v).rl = d.rl := rfl
@[simp] theorem setAct_dr : (setAct d r i j v).dr = d.dr := rfl
@[simp] theorem setAct_sw : (setAct d r i j v).sw = d.sw := rfl
@[simp] theorem setAct_hp : (setAct d r i j v).hp = d.hp := rfl
@[simp] theorem setAct_ci : (setAct d r i j v).ci = d.ci := rfl
@[simp] theorem setAct_bs : (setAct d r i j v).bs = d.bs := rfl
@[simp] theorem setAct_lk : (setAct d r i j v).lk = d.lk := rfl
@[simp] theorem setAct_ft : (setAct d r i j v).ft = d.ft := rfl
@[simp] theorem setAct_pw : (setAct d r i j v).pw = d.pw := rfl
@[simp] theorem setAct_mg : (setAct d r i j v).mg = d.mg := rfl
@[simp] theorem setAct_ct : (setAct d r i j v).ct = d.ct := rfl
@[simp] theorem setAct_tm : (setAct d r i j v).tm = d.tm := rfl
@[simp] theorem setAct_hank : (setAct d r i j v).hank = d.hank := rfl
@[simp] theorem setAct_hbm : (setAct d r i j v).hbm = d.hbm := rfl
@[simp] theorem setAct_rng : (setAct d r i j v).rng = d.rng := rfl
@[simp] theorem setAct_out : (setAct d r i j v).out = d.out := rfl
end setActFields

section setBothFields
variable (d : Dev) (r : Reg) (i j : Nat) (v : Word)
@[simp] theorem setBoth_tick : (setBoth d r i j v).tick = d.tick := rfl
@[simp] theorem setBoth_rung : (setBoth d r i j v).rung = d.rung := rfl
@[simp] theorem setBoth_rl : (setBoth d r i j v).rl = d.rl := rfl
@[simp] theorem setBoth_dr : (setBoth d r i j v).dr = d.dr := rfl
@[simp] theorem setBoth_sw : (setBoth d r i j v).sw = d.sw := rfl
@[simp] theorem setBoth_hp : (setBoth d r i j v).hp = d.hp := rfl
@[simp] theorem setBoth_ci : (setBoth d r i j v).ci = d.ci := rfl
@[simp] theorem setBoth_bs : (setBoth d r i j v).bs = d.bs := rfl
@[simp] theorem setBoth_lk : (setBoth d r i j v).lk = d.lk := rfl
@[simp] theorem setBoth_ft : (setBoth d r i j v).ft = d.ft := rfl
@[simp] theorem setBoth_pw : (setBoth d r i j v).pw = d.pw := rfl
@[simp] theorem setBoth_mg : (setBoth d r i j v).mg = d.mg := rfl
@[simp] theorem setBoth_ct : (setBoth d r i j v).ct = d.ct := rfl
@[simp] theorem setBoth_tm : (setBoth d r i j v).tm = d.tm := rfl
@[simp] theorem setBoth_hank : (setBoth d r i j v).hank = d.hank := rfl
@[simp] theorem setBoth_hbm : (setBoth d r i j v).hbm = d.hbm := rfl
@[simp] theorem setBoth_rng : (setBoth d r i j v).rng = d.rng := rfl
@[simp] theorem setBoth_out : (setBoth d r i j v).out = d.out := rfl
end setBothFields

section setCur64Fields
variable (d : Dev) (r : Reg) (i j : Nat) (v : DWord)
@[simp] theorem setCur64_tick : (setCur64 d r i j v).tick = d.tick := rfl
@[simp] theorem setCur64_rung : (setCur64 d r i j v).rung = d.rung := rfl
@[simp] theorem setCur64_rl : (setCur64 d r i j v).rl = d.rl := rfl
@[simp] theorem setCur64_dr : (setCur64 d r i j v).dr = d.dr := rfl
@[simp] theorem setCur64_sw : (setCur64 d r i j v).sw = d.sw := rfl
@[simp] theorem setCur64_hp : (setCur64 d r i j v).hp = d.hp := rfl
@[simp] theorem setCur64_ci : (setCur64 d r i j v).ci = d.ci := rfl
@[simp] theorem setCur64_bs : (setCur64 d r i j v).bs = d.bs := rfl
@[simp] theorem setCur64_lk : (setCur64 d r i j v).lk = d.lk := rfl
@[simp] theorem setCur64_ft : (setCur64 d r i j v).ft = d.ft := rfl
@[simp] theorem setCur64_pw : (setCur64 d r i j v).pw = d.pw := rfl
@[simp] theorem setCur64_mg : (setCur64 d r i j v).mg = d.mg := rfl
@[simp] theorem setCur64_ct : (setCur64 d r i j v).ct = d.ct := rfl
@[simp] theorem setCur64_tm : (setCur64 d r i j v).tm = d.tm := rfl
@[simp] theorem setCur64_hank : (setCur64 d r i j v).hank = d.hank := rfl
@[simp] theorem setCur64_hbm : (setCur64 d r i j v).hbm = d.hbm := rfl
@[simp] theorem setCur64_rng : (setCur64 d r i j v).rng = d.rng := rfl
@[simp] theorem setCur64_out : (setCur64 d r i j v).out = d.out := rfl
end setCur64Fields

section setBoth64Fields
variable (d : Dev) (r : Reg) (i j : Nat) (v : DWord)
@[simp] theorem setBoth64_tick : (setBoth64 d r i j v).tick = d.tick := rfl
@[simp] theorem setBoth64_rung : (setBoth64 d r i j v).rung = d.rung := rfl
@[simp] theorem setBoth64_rl : (setBoth64 d r i j v).rl = d.rl := rfl
@[simp] theorem setBoth64_dr : (setBoth64 d r i j v).dr = d.dr := rfl
@[simp] theorem setBoth64_sw : (setBoth64 d r i j v).sw = d.sw := rfl
@[simp] theorem setBoth64_hp : (setBoth64 d r i j v).hp = d.hp := rfl
@[simp] theorem setBoth64_ci : (setBoth64 d r i j v).ci = d.ci := rfl
@[simp] theorem setBoth64_bs : (setBoth64 d r i j v).bs = d.bs := rfl
@[simp] theorem setBoth64_lk : (setBoth64 d r i j v).lk = d.lk := rfl
@[simp] theorem setBoth64_ft : (setBoth64 d r i j v).ft = d.ft := rfl
@[simp] theorem setBoth64_pw : (setBoth64 d r i j v).pw = d.pw := rfl
@[simp] theorem setBoth64_mg : (setBoth64 d r i j v).mg = d.mg := rfl
@[simp] theorem setBoth64_ct : (setBoth64 d r i j v).ct = d.ct := rfl
@[simp] theorem setBoth64_tm : (setBoth64 d r i j v).tm = d.tm := rfl
@[simp] theorem setBoth64_hank : (setBoth64 d r i j v).hank = d.hank := rfl
@[simp] theorem setBoth64_hbm : (setBoth64 d r i j v).hbm = d.hbm := rfl
@[simp] theorem setBoth64_rng : (setBoth64 d r i j v).rng = d.rng := rfl
@[simp] theorem setBoth64_out : (setBoth64 d r i j v).out = d.out := rfl
end setBoth64Fields

section flagFields
variable (d : Dev) (r : Reg) (i j b : Nat) (v : Bool)
@[simp] theorem flag_tick : (flag d r i j b v).tick = d.tick := rfl
@[simp] theorem flag_rung : (flag d r i j b v).rung = d.rung := rfl
@[simp] theorem flag_rl : (flag d r i j b v).rl = d.rl := rfl
@[simp] theorem flag_dr : (flag d r i j b v).dr = d.dr := rfl
@[simp] theorem flag_sw : (flag d r i j b v).sw = d.sw := rfl
@[simp] theorem flag_hp : (flag d r i j b v).hp = d.hp := rfl
@[simp] theorem flag_ci : (flag d r i j b v).ci = d.ci := rfl
@[simp] theorem flag_bs : (flag d r i j b v).bs = d.bs := rfl
@[simp] theorem flag_lk : (flag d r i j b v).lk = d.lk := rfl
@[simp] theorem flag_ft : (flag d r i j b v).ft = d.ft := rfl
@[simp] theorem flag_pw : (flag d r i j b v).pw = d.pw := rfl
@[simp] theorem flag_mg : (flag d r i j b v).mg = d.mg := rfl
@[simp] theorem flag_ct : (flag d r i j b v).ct = d.ct := rfl
@[simp] theorem flag_tm : (flag d r i j b v).tm = d.tm := rfl
@[simp] theorem flag_hank : (flag d r i j b v).hank = d.hank := rfl
@[simp] theorem flag_hbm : (flag d r i j b v).hbm = d.hbm := rfl
@[simp] theorem flag_rng : (flag d r i j b v).rng = d.rng := rfl
@[simp] theorem flag_out : (flag d r i j b v).out = d.out := rfl
end flagFields

section markDirtyFields
variable (d : Dev) (r : Reg) (i j : Nat)
@[simp] theorem markDirty_tick : (markDirty d r i j).tick = d.tick := rfl
@[simp] theorem markDirty_rung : (markDirty d r i j).rung = d.rung := rfl
@[simp] theorem markDirty_rl : (markDirty d r i j).rl = d.rl := rfl
@[simp] theorem markDirty_dr : (markDirty d r i j).dr = d.dr := rfl
@[simp] theorem markDirty_sw : (markDirty d r i j).sw = d.sw := rfl
@[simp] theorem markDirty_hp : (markDirty d r i j).hp = d.hp := rfl
@[simp] theorem markDirty_ci : (markDirty d r i j).ci = d.ci := rfl
@[simp] theorem markDirty_bs : (markDirty d r i j).bs = d.bs := rfl
@[simp] theorem markDirty_lk : (markDirty d r i j).lk = d.lk := rfl
@[simp] theorem markDirty_ft : (markDirty d r i j).ft = d.ft := rfl
@[simp] theorem markDirty_pw : (markDirty d r i j).pw = d.pw := rfl
@[simp] theorem markDirty_mg : (markDirty d r i j).mg = d.mg := rfl
@[simp] theorem markDirty_ct : (markDirty d r i j).ct = d.ct := rfl
@[simp] theorem markDirty_tm : (markDirty d r i j).tm = d.tm := rfl
@[simp] theorem markDirty_hank : (markDirty d r i j).hank = d.hank := rfl
@[simp] theorem markDirty_hbm : (markDirty d r i j).hbm = d.hbm := rfl
@[simp] theorem markDirty_rng : (markDirty d r i j).rng = d.rng := rfl
@[simp] theorem markDirty_out : (markDirty d r i j).out = d.out := rfl
end markDirtyFields

section putSoonFields
variable (d : Dev) (r : Reg) (i j : Nat) (v : Word)
@[simp] theorem putSoon_tick : (putSoon d r i j v).tick = d.tick := rfl
@[simp] theorem putSoon_rung : (putSoon d r i j v).rung = d.rung := rfl
@[simp] theorem putSoon_rl : (putSoon d r i j v).rl = d.rl := rfl
@[simp] theorem putSoon_dr : (putSoon d r i j v).dr = d.dr := rfl
@[simp] theorem putSoon_sw : (putSoon d r i j v).sw = d.sw := rfl
@[simp] theorem putSoon_hp : (putSoon d r i j v).hp = d.hp := rfl
@[simp] theorem putSoon_ci : (putSoon d r i j v).ci = d.ci := rfl
@[simp] theorem putSoon_bs : (putSoon d r i j v).bs = d.bs := rfl
@[simp] theorem putSoon_lk : (putSoon d r i j v).lk = d.lk := rfl
@[simp] theorem putSoon_ft : (putSoon d r i j v).ft = d.ft := rfl
@[simp] theorem putSoon_pw : (putSoon d r i j v).pw = d.pw := rfl
@[simp] theorem putSoon_mg : (putSoon d r i j v).mg = d.mg := rfl
@[simp] theorem putSoon_ct : (putSoon d r i j v).ct = d.ct := rfl
@[simp] theorem putSoon_tm : (putSoon d r i j v).tm = d.tm := rfl
@[simp] theorem putSoon_hank : (putSoon d r i j v).hank = d.hank := rfl
@[simp] theorem putSoon_hbm : (putSoon d r i j v).hbm = d.hbm := rfl
@[simp] theorem putSoon_rng : (putSoon d r i j v).rng = d.rng := rfl
@[simp] theorem putSoon_out : (putSoon d r i j v).out = d.out := rfl
end putSoonFields

section setLatchFields
variable (d : Dev) (p : Path) (a : Nat) (v : Word)
@[simp] theorem setLatch_tick : (setLatch d p a v).tick = d.tick := rfl
@[simp] theorem setLatch_rung : (setLatch d p a v).rung = d.rung := rfl
@[simp] theorem setLatch_rl : (setLatch d p a v).rl = d.rl := rfl
@[simp] theorem setLatch_dr : (setLatch d p a v).dr = d.dr := rfl
@[simp] theorem setLatch_sw : (setLatch d p a v).sw = d.sw := rfl
@[simp] theorem setLatch_hp : (setLatch d p a v).hp = d.hp := rfl
@[simp] theorem setLatch_ci : (setLatch d p a v).ci = d.ci := rfl
@[simp] theorem setLatch_bs : (setLatch d p a v).bs = d.bs := rfl
@[simp] theorem setLatch_lk : (setLatch d p a v).lk = d.lk := rfl
@[simp] theorem setLatch_ft : (setLatch d p a v).ft = d.ft := rfl
@[simp] theorem setLatch_pw : (setLatch d p a v).pw = d.pw := rfl
@[simp] theorem setLatch_mg : (setLatch d p a v).mg = d.mg := rfl
@[simp] theorem setLatch_ct : (setLatch d p a v).ct = d.ct := rfl
@[simp] theorem setLatch_tm : (setLatch d p a v).tm = d.tm := rfl
@[simp] theorem setLatch_hank : (setLatch d p a v).hank = d.hank := rfl
@[simp] theorem setLatch_hbm : (setLatch d p a v).hbm = d.hbm := rfl
@[simp] theorem setLatch_rng : (setLatch d p a v).rng = d.rng := rfl
@[simp] theorem setLatch_out : (setLatch d p a v).out = d.out := rfl
end setLatchFields

section setHeldFields
variable (d : Dev) (p : Path) (a : Nat) (v : Option Word)
@[simp] theorem setHeld_tick : (setHeld d p a v).tick = d.tick := rfl
@[simp] theorem setHeld_rung : (setHeld d p a v).rung = d.rung := rfl
@[simp] theorem setHeld_rl : (setHeld d p a v).rl = d.rl := rfl
@[simp] theorem setHeld_dr : (setHeld d p a v).dr = d.dr := rfl
@[simp] theorem setHeld_sw : (setHeld d p a v).sw = d.sw := rfl
@[simp] theorem setHeld_hp : (setHeld d p a v).hp = d.hp := rfl
@[simp] theorem setHeld_ci : (setHeld d p a v).ci = d.ci := rfl
@[simp] theorem setHeld_bs : (setHeld d p a v).bs = d.bs := rfl
@[simp] theorem setHeld_lk : (setHeld d p a v).lk = d.lk := rfl
@[simp] theorem setHeld_ft : (setHeld d p a v).ft = d.ft := rfl
@[simp] theorem setHeld_pw : (setHeld d p a v).pw = d.pw := rfl
@[simp] theorem setHeld_mg : (setHeld d p a v).mg = d.mg := rfl
@[simp] theorem setHeld_ct : (setHeld d p a v).ct = d.ct := rfl
@[simp] theorem setHeld_tm : (setHeld d p a v).tm = d.tm := rfl
@[simp] theorem setHeld_hank : (setHeld d p a v).hank = d.hank := rfl
@[simp] theorem setHeld_hbm : (setHeld d p a v).hbm = d.hbm := rfl
@[simp] theorem setHeld_rng : (setHeld d p a v).rng = d.rng := rfl
@[simp] theorem setHeld_out : (setHeld d p a v).out = d.out := rfl
end setHeldFields

section count32Fields
variable (d : Dev) (r : Reg) (i j : Nat)
@[simp] theorem count32_tick : (count32 d r i j).tick = d.tick := rfl
@[simp] theorem count32_rung : (count32 d r i j).rung = d.rung := rfl
@[simp] theorem count32_rl : (count32 d r i j).rl = d.rl := rfl
@[simp] theorem count32_dr : (count32 d r i j).dr = d.dr := rfl
@[simp] theorem count32_sw : (count32 d r i j).sw = d.sw := rfl
@[simp] theorem count32_hp : (count32 d r i j).hp = d.hp := rfl
@[simp] theorem count32_ci : (count32 d r i j).ci = d.ci := rfl
@[simp] theorem count32_bs : (count32 d r i j).bs = d.bs := rfl
@[simp] theorem count32_lk : (count32 d r i j).lk = d.lk := rfl
@[simp] theorem count32_ft : (count32 d r i j).ft = d.ft := rfl
@[simp] theorem count32_pw : (count32 d r i j).pw = d.pw := rfl
@[simp] theorem count32_mg : (count32 d r i j).mg = d.mg := rfl
@[simp] theorem count32_ct : (count32 d r i j).ct = d.ct := rfl
@[simp] theorem count32_tm : (count32 d r i j).tm = d.tm := rfl
@[simp] theorem count32_hank : (count32 d r i j).hank = d.hank := rfl
@[simp] theorem count32_hbm : (count32 d r i j).hbm = d.hbm := rfl
@[simp] theorem count32_rng : (count32 d r i j).rng = d.rng := rfl
@[simp] theorem count32_out : (count32 d r i j).out = d.out := rfl
end count32Fields

section countNFields
variable (d : Dev) (r : Reg) (i j n : Nat)
@[simp] theorem countN_tick : (countN d r i j n).tick = d.tick := by unfold countN; split <;> rfl
@[simp] theorem countN_rung : (countN d r i j n).rung = d.rung := by unfold countN; split <;> rfl
@[simp] theorem countN_rl : (countN d r i j n).rl = d.rl := by unfold countN; split <;> rfl
@[simp] theorem countN_dr : (countN d r i j n).dr = d.dr := by unfold countN; split <;> rfl
@[simp] theorem countN_sw : (countN d r i j n).sw = d.sw := by unfold countN; split <;> rfl
@[simp] theorem countN_hp : (countN d r i j n).hp = d.hp := by unfold countN; split <;> rfl
@[simp] theorem countN_ci : (countN d r i j n).ci = d.ci := by unfold countN; split <;> rfl
@[simp] theorem countN_bs : (countN d r i j n).bs = d.bs := by unfold countN; split <;> rfl
@[simp] theorem countN_lk : (countN d r i j n).lk = d.lk := by unfold countN; split <;> rfl
@[simp] theorem countN_ft : (countN d r i j n).ft = d.ft := by unfold countN; split <;> rfl
@[simp] theorem countN_pw : (countN d r i j n).pw = d.pw := by unfold countN; split <;> rfl
@[simp] theorem countN_mg : (countN d r i j n).mg = d.mg := by unfold countN; split <;> rfl
@[simp] theorem countN_ct : (countN d r i j n).ct = d.ct := by unfold countN; split <;> rfl
@[simp] theorem countN_tm : (countN d r i j n).tm = d.tm := by unfold countN; split <;> rfl
@[simp] theorem countN_hank : (countN d r i j n).hank = d.hank := by unfold countN; split <;> rfl
@[simp] theorem countN_hbm : (countN d r i j n).hbm = d.hbm := by unfold countN; split <;> rfl
@[simp] theorem countN_rng : (countN d r i j n).rng = d.rng := by unfold countN; split <;> rfl
@[simp] theorem countN_out : (countN d r i j n).out = d.out := by unfold countN; split <;> rfl
end countNFields

section countFields
variable (d : Dev) (r : Reg) (i j : Nat)
@[simp] theorem count_tick : (count d r i j).tick = d.tick := countN_tick d r i j 1
@[simp] theorem count_rung : (count d r i j).rung = d.rung := countN_rung d r i j 1
@[simp] theorem count_rl : (count d r i j).rl = d.rl := countN_rl d r i j 1
@[simp] theorem count_dr : (count d r i j).dr = d.dr := countN_dr d r i j 1
@[simp] theorem count_sw : (count d r i j).sw = d.sw := countN_sw d r i j 1
@[simp] theorem count_hp : (count d r i j).hp = d.hp := countN_hp d r i j 1
@[simp] theorem count_ci : (count d r i j).ci = d.ci := countN_ci d r i j 1
@[simp] theorem count_bs : (count d r i j).bs = d.bs := countN_bs d r i j 1
@[simp] theorem count_lk : (count d r i j).lk = d.lk := countN_lk d r i j 1
@[simp] theorem count_ft : (count d r i j).ft = d.ft := countN_ft d r i j 1
@[simp] theorem count_pw : (count d r i j).pw = d.pw := countN_pw d r i j 1
@[simp] theorem count_mg : (count d r i j).mg = d.mg := countN_mg d r i j 1
@[simp] theorem count_ct : (count d r i j).ct = d.ct := countN_ct d r i j 1
@[simp] theorem count_tm : (count d r i j).tm = d.tm := countN_tm d r i j 1
@[simp] theorem count_hank : (count d r i j).hank = d.hank := countN_hank d r i j 1
@[simp] theorem count_hbm : (count d r i j).hbm = d.hbm := countN_hbm d r i j 1
@[simp] theorem count_rng : (count d r i j).rng = d.rng := countN_rng d r i j 1
@[simp] theorem count_out : (count d r i j).out = d.out := countN_out d r i j 1
end countFields

section raiseFields
variable (d : Dev) (c : Nat)
@[simp] theorem raise_tick : (raise d c).tick = d.tick := by unfold raise; split <;> rfl
@[simp] theorem raise_rung : (raise d c).rung = d.rung := by unfold raise; split <;> rfl
@[simp] theorem raise_regs : (raise d c).regs = d.regs := by unfold raise; split <;> rfl
@[simp] theorem raise_rl : (raise d c).rl = d.rl := by unfold raise; split <;> rfl
@[simp] theorem raise_dr : (raise d c).dr = d.dr := by unfold raise; split <;> rfl
@[simp] theorem raise_sw : (raise d c).sw = d.sw := by unfold raise; split <;> rfl
@[simp] theorem raise_hp : (raise d c).hp = d.hp := by unfold raise; split <;> rfl
@[simp] theorem raise_ci : (raise d c).ci = d.ci := by unfold raise; split <;> rfl
@[simp] theorem raise_bs : (raise d c).bs = d.bs := by unfold raise; split <;> rfl
@[simp] theorem raise_lk : (raise d c).lk = d.lk := by unfold raise; split <;> rfl
@[simp] theorem raise_pw : (raise d c).pw = d.pw := by unfold raise; split <;> rfl
@[simp] theorem raise_mg : (raise d c).mg = d.mg := by unfold raise; split <;> rfl
@[simp] theorem raise_ct : (raise d c).ct = d.ct := by unfold raise; split <;> rfl
@[simp] theorem raise_tm : (raise d c).tm = d.tm := by unfold raise; split <;> rfl
@[simp] theorem raise_hank : (raise d c).hank = d.hank := by unfold raise; split <;> rfl
@[simp] theorem raise_hbm : (raise d c).hbm = d.hbm := by unfold raise; split <;> rfl
@[simp] theorem raise_rng : (raise d c).rng = d.rng := by unfold raise; split <;> rfl
@[simp] theorem raise_out : (raise d c).out = d.out := by unfold raise; split <;> rfl
end raiseFields

section emitFields
variable (d : Dev) (o : Out)
@[simp] theorem emit_tick : (emit d o).tick = d.tick := rfl
@[simp] theorem emit_rung : (emit d o).rung = d.rung := rfl
@[simp] theorem emit_regs : (emit d o).regs = d.regs := rfl
@[simp] theorem emit_rl : (emit d o).rl = d.rl := rfl
@[simp] theorem emit_dr : (emit d o).dr = d.dr := rfl
@[simp] theorem emit_sw : (emit d o).sw = d.sw := rfl
@[simp] theorem emit_hp : (emit d o).hp = d.hp := rfl
@[simp] theorem emit_ci : (emit d o).ci = d.ci := rfl
@[simp] theorem emit_bs : (emit d o).bs = d.bs := rfl
@[simp] theorem emit_lk : (emit d o).lk = d.lk := rfl
@[simp] theorem emit_ft : (emit d o).ft = d.ft := rfl
@[simp] theorem emit_pw : (emit d o).pw = d.pw := rfl
@[simp] theorem emit_mg : (emit d o).mg = d.mg := rfl
@[simp] theorem emit_ct : (emit d o).ct = d.ct := rfl
@[simp] theorem emit_tm : (emit d o).tm = d.tm := rfl
@[simp] theorem emit_hank : (emit d o).hank = d.hank := rfl
@[simp] theorem emit_hbm : (emit d o).hbm = d.hbm := rfl
@[simp] theorem emit_rng : (emit d o).rng = d.rng := rfl
end emitFields

section putReelFields
variable (d : Dev) (r : Nat) (x : Reel)
@[simp] theorem putReel_tick : (putReel d r x).tick = d.tick := rfl
@[simp] theorem putReel_rung : (putReel d r x).rung = d.rung := rfl
@[simp] theorem putReel_regs : (putReel d r x).regs = d.regs := rfl
@[simp] theorem putReel_dr : (putReel d r x).dr = d.dr := rfl
@[simp] theorem putReel_sw : (putReel d r x).sw = d.sw := rfl
@[simp] theorem putReel_hp : (putReel d r x).hp = d.hp := rfl
@[simp] theorem putReel_ci : (putReel d r x).ci = d.ci := rfl
@[simp] theorem putReel_bs : (putReel d r x).bs = d.bs := rfl
@[simp] theorem putReel_lk : (putReel d r x).lk = d.lk := rfl
@[simp] theorem putReel_ft : (putReel d r x).ft = d.ft := rfl
@[simp] theorem putReel_pw : (putReel d r x).pw = d.pw := rfl
@[simp] theorem putReel_mg : (putReel d r x).mg = d.mg := rfl
@[simp] theorem putReel_ct : (putReel d r x).ct = d.ct := rfl
@[simp] theorem putReel_tm : (putReel d r x).tm = d.tm := rfl
@[simp] theorem putReel_hank : (putReel d r x).hank = d.hank := rfl
@[simp] theorem putReel_hbm : (putReel d r x).hbm = d.hbm := rfl
@[simp] theorem putReel_rng : (putReel d r x).rng = d.rng := rfl
@[simp] theorem putReel_out : (putReel d r x).out = d.out := rfl
end putReelFields

section putThrFields
variable (d : Dev) (k : Nat) (t : Thread)
@[simp] theorem putThr_tick : (putThr d k t).tick = d.tick := rfl
@[simp] theorem putThr_rung : (putThr d k t).rung = d.rung := rfl
@[simp] theorem putThr_regs : (putThr d k t).regs = d.regs := rfl
@[simp] theorem putThr_dr : (putThr d k t).dr = d.dr := rfl
@[simp] theorem putThr_sw : (putThr d k t).sw = d.sw := rfl
@[simp] theorem putThr_hp : (putThr d k t).hp = d.hp := rfl
@[simp] theorem putThr_ci : (putThr d k t).ci = d.ci := rfl
@[simp] theorem putThr_bs : (putThr d k t).bs = d.bs := rfl
@[simp] theorem putThr_lk : (putThr d k t).lk = d.lk := rfl
@[simp] theorem putThr_ft : (putThr d k t).ft = d.ft := rfl
@[simp] theorem putThr_pw : (putThr d k t).pw = d.pw := rfl
@[simp] theorem putThr_mg : (putThr d k t).mg = d.mg := rfl
@[simp] theorem putThr_ct : (putThr d k t).ct = d.ct := rfl
@[simp] theorem putThr_tm : (putThr d k t).tm = d.tm := rfl
@[simp] theorem putThr_hank : (putThr d k t).hank = d.hank := rfl
@[simp] theorem putThr_hbm : (putThr d k t).hbm = d.hbm := rfl
@[simp] theorem putThr_rng : (putThr d k t).rng = d.rng := rfl
@[simp] theorem putThr_out : (putThr d k t).out = d.out := rfl
end putThrFields

section setPendFields
variable (d : Dev) (k l : Nat) (w : DWord) (src : Option Nat)
@[simp] theorem setPend_tick : (setPend d k l w src).tick = d.tick := rfl
@[simp] theorem setPend_rung : (setPend d k l w src).rung = d.rung := rfl
@[simp] theorem setPend_regs : (setPend d k l w src).regs = d.regs := rfl
@[simp] theorem setPend_rl : (setPend d k l w src).rl = d.rl := rfl
@[simp] theorem setPend_sw : (setPend d k l w src).sw = d.sw := rfl
@[simp] theorem setPend_hp : (setPend d k l w src).hp = d.hp := rfl
@[simp] theorem setPend_ci : (setPend d k l w src).ci = d.ci := rfl
@[simp] theorem setPend_bs : (setPend d k l w src).bs = d.bs := rfl
@[simp] theorem setPend_lk : (setPend d k l w src).lk = d.lk := rfl
@[simp] theorem setPend_ft : (setPend d k l w src).ft = d.ft := rfl
@[simp] theorem setPend_pw : (setPend d k l w src).pw = d.pw := rfl
@[simp] theorem setPend_mg : (setPend d k l w src).mg = d.mg := rfl
@[simp] theorem setPend_ct : (setPend d k l w src).ct = d.ct := rfl
@[simp] theorem setPend_tm : (setPend d k l w src).tm = d.tm := rfl
@[simp] theorem setPend_hank : (setPend d k l w src).hank = d.hank := rfl
@[simp] theorem setPend_hbm : (setPend d k l w src).hbm = d.hbm := rfl
@[simp] theorem setPend_rng : (setPend d k l w src).rng = d.rng := rfl
@[simp] theorem setPend_out : (setPend d k l w src).out = d.out := rfl
end setPendFields

section releaseLocksFields
variable (d : Dev) (k : Nat) (b : Bool)
@[simp] theorem releaseLocks_tick : (releaseLocks d k b).tick = d.tick := rfl
@[simp] theorem releaseLocks_rung : (releaseLocks d k b).rung = d.rung := rfl
@[simp] theorem releaseLocks_regs : (releaseLocks d k b).regs = d.regs := rfl
@[simp] theorem releaseLocks_rl : (releaseLocks d k b).rl = d.rl := rfl
@[simp] theorem releaseLocks_sw : (releaseLocks d k b).sw = d.sw := rfl
@[simp] theorem releaseLocks_hp : (releaseLocks d k b).hp = d.hp := rfl
@[simp] theorem releaseLocks_ci : (releaseLocks d k b).ci = d.ci := rfl
@[simp] theorem releaseLocks_bs : (releaseLocks d k b).bs = d.bs := rfl
@[simp] theorem releaseLocks_lk : (releaseLocks d k b).lk = d.lk := rfl
@[simp] theorem releaseLocks_ft : (releaseLocks d k b).ft = d.ft := rfl
@[simp] theorem releaseLocks_pw : (releaseLocks d k b).pw = d.pw := rfl
@[simp] theorem releaseLocks_mg : (releaseLocks d k b).mg = d.mg := rfl
@[simp] theorem releaseLocks_ct : (releaseLocks d k b).ct = d.ct := rfl
@[simp] theorem releaseLocks_tm : (releaseLocks d k b).tm = d.tm := rfl
@[simp] theorem releaseLocks_hank : (releaseLocks d k b).hank = d.hank := rfl
@[simp] theorem releaseLocks_hbm : (releaseLocks d k b).hbm = d.hbm := rfl
@[simp] theorem releaseLocks_rng : (releaseLocks d k b).rng = d.rng := rfl
@[simp] theorem releaseLocks_out : (releaseLocks d k b).out = d.out := rfl
end releaseLocksFields

section putLockFields
variable (d : Dev) (l : Nat) (x : Lock)
@[simp] theorem putLock_tick : (putLock d l x).tick = d.tick := rfl
@[simp] theorem putLock_rung : (putLock d l x).rung = d.rung := rfl
@[simp] theorem putLock_regs : (putLock d l x).regs = d.regs := rfl
@[simp] theorem putLock_rl : (putLock d l x).rl = d.rl := rfl
@[simp] theorem putLock_sw : (putLock d l x).sw = d.sw := rfl
@[simp] theorem putLock_hp : (putLock d l x).hp = d.hp := rfl
@[simp] theorem putLock_ci : (putLock d l x).ci = d.ci := rfl
@[simp] theorem putLock_bs : (putLock d l x).bs = d.bs := rfl
@[simp] theorem putLock_lk : (putLock d l x).lk = d.lk := rfl
@[simp] theorem putLock_ft : (putLock d l x).ft = d.ft := rfl
@[simp] theorem putLock_pw : (putLock d l x).pw = d.pw := rfl
@[simp] theorem putLock_mg : (putLock d l x).mg = d.mg := rfl
@[simp] theorem putLock_ct : (putLock d l x).ct = d.ct := rfl
@[simp] theorem putLock_tm : (putLock d l x).tm = d.tm := rfl
@[simp] theorem putLock_hank : (putLock d l x).hank = d.hank := rfl
@[simp] theorem putLock_hbm : (putLock d l x).hbm = d.hbm := rfl
@[simp] theorem putLock_rng : (putLock d l x).rng = d.rng := rfl
@[simp] theorem putLock_out : (putLock d l x).out = d.out := rfl
end putLockFields

section putReqFields
variable (d : Dev) (k : Nat) (q : Option LockReq)
@[simp] theorem putReq_tick : (putReq d k q).tick = d.tick := rfl
@[simp] theorem putReq_rung : (putReq d k q).rung = d.rung := rfl
@[simp] theorem putReq_regs : (putReq d k q).regs = d.regs := rfl
@[simp] theorem putReq_rl : (putReq d k q).rl = d.rl := rfl
@[simp] theorem putReq_sw : (putReq d k q).sw = d.sw := rfl
@[simp] theorem putReq_hp : (putReq d k q).hp = d.hp := rfl
@[simp] theorem putReq_ci : (putReq d k q).ci = d.ci := rfl
@[simp] theorem putReq_bs : (putReq d k q).bs = d.bs := rfl
@[simp] theorem putReq_lk : (putReq d k q).lk = d.lk := rfl
@[simp] theorem putReq_ft : (putReq d k q).ft = d.ft := rfl
@[simp] theorem putReq_pw : (putReq d k q).pw = d.pw := rfl
@[simp] theorem putReq_mg : (putReq d k q).mg = d.mg := rfl
@[simp] theorem putReq_ct : (putReq d k q).ct = d.ct := rfl
@[simp] theorem putReq_tm : (putReq d k q).tm = d.tm := rfl
@[simp] theorem putReq_hank : (putReq d k q).hank = d.hank := rfl
@[simp] theorem putReq_hbm : (putReq d k q).hbm = d.hbm := rfl
@[simp] theorem putReq_rng : (putReq d k q).rng = d.rng := rfl
@[simp] theorem putReq_out : (putReq d k q).out = d.out := rfl
end putReqFields

section putChanFields
variable (d : Dev) (c : Nat) (x : Chan)
@[simp] theorem putChan_tick : (putChan d c x).tick = d.tick := rfl
@[simp] theorem putChan_rung : (putChan d c x).rung = d.rung := rfl
@[simp] theorem putChan_regs : (putChan d c x).regs = d.regs := rfl
@[simp] theorem putChan_rl : (putChan d c x).rl = d.rl := rfl
@[simp] theorem putChan_sw : (putChan d c x).sw = d.sw := rfl
@[simp] theorem putChan_hp : (putChan d c x).hp = d.hp := rfl
@[simp] theorem putChan_ci : (putChan d c x).ci = d.ci := rfl
@[simp] theorem putChan_bs : (putChan d c x).bs = d.bs := rfl
@[simp] theorem putChan_lk : (putChan d c x).lk = d.lk := rfl
@[simp] theorem putChan_ft : (putChan d c x).ft = d.ft := rfl
@[simp] theorem putChan_pw : (putChan d c x).pw = d.pw := rfl
@[simp] theorem putChan_mg : (putChan d c x).mg = d.mg := rfl
@[simp] theorem putChan_ct : (putChan d c x).ct = d.ct := rfl
@[simp] theorem putChan_tm : (putChan d c x).tm = d.tm := rfl
@[simp] theorem putChan_hank : (putChan d c x).hank = d.hank := rfl
@[simp] theorem putChan_hbm : (putChan d c x).hbm = d.hbm := rfl
@[simp] theorem putChan_rng : (putChan d c x).rng = d.rng := rfl
@[simp] theorem putChan_out : (putChan d c x).out = d.out := rfl
end putChanFields

section putPuntFields
variable (d : Dev) (q : Nat) (x : PuntQ)
@[simp] theorem putPunt_tick : (putPunt d q x).tick = d.tick := rfl
@[simp] theorem putPunt_rung : (putPunt d q x).rung = d.rung := rfl
@[simp] theorem putPunt_regs : (putPunt d q x).regs = d.regs := rfl
@[simp] theorem putPunt_rl : (putPunt d q x).rl = d.rl := rfl
@[simp] theorem putPunt_sw : (putPunt d q x).sw = d.sw := rfl
@[simp] theorem putPunt_hp : (putPunt d q x).hp = d.hp := rfl
@[simp] theorem putPunt_ci : (putPunt d q x).ci = d.ci := rfl
@[simp] theorem putPunt_bs : (putPunt d q x).bs = d.bs := rfl
@[simp] theorem putPunt_lk : (putPunt d q x).lk = d.lk := rfl
@[simp] theorem putPunt_ft : (putPunt d q x).ft = d.ft := rfl
@[simp] theorem putPunt_pw : (putPunt d q x).pw = d.pw := rfl
@[simp] theorem putPunt_mg : (putPunt d q x).mg = d.mg := rfl
@[simp] theorem putPunt_ct : (putPunt d q x).ct = d.ct := rfl
@[simp] theorem putPunt_tm : (putPunt d q x).tm = d.tm := rfl
@[simp] theorem putPunt_hank : (putPunt d q x).hank = d.hank := rfl
@[simp] theorem putPunt_hbm : (putPunt d q x).hbm = d.hbm := rfl
@[simp] theorem putPunt_rng : (putPunt d q x).rng = d.rng := rfl
@[simp] theorem putPunt_out : (putPunt d q x).out = d.out := rfl
end putPuntFields

section putEntFields
variable (d : Dev) (t s : Nat) (e : Option TEnt)
@[simp] theorem putEnt_tick : (putEnt d t s e).tick = d.tick := rfl
@[simp] theorem putEnt_rung : (putEnt d t s e).rung = d.rung := rfl
@[simp] theorem putEnt_regs : (putEnt d t s e).regs = d.regs := rfl
@[simp] theorem putEnt_rl : (putEnt d t s e).rl = d.rl := rfl
@[simp] theorem putEnt_dr : (putEnt d t s e).dr = d.dr := rfl
@[simp] theorem putEnt_sw : (putEnt d t s e).sw = d.sw := rfl
@[simp] theorem putEnt_hp : (putEnt d t s e).hp = d.hp := rfl
@[simp] theorem putEnt_ci : (putEnt d t s e).ci = d.ci := rfl
@[simp] theorem putEnt_bs : (putEnt d t s e).bs = d.bs := rfl
@[simp] theorem putEnt_ft : (putEnt d t s e).ft = d.ft := rfl
@[simp] theorem putEnt_pw : (putEnt d t s e).pw = d.pw := rfl
@[simp] theorem putEnt_mg : (putEnt d t s e).mg = d.mg := rfl
@[simp] theorem putEnt_ct : (putEnt d t s e).ct = d.ct := rfl
@[simp] theorem putEnt_tm : (putEnt d t s e).tm = d.tm := rfl
@[simp] theorem putEnt_hank : (putEnt d t s e).hank = d.hank := rfl
@[simp] theorem putEnt_hbm : (putEnt d t s e).hbm = d.hbm := rfl
@[simp] theorem putEnt_rng : (putEnt d t s e).rng = d.rng := rfl
@[simp] theorem putEnt_out : (putEnt d t s e).out = d.out := rfl
end putEntFields

section putFrameFields
variable (d : Dev) (f : Nat) (x : Option Frame)
@[simp] theorem putFrame_tick : (putFrame d f x).tick = d.tick := rfl
@[simp] theorem putFrame_rung : (putFrame d f x).rung = d.rung := rfl
@[simp] theorem putFrame_regs : (putFrame d f x).regs = d.regs := rfl
@[simp] theorem putFrame_rl : (putFrame d f x).rl = d.rl := rfl
@[simp] theorem putFrame_dr : (putFrame d f x).dr = d.dr := rfl
@[simp] theorem putFrame_hp : (putFrame d f x).hp = d.hp := rfl
@[simp] theorem putFrame_ci : (putFrame d f x).ci = d.ci := rfl
@[simp] theorem putFrame_bs : (putFrame d f x).bs = d.bs := rfl
@[simp] theorem putFrame_lk : (putFrame d f x).lk = d.lk := rfl
@[simp] theorem putFrame_ft : (putFrame d f x).ft = d.ft := rfl
@[simp] theorem putFrame_pw : (putFrame d f x).pw = d.pw := rfl
@[simp] theorem putFrame_mg : (putFrame d f x).mg = d.mg := rfl
@[simp] theorem putFrame_ct : (putFrame d f x).ct = d.ct := rfl
@[simp] theorem putFrame_tm : (putFrame d f x).tm = d.tm := rfl
@[simp] theorem putFrame_hank : (putFrame d f x).hank = d.hank := rfl
@[simp] theorem putFrame_hbm : (putFrame d f x).hbm = d.hbm := rfl
@[simp] theorem putFrame_rng : (putFrame d f x).rng = d.rng := rfl
@[simp] theorem putFrame_out : (putFrame d f x).out = d.out := rfl
end putFrameFields

section putCopyFields
variable (d : Dev) (c : Nat) (x : Option Copy)
@[simp] theorem putCopy_tick : (putCopy d c x).tick = d.tick := rfl
@[simp] theorem putCopy_rung : (putCopy d c x).rung = d.rung := rfl
@[simp] theorem putCopy_regs : (putCopy d c x).regs = d.regs := rfl
@[simp] theorem putCopy_rl : (putCopy d c x).rl = d.rl := rfl
@[simp] theorem putCopy_dr : (putCopy d c x).dr = d.dr := rfl
@[simp] theorem putCopy_hp : (putCopy d c x).hp = d.hp := rfl
@[simp] theorem putCopy_ci : (putCopy d c x).ci = d.ci := rfl
@[simp] theorem putCopy_bs : (putCopy d c x).bs = d.bs := rfl
@[simp] theorem putCopy_lk : (putCopy d c x).lk = d.lk := rfl
@[simp] theorem putCopy_ft : (putCopy d c x).ft = d.ft := rfl
@[simp] theorem putCopy_pw : (putCopy d c x).pw = d.pw := rfl
@[simp] theorem putCopy_mg : (putCopy d c x).mg = d.mg := rfl
@[simp] theorem putCopy_ct : (putCopy d c x).ct = d.ct := rfl
@[simp] theorem putCopy_tm : (putCopy d c x).tm = d.tm := rfl
@[simp] theorem putCopy_hank : (putCopy d c x).hank = d.hank := rfl
@[simp] theorem putCopy_hbm : (putCopy d c x).hbm = d.hbm := rfl
@[simp] theorem putCopy_rng : (putCopy d c x).rng = d.rng := rfl
@[simp] theorem putCopy_out : (putCopy d c x).out = d.out := rfl
end putCopyFields

section putMeterFields
variable (d : Dev) (m : Nat) (x : Meter)
@[simp] theorem putMeter_tick : (putMeter d m x).tick = d.tick := rfl
@[simp] theorem putMeter_rung : (putMeter d m x).rung = d.rung := rfl
@[simp] theorem putMeter_regs : (putMeter d m x).regs = d.regs := rfl
@[simp] theorem putMeter_rl : (putMeter d m x).rl = d.rl := rfl
@[simp] theorem putMeter_dr : (putMeter d m x).dr = d.dr := rfl
@[simp] theorem putMeter_hp : (putMeter d m x).hp = d.hp := rfl
@[simp] theorem putMeter_ci : (putMeter d m x).ci = d.ci := rfl
@[simp] theorem putMeter_bs : (putMeter d m x).bs = d.bs := rfl
@[simp] theorem putMeter_lk : (putMeter d m x).lk = d.lk := rfl
@[simp] theorem putMeter_ft : (putMeter d m x).ft = d.ft := rfl
@[simp] theorem putMeter_pw : (putMeter d m x).pw = d.pw := rfl
@[simp] theorem putMeter_mg : (putMeter d m x).mg = d.mg := rfl
@[simp] theorem putMeter_ct : (putMeter d m x).ct = d.ct := rfl
@[simp] theorem putMeter_tm : (putMeter d m x).tm = d.tm := rfl
@[simp] theorem putMeter_hank : (putMeter d m x).hank = d.hank := rfl
@[simp] theorem putMeter_hbm : (putMeter d m x).hbm = d.hbm := rfl
@[simp] theorem putMeter_rng : (putMeter d m x).rng = d.rng := rfl
@[simp] theorem putMeter_out : (putMeter d m x).out = d.out := rfl
end putMeterFields

section putLinkFields
variable (d : Dev) (h : Nat) (l : Link)
@[simp] theorem putLink_tick : (putLink d h l).tick = d.tick := rfl
@[simp] theorem putLink_rung : (putLink d h l).rung = d.rung := rfl
@[simp] theorem putLink_regs : (putLink d h l).regs = d.regs := rfl
@[simp] theorem putLink_rl : (putLink d h l).rl = d.rl := rfl
@[simp] theorem putLink_dr : (putLink d h l).dr = d.dr := rfl
@[simp] theorem putLink_sw : (putLink d h l).sw = d.sw := rfl
@[simp] theorem putLink_ci : (putLink d h l).ci = d.ci := rfl
@[simp] theorem putLink_bs : (putLink d h l).bs = d.bs := rfl
@[simp] theorem putLink_lk : (putLink d h l).lk = d.lk := rfl
@[simp] theorem putLink_ft : (putLink d h l).ft = d.ft := rfl
@[simp] theorem putLink_pw : (putLink d h l).pw = d.pw := rfl
@[simp] theorem putLink_mg : (putLink d h l).mg = d.mg := rfl
@[simp] theorem putLink_ct : (putLink d h l).ct = d.ct := rfl
@[simp] theorem putLink_tm : (putLink d h l).tm = d.tm := rfl
@[simp] theorem putLink_hank : (putLink d h l).hank = d.hank := rfl
@[simp] theorem putLink_hbm : (putLink d h l).hbm = d.hbm := rfl
@[simp] theorem putLink_rng : (putLink d h l).rng = d.rng := rfl
@[simp] theorem putLink_out : (putLink d h l).out = d.out := rfl
end putLinkFields

section putVportFields
variable (d : Dev) (p : Nat) (v : Vport)
@[simp] theorem putVport_tick : (putVport d p v).tick = d.tick := rfl
@[simp] theorem putVport_rung : (putVport d p v).rung = d.rung := rfl
@[simp] theorem putVport_regs : (putVport d p v).regs = d.regs := rfl
@[simp] theorem putVport_rl : (putVport d p v).rl = d.rl := rfl
@[simp] theorem putVport_dr : (putVport d p v).dr = d.dr := rfl
@[simp] theorem putVport_sw : (putVport d p v).sw = d.sw := rfl
@[simp] theorem putVport_ci : (putVport d p v).ci = d.ci := rfl
@[simp] theorem putVport_bs : (putVport d p v).bs = d.bs := rfl
@[simp] theorem putVport_lk : (putVport d p v).lk = d.lk := rfl
@[simp] theorem putVport_ft : (putVport d p v).ft = d.ft := rfl
@[simp] theorem putVport_pw : (putVport d p v).pw = d.pw := rfl
@[simp] theorem putVport_mg : (putVport d p v).mg = d.mg := rfl
@[simp] theorem putVport_ct : (putVport d p v).ct = d.ct := rfl
@[simp] theorem putVport_tm : (putVport d p v).tm = d.tm := rfl
@[simp] theorem putVport_hank : (putVport d p v).hank = d.hank := rfl
@[simp] theorem putVport_hbm : (putVport d p v).hbm = d.hbm := rfl
@[simp] theorem putVport_rng : (putVport d p v).rng = d.rng := rfl
@[simp] theorem putVport_out : (putVport d p v).out = d.out := rfl
end putVportFields

section putQueueFields
variable (d : Dev) (kind q : Nat) (x : Queue)
@[simp] theorem putQueue_tick : (putQueue d kind q x).tick = d.tick := rfl
@[simp] theorem putQueue_rung : (putQueue d kind q x).rung = d.rung := rfl
@[simp] theorem putQueue_regs : (putQueue d kind q x).regs = d.regs := rfl
@[simp] theorem putQueue_rl : (putQueue d kind q x).rl = d.rl := rfl
@[simp] theorem putQueue_dr : (putQueue d kind q x).dr = d.dr := rfl
@[simp] theorem putQueue_sw : (putQueue d kind q x).sw = d.sw := rfl
@[simp] theorem putQueue_ci : (putQueue d kind q x).ci = d.ci := rfl
@[simp] theorem putQueue_bs : (putQueue d kind q x).bs = d.bs := rfl
@[simp] theorem putQueue_lk : (putQueue d kind q x).lk = d.lk := rfl
@[simp] theorem putQueue_ft : (putQueue d kind q x).ft = d.ft := rfl
@[simp] theorem putQueue_pw : (putQueue d kind q x).pw = d.pw := rfl
@[simp] theorem putQueue_mg : (putQueue d kind q x).mg = d.mg := rfl
@[simp] theorem putQueue_ct : (putQueue d kind q x).ct = d.ct := rfl
@[simp] theorem putQueue_tm : (putQueue d kind q x).tm = d.tm := rfl
@[simp] theorem putQueue_hank : (putQueue d kind q x).hank = d.hank := rfl
@[simp] theorem putQueue_hbm : (putQueue d kind q x).hbm = d.hbm := rfl
@[simp] theorem putQueue_rng : (putQueue d kind q x).rng = d.rng := rfl
@[simp] theorem putQueue_out : (putQueue d kind q x).out = d.out := rfl
end putQueueFields

section putBobFields
variable (d : Dev) (b : Nat) (x : Bobbin)
@[simp] theorem putBob_tick : (putBob d b x).tick = d.tick := rfl
@[simp] theorem putBob_rung : (putBob d b x).rung = d.rung := rfl
@[simp] theorem putBob_regs : (putBob d b x).regs = d.regs := rfl
@[simp] theorem putBob_rl : (putBob d b x).rl = d.rl := rfl
@[simp] theorem putBob_dr : (putBob d b x).dr = d.dr := rfl
@[simp] theorem putBob_sw : (putBob d b x).sw = d.sw := rfl
@[simp] theorem putBob_ci : (putBob d b x).ci = d.ci := rfl
@[simp] theorem putBob_bs : (putBob d b x).bs = d.bs := rfl
@[simp] theorem putBob_lk : (putBob d b x).lk = d.lk := rfl
@[simp] theorem putBob_ft : (putBob d b x).ft = d.ft := rfl
@[simp] theorem putBob_pw : (putBob d b x).pw = d.pw := rfl
@[simp] theorem putBob_mg : (putBob d b x).mg = d.mg := rfl
@[simp] theorem putBob_ct : (putBob d b x).ct = d.ct := rfl
@[simp] theorem putBob_tm : (putBob d b x).tm = d.tm := rfl
@[simp] theorem putBob_hank : (putBob d b x).hank = d.hank := rfl
@[simp] theorem putBob_hbm : (putBob d b x).hbm = d.hbm := rfl
@[simp] theorem putBob_rng : (putBob d b x).rng = d.rng := rfl
@[simp] theorem putBob_out : (putBob d b x).out = d.out := rfl
end putBobFields

section putConnFields
variable (d : Dev) (c : Nat) (x : Conn)
@[simp] theorem putConn_tick : (putConn d c x).tick = d.tick := rfl
@[simp] theorem putConn_rung : (putConn d c x).rung = d.rung := rfl
@[simp] theorem putConn_regs : (putConn d c x).regs = d.regs := rfl
@[simp] theorem putConn_rl : (putConn d c x).rl = d.rl := rfl
@[simp] theorem putConn_dr : (putConn d c x).dr = d.dr := rfl
@[simp] theorem putConn_sw : (putConn d c x).sw = d.sw := rfl
@[simp] theorem putConn_hp : (putConn d c x).hp = d.hp := rfl
@[simp] theorem putConn_ci : (putConn d c x).ci = d.ci := rfl
@[simp] theorem putConn_lk : (putConn d c x).lk = d.lk := rfl
@[simp] theorem putConn_ft : (putConn d c x).ft = d.ft := rfl
@[simp] theorem putConn_pw : (putConn d c x).pw = d.pw := rfl
@[simp] theorem putConn_mg : (putConn d c x).mg = d.mg := rfl
@[simp] theorem putConn_ct : (putConn d c x).ct = d.ct := rfl
@[simp] theorem putConn_tm : (putConn d c x).tm = d.tm := rfl
@[simp] theorem putConn_hank : (putConn d c x).hank = d.hank := rfl
@[simp] theorem putConn_hbm : (putConn d c x).hbm = d.hbm := rfl
@[simp] theorem putConn_rng : (putConn d c x).rng = d.rng := rfl
@[simp] theorem putConn_out : (putConn d c x).out = d.out := rfl
end putConnFields

section putCmdFields
variable (d : Dev) (c : Nat) (x : Option Cmd)
@[simp] theorem putCmd_tick : (putCmd d c x).tick = d.tick := rfl
@[simp] theorem putCmd_rung : (putCmd d c x).rung = d.rung := rfl
@[simp] theorem putCmd_regs : (putCmd d c x).regs = d.regs := rfl
@[simp] theorem putCmd_rl : (putCmd d c x).rl = d.rl := rfl
@[simp] theorem putCmd_dr : (putCmd d c x).dr = d.dr := rfl
@[simp] theorem putCmd_sw : (putCmd d c x).sw = d.sw := rfl
@[simp] theorem putCmd_hp : (putCmd d c x).hp = d.hp := rfl
@[simp] theorem putCmd_ci : (putCmd d c x).ci = d.ci := rfl
@[simp] theorem putCmd_lk : (putCmd d c x).lk = d.lk := rfl
@[simp] theorem putCmd_ft : (putCmd d c x).ft = d.ft := rfl
@[simp] theorem putCmd_pw : (putCmd d c x).pw = d.pw := rfl
@[simp] theorem putCmd_mg : (putCmd d c x).mg = d.mg := rfl
@[simp] theorem putCmd_ct : (putCmd d c x).ct = d.ct := rfl
@[simp] theorem putCmd_tm : (putCmd d c x).tm = d.tm := rfl
@[simp] theorem putCmd_hank : (putCmd d c x).hank = d.hank := rfl
@[simp] theorem putCmd_hbm : (putCmd d c x).hbm = d.hbm := rfl
@[simp] theorem putCmd_rng : (putCmd d c x).rng = d.rng := rfl
@[simp] theorem putCmd_out : (putCmd d c x).out = d.out := rfl
end putCmdFields

section putKeyFields
variable (d : Dev) (i : Nat) (x : Option KeyEnt)
@[simp] theorem putKey_tick : (putKey d i x).tick = d.tick := rfl
@[simp] theorem putKey_rung : (putKey d i x).rung = d.rung := rfl
@[simp] theorem putKey_regs : (putKey d i x).regs = d.regs := rfl
@[simp] theorem putKey_rl : (putKey d i x).rl = d.rl := rfl
@[simp] theorem putKey_dr : (putKey d i x).dr = d.dr := rfl
@[simp] theorem putKey_sw : (putKey d i x).sw = d.sw := rfl
@[simp] theorem putKey_hp : (putKey d i x).hp = d.hp := rfl
@[simp] theorem putKey_bs : (putKey d i x).bs = d.bs := rfl
@[simp] theorem putKey_lk : (putKey d i x).lk = d.lk := rfl
@[simp] theorem putKey_ft : (putKey d i x).ft = d.ft := rfl
@[simp] theorem putKey_pw : (putKey d i x).pw = d.pw := rfl
@[simp] theorem putKey_mg : (putKey d i x).mg = d.mg := rfl
@[simp] theorem putKey_ct : (putKey d i x).ct = d.ct := rfl
@[simp] theorem putKey_tm : (putKey d i x).tm = d.tm := rfl
@[simp] theorem putKey_hank : (putKey d i x).hank = d.hank := rfl
@[simp] theorem putKey_hbm : (putKey d i x).hbm = d.hbm := rfl
@[simp] theorem putKey_rng : (putKey d i x).rng = d.rng := rfl
@[simp] theorem putKey_out : (putKey d i x).out = d.out := rfl
end putKeyFields

section putHoldFields
variable (d : Dev) (f : Nat) (x : Option HoldF)
@[simp] theorem putHold_tick : (putHold d f x).tick = d.tick := rfl
@[simp] theorem putHold_rung : (putHold d f x).rung = d.rung := rfl
@[simp] theorem putHold_regs : (putHold d f x).regs = d.regs := rfl
@[simp] theorem putHold_rl : (putHold d f x).rl = d.rl := rfl
@[simp] theorem putHold_dr : (putHold d f x).dr = d.dr := rfl
@[simp] theorem putHold_sw : (putHold d f x).sw = d.sw := rfl
@[simp] theorem putHold_hp : (putHold d f x).hp = d.hp := rfl
@[simp] theorem putHold_bs : (putHold d f x).bs = d.bs := rfl
@[simp] theorem putHold_lk : (putHold d f x).lk = d.lk := rfl
@[simp] theorem putHold_ft : (putHold d f x).ft = d.ft := rfl
@[simp] theorem putHold_pw : (putHold d f x).pw = d.pw := rfl
@[simp] theorem putHold_mg : (putHold d f x).mg = d.mg := rfl
@[simp] theorem putHold_ct : (putHold d f x).ct = d.ct := rfl
@[simp] theorem putHold_tm : (putHold d f x).tm = d.tm := rfl
@[simp] theorem putHold_hank : (putHold d f x).hank = d.hank := rfl
@[simp] theorem putHold_hbm : (putHold d f x).hbm = d.hbm := rfl
@[simp] theorem putHold_rng : (putHold d f x).rng = d.rng := rfl
@[simp] theorem putHold_out : (putHold d f x).out = d.out := rfl
end putHoldFields

section putEqFields
variable (d : Dev) (c : Nat) (l : List Nat)
@[simp] theorem putEq_tick : (putEq d c l).tick = d.tick := rfl
@[simp] theorem putEq_rung : (putEq d c l).rung = d.rung := rfl
@[simp] theorem putEq_regs : (putEq d c l).regs = d.regs := rfl
@[simp] theorem putEq_rl : (putEq d c l).rl = d.rl := rfl
@[simp] theorem putEq_dr : (putEq d c l).dr = d.dr := rfl
@[simp] theorem putEq_sw : (putEq d c l).sw = d.sw := rfl
@[simp] theorem putEq_hp : (putEq d c l).hp = d.hp := rfl
@[simp] theorem putEq_bs : (putEq d c l).bs = d.bs := rfl
@[simp] theorem putEq_lk : (putEq d c l).lk = d.lk := rfl
@[simp] theorem putEq_ft : (putEq d c l).ft = d.ft := rfl
@[simp] theorem putEq_pw : (putEq d c l).pw = d.pw := rfl
@[simp] theorem putEq_mg : (putEq d c l).mg = d.mg := rfl
@[simp] theorem putEq_ct : (putEq d c l).ct = d.ct := rfl
@[simp] theorem putEq_tm : (putEq d c l).tm = d.tm := rfl
@[simp] theorem putEq_hank : (putEq d c l).hank = d.hank := rfl
@[simp] theorem putEq_hbm : (putEq d c l).hbm = d.hbm := rfl
@[simp] theorem putEq_rng : (putEq d c l).rng = d.rng := rfl
@[simp] theorem putEq_out : (putEq d c l).out = d.out := rfl
end putEqFields

section putSessFields
variable (d : Dev) (k : Nat) (x : Option Session)
@[simp] theorem putSess_tick : (putSess d k x).tick = d.tick := rfl
@[simp] theorem putSess_rung : (putSess d k x).rung = d.rung := rfl
@[simp] theorem putSess_regs : (putSess d k x).regs = d.regs := rfl
@[simp] theorem putSess_rl : (putSess d k x).rl = d.rl := rfl
@[simp] theorem putSess_dr : (putSess d k x).dr = d.dr := rfl
@[simp] theorem putSess_sw : (putSess d k x).sw = d.sw := rfl
@[simp] theorem putSess_hp : (putSess d k x).hp = d.hp := rfl
@[simp] theorem putSess_ci : (putSess d k x).ci = d.ci := rfl
@[simp] theorem putSess_bs : (putSess d k x).bs = d.bs := rfl
@[simp] theorem putSess_lk : (putSess d k x).lk = d.lk := rfl
@[simp] theorem putSess_ft : (putSess d k x).ft = d.ft := rfl
@[simp] theorem putSess_pw : (putSess d k x).pw = d.pw := rfl
@[simp] theorem putSess_mg : (putSess d k x).mg = d.mg := rfl
@[simp] theorem putSess_tm : (putSess d k x).tm = d.tm := rfl
@[simp] theorem putSess_hank : (putSess d k x).hank = d.hank := rfl
@[simp] theorem putSess_hbm : (putSess d k x).hbm = d.hbm := rfl
@[simp] theorem putSess_rng : (putSess d k x).rng = d.rng := rfl
@[simp] theorem putSess_out : (putSess d k x).out = d.out := rfl
end putSessFields

section setDomStFields
variable (d : Dev) (p v : Nat)
@[simp] theorem setDomSt_tick : (setDomSt d p v).tick = d.tick := rfl
@[simp] theorem setDomSt_rung : (setDomSt d p v).rung = d.rung := rfl
@[simp] theorem setDomSt_regs : (setDomSt d p v).regs = d.regs := rfl
@[simp] theorem setDomSt_rl : (setDomSt d p v).rl = d.rl := rfl
@[simp] theorem setDomSt_dr : (setDomSt d p v).dr = d.dr := rfl
@[simp] theorem setDomSt_sw : (setDomSt d p v).sw = d.sw := rfl
@[simp] theorem setDomSt_hp : (setDomSt d p v).hp = d.hp := rfl
@[simp] theorem setDomSt_ci : (setDomSt d p v).ci = d.ci := rfl
@[simp] theorem setDomSt_bs : (setDomSt d p v).bs = d.bs := rfl
@[simp] theorem setDomSt_lk : (setDomSt d p v).lk = d.lk := rfl
@[simp] theorem setDomSt_ft : (setDomSt d p v).ft = d.ft := rfl
@[simp] theorem setDomSt_mg : (setDomSt d p v).mg = d.mg := rfl
@[simp] theorem setDomSt_ct : (setDomSt d p v).ct = d.ct := rfl
@[simp] theorem setDomSt_tm : (setDomSt d p v).tm = d.tm := rfl
@[simp] theorem setDomSt_hank : (setDomSt d p v).hank = d.hank := rfl
@[simp] theorem setDomSt_hbm : (setDomSt d p v).hbm = d.hbm := rfl
@[simp] theorem setDomSt_rng : (setDomSt d p v).rng = d.rng := rfl
@[simp] theorem setDomSt_out : (setDomSt d p v).out = d.out := rfl
end setDomStFields

section setReelDigFields
variable (d : Dev) (r : Nat) (g : List Byte)
@[simp] theorem setReelDig_tick : (setReelDig d r g).tick = d.tick := rfl
@[simp] theorem setReelDig_rung : (setReelDig d r g).rung = d.rung := rfl
@[simp] theorem setReelDig_regs : (setReelDig d r g).regs = d.regs := rfl
@[simp] theorem setReelDig_rl : (setReelDig d r g).rl = d.rl := rfl
@[simp] theorem setReelDig_dr : (setReelDig d r g).dr = d.dr := rfl
@[simp] theorem setReelDig_sw : (setReelDig d r g).sw = d.sw := rfl
@[simp] theorem setReelDig_hp : (setReelDig d r g).hp = d.hp := rfl
@[simp] theorem setReelDig_ci : (setReelDig d r g).ci = d.ci := rfl
@[simp] theorem setReelDig_bs : (setReelDig d r g).bs = d.bs := rfl
@[simp] theorem setReelDig_lk : (setReelDig d r g).lk = d.lk := rfl
@[simp] theorem setReelDig_ft : (setReelDig d r g).ft = d.ft := rfl
@[simp] theorem setReelDig_pw : (setReelDig d r g).pw = d.pw := rfl
@[simp] theorem setReelDig_mg : (setReelDig d r g).mg = d.mg := rfl
@[simp] theorem setReelDig_tm : (setReelDig d r g).tm = d.tm := rfl
@[simp] theorem setReelDig_hank : (setReelDig d r g).hank = d.hank := rfl
@[simp] theorem setReelDig_hbm : (setReelDig d r g).hbm = d.hbm := rfl
@[simp] theorem setReelDig_rng : (setReelDig d r g).rng = d.rng := rfl
@[simp] theorem setReelDig_out : (setReelDig d r g).out = d.out := rfl
end setReelDigFields

section setCtlKeyFields
variable (d : Dev) (k : Nat) (x : Option CtlKey)
@[simp] theorem setCtlKey_tick : (setCtlKey d k x).tick = d.tick := rfl
@[simp] theorem setCtlKey_rung : (setCtlKey d k x).rung = d.rung := rfl
@[simp] theorem setCtlKey_regs : (setCtlKey d k x).regs = d.regs := rfl
@[simp] theorem setCtlKey_rl : (setCtlKey d k x).rl = d.rl := rfl
@[simp] theorem setCtlKey_dr : (setCtlKey d k x).dr = d.dr := rfl
@[simp] theorem setCtlKey_sw : (setCtlKey d k x).sw = d.sw := rfl
@[simp] theorem setCtlKey_hp : (setCtlKey d k x).hp = d.hp := rfl
@[simp] theorem setCtlKey_ci : (setCtlKey d k x).ci = d.ci := rfl
@[simp] theorem setCtlKey_bs : (setCtlKey d k x).bs = d.bs := rfl
@[simp] theorem setCtlKey_lk : (setCtlKey d k x).lk = d.lk := rfl
@[simp] theorem setCtlKey_ft : (setCtlKey d k x).ft = d.ft := rfl
@[simp] theorem setCtlKey_pw : (setCtlKey d k x).pw = d.pw := rfl
@[simp] theorem setCtlKey_mg : (setCtlKey d k x).mg = d.mg := rfl
@[simp] theorem setCtlKey_tm : (setCtlKey d k x).tm = d.tm := rfl
@[simp] theorem setCtlKey_hank : (setCtlKey d k x).hank = d.hank := rfl
@[simp] theorem setCtlKey_hbm : (setCtlKey d k x).hbm = d.hbm := rfl
@[simp] theorem setCtlKey_rng : (setCtlKey d k x).rng = d.rng := rfl
@[simp] theorem setCtlKey_out : (setCtlKey d k x).out = d.out := rfl
end setCtlKeyFields

section saSetFields
variable (d : Dev) (i st : Nat)
@[simp] theorem saSet_tick : (saSet d i st).tick = d.tick := rfl
@[simp] theorem saSet_rung : (saSet d i st).rung = d.rung := rfl
@[simp] theorem saSet_regs : (saSet d i st).regs = d.regs := rfl
@[simp] theorem saSet_rl : (saSet d i st).rl = d.rl := rfl
@[simp] theorem saSet_dr : (saSet d i st).dr = d.dr := rfl
@[simp] theorem saSet_sw : (saSet d i st).sw = d.sw := rfl
@[simp] theorem saSet_hp : (saSet d i st).hp = d.hp := rfl
@[simp] theorem saSet_bs : (saSet d i st).bs = d.bs := rfl
@[simp] theorem saSet_lk : (saSet d i st).lk = d.lk := rfl
@[simp] theorem saSet_ft : (saSet d i st).ft = d.ft := rfl
@[simp] theorem saSet_pw : (saSet d i st).pw = d.pw := rfl
@[simp] theorem saSet_mg : (saSet d i st).mg = d.mg := rfl
@[simp] theorem saSet_ct : (saSet d i st).ct = d.ct := rfl
@[simp] theorem saSet_tm : (saSet d i st).tm = d.tm := rfl
@[simp] theorem saSet_hank : (saSet d i st).hank = d.hank := rfl
@[simp] theorem saSet_hbm : (saSet d i st).hbm = d.hbm := rfl
@[simp] theorem saSet_rng : (saSet d i st).rng = d.rng := rfl
@[simp] theorem saSet_out : (saSet d i st).out = d.out := rfl
end saSetFields

section askResetFields
variable (d : Dev) (x : Nat)
@[simp] theorem askReset_tick : (askReset x d).tick = d.tick := by unfold askReset; split <;> rfl
@[simp] theorem askReset_rung : (askReset x d).rung = d.rung := by unfold askReset; split <;> rfl
@[simp] theorem askReset_regs : (askReset x d).regs = d.regs := by unfold askReset; split <;> rfl
@[simp] theorem askReset_rl : (askReset x d).rl = d.rl := by unfold askReset; split <;> rfl
@[simp] theorem askReset_dr : (askReset x d).dr = d.dr := by unfold askReset; split <;> rfl
@[simp] theorem askReset_sw : (askReset x d).sw = d.sw := by unfold askReset; split <;> rfl
@[simp] theorem askReset_hp : (askReset x d).hp = d.hp := by unfold askReset; split <;> rfl
@[simp] theorem askReset_ci : (askReset x d).ci = d.ci := by unfold askReset; split <;> rfl
@[simp] theorem askReset_bs : (askReset x d).bs = d.bs := by unfold askReset; split <;> rfl
@[simp] theorem askReset_lk : (askReset x d).lk = d.lk := by unfold askReset; split <;> rfl
@[simp] theorem askReset_ft : (askReset x d).ft = d.ft := by unfold askReset; split <;> rfl
@[simp] theorem askReset_pw : (askReset x d).pw = d.pw := by unfold askReset; split <;> rfl
@[simp] theorem askReset_mg : (askReset x d).mg = d.mg := by unfold askReset; split <;> rfl
@[simp] theorem askReset_tm : (askReset x d).tm = d.tm := by unfold askReset; split <;> rfl
@[simp] theorem askReset_hank : (askReset x d).hank = d.hank := by unfold askReset; split <;> rfl
@[simp] theorem askReset_hbm : (askReset x d).hbm = d.hbm := by unfold askReset; split <;> rfl
@[simp] theorem askReset_rng : (askReset x d).rng = d.rng := by unfold askReset; split <;> rfl
@[simp] theorem askReset_out : (askReset x d).out = d.out := by unfold askReset; split <;> rfl
end askResetFields

/-! ### What an accessor reads -/

@[simp] theorem thrOf_putThr (d : Dev) (k n : Nat) (x : Thread) : thrOf (putThr d k x) n = if n = k then x else thrOf d n :=
  mget_mput _ _ _ _ _

theorem thrOf_congr (d e : Dev) (n : Nat) (h : d.rl = e.rl) : thrOf d n = thrOf e n := by
  unfold thrOf; rw [h]

@[simp] theorem reelOf_putReel (d : Dev) (r n : Nat) (x : Reel) : reelOf (putReel d r x) n = if n = r then x else reelOf d n :=
  mget_mput _ _ _ _ _

theorem reelOf_congr (d e : Dev) (n : Nat) (h : d.rl = e.rl) : reelOf d n = reelOf e n := by
  unfold reelOf; rw [h]

@[simp] theorem lockOf_putLock (d : Dev) (l n : Nat) (x : Lock) : lockOf (putLock d l x) n = if n = l then x else lockOf d n :=
  mget_mput _ _ _ _ _

theorem lockOf_congr (d e : Dev) (n : Nat) (h : d.dr = e.dr) : lockOf d n = lockOf e n := by
  unfold lockOf; rw [h]

@[simp] theorem chanOf_putChan (d : Dev) (c n : Nat) (x : Chan) : chanOf (putChan d c x) n = if n = c then x else chanOf d n :=
  mget_mput _ _ _ _ _

theorem chanOf_congr (d e : Dev) (n : Nat) (h : d.dr = e.dr) : chanOf d n = chanOf e n := by
  unfold chanOf; rw [h]

@[simp] theorem puntOf_putPunt (d : Dev) (q n : Nat) (x : PuntQ) : puntOf (putPunt d q x) n = if n = q then x else puntOf d n :=
  mget_mput _ _ _ _ _

theorem puntOf_congr (d e : Dev) (n : Nat) (h : d.dr = e.dr) : puntOf d n = puntOf e n := by
  unfold puntOf; rw [h]

@[simp] theorem frameOf_putFrame (d : Dev) (f n : Nat) (x : Option Frame) : frameOf (putFrame d f x) n = if n = f then x else frameOf d n :=
  mget_mput _ _ _ _ _

theorem frameOf_congr (d e : Dev) (n : Nat) (h : d.sw = e.sw) : frameOf d n = frameOf e n := by
  unfold frameOf; rw [h]

@[simp] theorem copyOf_putCopy (d : Dev) (c n : Nat) (x : Option Copy) : copyOf (putCopy d c x) n = if n = c then x else copyOf d n :=
  mget_mput _ _ _ _ _

theorem copyOf_congr (d e : Dev) (n : Nat) (h : d.sw = e.sw) : copyOf d n = copyOf e n := by
  unfold copyOf; rw [h]

@[simp] theorem linkOf_putLink (d : Dev) (h n : Nat) (x : Link) : linkOf (putLink d h x) n = if n = h then x else linkOf d n :=
  mget_mput _ _ _ _ _

theorem linkOf_congr (d e : Dev) (n : Nat) (h : d.hp = e.hp) : linkOf d n = linkOf e n := by
  unfold linkOf; rw [h]

@[simp] theorem vportOf_putVport (d : Dev) (p n : Nat) (x : Vport) : vportOf (putVport d p x) n = if n = p then x else vportOf d n :=
  mget_mput _ _ _ _ _

theorem vportOf_congr (d e : Dev) (n : Nat) (h : d.hp = e.hp) : vportOf d n = vportOf e n := by
  unfold vportOf; rw [h]

@[simp] theorem bobOf_putBob (d : Dev) (b n : Nat) (x : Bobbin) : bobOf (putBob d b x) n = if n = b then x else bobOf d n :=
  mget_mput _ _ _ _ _

theorem bobOf_congr (d e : Dev) (n : Nat) (h : d.hp = e.hp) : bobOf d n = bobOf e n := by
  unfold bobOf; rw [h]

@[simp] theorem connOf_putConn (d : Dev) (c n : Nat) (x : Conn) : connOf (putConn d c x) n = if n = c then x else connOf d n :=
  mget_mput _ _ _ _ _

theorem connOf_congr (d e : Dev) (n : Nat) (h : d.bs = e.bs) : connOf d n = connOf e n := by
  unfold connOf; rw [h]

@[simp] theorem cmdOf_putCmd (d : Dev) (c n : Nat) (x : Option Cmd) : cmdOf (putCmd d c x) n = if n = c then x else cmdOf d n :=
  mget_mput _ _ _ _ _

theorem cmdOf_congr (d e : Dev) (n : Nat) (h : d.bs = e.bs) : cmdOf d n = cmdOf e n := by
  unfold cmdOf; rw [h]

@[simp] theorem keyOf_putKey (d : Dev) (i n : Nat) (x : Option KeyEnt) : keyOf (putKey d i x) n = if n = i then x else keyOf d n :=
  mget_mput _ _ _ _ _

theorem keyOf_congr (d e : Dev) (n : Nat) (h : d.ci = e.ci) : keyOf d n = keyOf e n := by
  unfold keyOf; rw [h]

@[simp] theorem holdOf_putHold (d : Dev) (f n : Nat) (x : Option HoldF) : holdOf (putHold d f x) n = if n = f then x else holdOf d n :=
  mget_mput _ _ _ _ _

theorem holdOf_congr (d e : Dev) (n : Nat) (h : d.ci = e.ci) : holdOf d n = holdOf e n := by
  unfold holdOf; rw [h]

@[simp] theorem eqOf_putEq (d : Dev) (c n : Nat) (x : List Nat) : eqOf (putEq d c x) n = if n = c then x else eqOf d n :=
  mget_mput _ _ _ _ _

theorem eqOf_congr (d e : Dev) (n : Nat) (h : d.ci = e.ci) : eqOf d n = eqOf e n := by
  unfold eqOf; rw [h]

@[simp] theorem sessOf_putSess (d : Dev) (k n : Nat) (x : Option Session) : sessOf (putSess d k x) n = if n = k then x else sessOf d n :=
  mget_mput _ _ _ _ _

theorem sessOf_congr (d e : Dev) (n : Nat) (h : d.ct = e.ct) : sessOf d n = sessOf e n := by
  unfold sessOf; rw [h]

@[simp] theorem domSt_setDomSt (d : Dev) (p n : Nat) (x : Nat) : domSt (setDomSt d p x) n = if n = p then x else domSt d n :=
  mget_mput _ _ _ _ _

theorem domSt_congr (d e : Dev) (n : Nat) (h : d.pw = e.pw) : domSt d n = domSt e n := by
  unfold domSt; rw [h]

@[simp] theorem queueOf_putQueue (d : Dev) (k q k' q' : Nat) (x : Queue) :
    queueOf (putQueue d k q x) k' q' = if qkey k' q' = qkey k q then x else queueOf d k' q' := mget_mput _ _ _ _ _

@[simp] theorem entOf_putEnt (d : Dev) (t s t' s' : Nat) (e : Option TEnt) :
    entOf (putEnt d t s e) t' s' = if slotKey t' s' = slotKey t s then e else entOf d t' s' := mget_mput _ _ _ _ _

theorem cfg_congr (d e : Dev) (r : Reg) (i j : Nat) (h : d.regs = e.regs) : cfg d r i j = cfg e r i j := by unfold cfg; rw [h]
theorem cur_congr (d e : Dev) (r : Reg) (i j : Nat) (h : d.regs = e.regs) : cur d r i j = cur e r i j := by unfold cur; rw [h]

/-- A read of a register word after a write of one: the same word reads the value written, another address is as before. -/
@[simp] theorem cur_setCur_self (d : Dev) (r : Reg) (i j : Nat) (v : Word) : cur (setCur d r i j v) r i j = v := by
  unfold cur setCur
  rw [mget_mput, if_pos rfl]

theorem cur_setCur_other (d : Dev) (r q : Reg) (i j k l : Nat) (v : Word) (h : addr q k l ≠ addr r i j) :
    cur (setCur d r i j v) q k l = cur d q k l := by
  unfold cur setCur mget
  rw [mfind_mput, if_neg h]

@[simp] theorem cfg_setCur (d : Dev) (r q : Reg) (i j k l : Nat) (v : Word) : cfg (setCur d r i j v) q k l = cfg d q k l := rfl
@[simp] theorem cur_setAct (d : Dev) (r q : Reg) (i j k l : Nat) (v : Word) : cur (setAct d r i j v) q k l = cur d q k l := rfl

@[simp] theorem cfg_setAct_self (d : Dev) (r : Reg) (i j : Nat) (v : Word) : cfg (setAct d r i j v) r i j = v := by
  unfold cfg setAct
  rw [mget_mput, if_pos rfl]

@[simp] theorem cur_setBoth_self (d : Dev) (r : Reg) (i j : Nat) (v : Word) : cur (setBoth d r i j v) r i j = v := by
  unfold setBoth
  rw [cur_setAct, cur_setCur_self]

@[simp] theorem cfg_setBoth_self (d : Dev) (r : Reg) (i j : Nat) (v : Word) : cfg (setBoth d r i j v) r i j = v := by
  unfold setBoth
  rw [cfg_setAct_self]

@[simp] theorem cur_flag_self (d : Dev) (r : Reg) (i j b : Nat) (v : Bool) : cur (flag d r i j b v) r i j = setBit (cur d r i j) b v := by
  unfold flag
  rw [cur_setCur_self]

theorem cur_count_self (d : Dev) (r : Reg) (i j : Nat) : cur (count d r i j) r i j = bumpSat (cur d r i j) 1 := by
  unfold count countN
  simp

theorem cfg_count (d : Dev) (r q : Reg) (i j k l : Nat) : cfg (count d r i j) q k l = cfg d q k l := by
  unfold count countN
  split <;> rfl

/-- A raise is recorded once for a boundary (R469). -/
theorem mem_raise (d : Dev) (c n : Nat) : n ∈ (raise d c).ft.raising ↔ n ∈ d.ft.raising ∨ n = c := by
  unfold raise
  split
  · rename_i h
    constructor
    · exact Or.inl
    · rintro (h' | rfl)
      · exact h'
      · exact h
  · simp

/-! ### What a command of the device can do -/

/-- A command of the device runs; it changes nothing but what a device reset clears, and nothing at all while the device is held. -/
theorem onDev_next (f : Dev → Dev) (s : State) :
    ∃ u, onDev f s = .next u ∧ u = { s with dev := u.dev } ∧ (s.board.held = true → u = s) ∧ (s.board.held = false → u.dev = f s.dev) := by
  refine ⟨_, rfl, ?_, ?_, ?_⟩ <;> cases h : s.board.held <;> simp

theorem onDev_live (f : Dev → Dev) (s : State) (h : s.board.held = false) : onDev f s = .next { s with dev := f s.dev } := by
  simp [onDev, h]

theorem onDev_held (f : Dev → Dev) (s : State) (h : s.board.held = true) : onDev f s = .next s := by simp [onDev, h]

/-- A command of the security processor that is not in progress changes nothing; one that is runs on its frame. -/
theorem withCmd_cases (op : Nat) (f : CmdRun → State → State) (s : State) :
    withCmd op f s = s ∨ ∃ r, s.dev.ct.busy = some r ∧ r.opcode = op ∧ s.board.held = false ∧ withCmd op f s = f r s := by
  unfold withCmd
  split
  · rename_i r h
    split
    · rename_i h'
      rw [Bool.and_eq_true, Bool.not_eq_true', decide_eq_true_eq] at h'
      exact Or.inr ⟨r, h, h'.2, h'.1, rfl⟩
    · exact Or.inl rfl
  · exact Or.inl rfl

/-- A reset that cuts a rollback advance short lowers nothing (R423). -/
theorem cutFuses_rollback (s : State) : s.otp.rollback ≤ (cutFuses s).rollback := by
  unfold cutFuses
  split
  · exact Nat.le_refl _
  · exact Nat.le_add_right _ _

end Sys2Proof.Machine
end

