-- ==== Sys2Proof/Tests/Slice0.lean ====
section
/-! SUPPORT. Tests: a term that each check of WellFormed refuses, worked examples of the spec, and for the statements with hypotheses concrete
states that meet them. -/

namespace Sys2Proof.Tests
open Sys2Proof Sys2Proof.Machine Sys2Proof.Claims

/-! ### Small states -/

/-- The device after reset, changed by a function. -/
def st (f : Dev → Dev) : State := { State.reset with dev := f State.reset.dev }

/-- Packet thread 0 and service thread 7 of reel 0. -/
def t0 : Tid := ⟨0, 0⟩
def t7 : Tid := ⟨0, 7⟩

/-- A skein of a 64-byte frame. -/
def sk : Skein := ⟨1, 64, 2, 3, 4, 5, 0, 0, [], 0⟩

/-- An admitted reel whose thread 7 is a service thread; both threads have 1 KiB of local memory. -/
def reelA : Reel := { Reel.reset with st := .admitted, cfg := [(0, ⟨false, 0, 1⟩), (7, ⟨true, 1, 1⟩)] }

/-- A thread that may issue, in stage 1 of 2. -/
def thrR : Thread := { Thread.reset with run := .ready, stageNo := 1, stageCnt := 2, g := [(1, 5), (2, 7)] }

/-- Reel 0 in service with both threads ready; thread 0 holds the skein. -/
def run (f : Thread → Thread) (d : Dev) : Dev :=
  putThr (putThr (putReel { d with tick := 100 } 0 reelA) 0 (f { thrR with skein := some sk })) 7 (f thrR)

/-! ### WellFormed refuses -/

theorem test_wf_addr : wellFormed (.registerWrite .ctl true 2 0) = false := by decide
theorem test_wf_frame : wellFormed (.frameArrival 0 [] 32000) = false := by decide
theorem test_wf_droop : wellFormed (.droopSkip 64) = false := by decide
theorem test_wf_rec : wellFormed (.mbrRecord 0 ⟨0x13, 0, 0, 8, 0, 0, 0, []⟩) = false := by decide
theorem test_wf_send : wellFormed (.dataFrameSend 0 []) = false := by decide
theorem test_wf_queue : wellFormed (.qctxRead 2 16384) = false := by decide
theorem test_wf_queue_kind : wellFormed (.qctxRead 3 0) = false := by decide
theorem test_wf_measure : wellFormed (.marginMeasure ⟨[], 0, [], []⟩) = false := by decide
theorem test_wf_hbm : wellFormed (.memUncorrectable (.hbm 0xC00000000)) = false := by decide
theorem test_wf_pps : wellFormed (.ppsInEdge false 32000) = false := by decide
theorem test_wf_pll : wellFormed (.pllLock true [⟨[], 0, [], []⟩]) = false := by decide

/-! ### Worked values of the spec -/

/-- R464, R466: a counter saturates at 0x7FFF_FFFF and sets SAT. -/
theorem test_counter_saturates : bumpSat 0x7FFFFFFF 1 = 0xFFFFFFFF := by decide

/-- R522: IDCODE. -/
theorem test_idcode : tapIdcode = 0x164080F3 := rfl

/-- R48, R49: the tick count moves by one and the queue is served from its front. -/
theorem test_step_queue : (step { State.reset with pending := [.captureFree, .nop t0] }) = exec .captureFree { State.reset with pending := [.nop t0] } :=
  rfl

/-- R80: 5 − 7 at W = 1 sets N and no C (no borrow is C). -/
theorem test_decode_nop : decodeWhorl 0x02000000 = .ok .nop := by decide

/-! ### States that meet the hypotheses: reels, threads, instructions -/

theorem test_meets_may_issue : ∀ i ∈ [Whorl.alu .add 3 1 2 false true, .alu .csum 3 1 2 true false, .un .clz 3 1 false true, .un .popc 0 1 true false,
    .un .bswap 3 1 false false, .sel 3 1 2 false 1, .imm .addi 3 1 false true 0xFFF, .movi 3 2 true 1, .bf .ext 3 1 0 63, .bf .exts 3 1 0 63,
    .bf .ins 3 1 0 63, .bf .exth 3 31 0 31, .bf .insh 3 1 0 31], MayIssue (st (run id)) t0 i := by decide

theorem test_meets_may_issue_flow : ∀ i ∈ [Whorl.lm .ld 3 0 3 1016, .lm .ldsx 3 0 0 0, .lm .st 0 0 3 1016, .mfs 3 0x008, .mts 1 0x001, .nop,
    .bc 14 false 65434, .brc 1 1 2 511, .loop 15 63, .stage, .edit 0x04 1 0, .verdict .drop 0 0 0x40, .verdict .fwd 1 0 0,
    .post .lkpMacDst 0 0 1 0, .post .lockAcq 1 0 1 2, .post .cattAttach 0 0 1 0], MayIssue (st (run id)) t0 i := by decide

theorem test_meets_may_issue_service : ∀ i ∈ [Whorl.jal true 101, .jr 1, .wait 1 2, .stage, .bc 0 true 1, .post .frmAlloc 0 0 0 0],
    MayIssue (st (run id)) t7 i := by decide

theorem test_meets_local_memory : (specRd (thread (st (run id)) t0) 0 + (1016 : BitVec 12).setWidth 64).toNat + 2 ^ (3 : BitVec 2).toNat ≤
    (thrCfg (st (run id)).dev (tkey t0)).lmSize * 1024 := by decide

theorem test_meets_branch : (thread (st (run fun t => { t with pc := 100 })) t0).pc + 1 + 65434 = 65535 ∧
    (thread (st (run fun t => { t with pc := 65471 })) t0).pc + (63 + 1) ≤ 65535 := by decide

theorem test_meets_posted : (∀ n ∈ [0, 7, 8], MayIssue (st (run fun t => { t with posted := n })) t0 (.post (.hash 0) 0 0 1 2)) ∧
    8 ≤ (thread (st (run fun t => { t with posted := 8 })) t0).posted ∧ (thread (st (run fun t => { t with posted := 7 })) t0).posted < 8 ∧
    bit (cur (st (run id)).dev .rlFaultInfo t0.reel 0) 31 = false := by decide

theorem test_meets_stage : service (st (run id)) t7 = true ∧ (thread (st (run id)) t0).stageNo < (thread (st (run id)) t0).stageCnt ∧
    (thread (st (run id)) t0).edits.length < 16 ∧ (thread (st (run id)) t0).skein = some sk := by decide

theorem test_meets_wait_timeout : (thread (st (run fun t => { t with run := .waiting 0 (some 100) })) t7).run = .waiting 0 (some 100) ∧
    100 ≤ (st (run id)).dev.tick ∧ nextEvent (st (run fun t => { t with run := .waiting 0 (some 100) })).dev (tkey t7) 0 = none := by decide

theorem test_meets_illegal : threadReady (thread (st (run id)) t0) = true ∧ brkHit (st (run id)).dev (tkey t0) 0 = false ∧
    decodeWhorl 0 = .bad 0x01 ∧ (thread (st (run id)) t0).skein.isSome = true ∧ service (st (run id)) t0 = false := by decide

/-- The state of `run` with debug enabled and the debug state of both threads as given. -/
def stDbg (x : Dbg) : State := st fun d => { run (fun t => { t with dbg := x }) d with ct := { d.ct with debugEn := true } }

theorem test_meets_debug : Live (stDbg Thread.reset.dbg) ∧ (stDbg Thread.reset.dbg).dev.ct.debugEn = true ∧
    awake (stDbg Thread.reset.dbg).dev t0.reel = true ∧ (thread (stDbg Thread.reset.dbg) t0).dbg.halted = false ∧
    (thread (stDbg Thread.reset.dbg) t0).dbg.faulted = false ∧
    (thread (stDbg { Thread.reset.dbg with halted := true }) t0).dbg.halted = true ∧
    (thread (stDbg { Thread.reset.dbg with halted := true }) t0).run = .ready ∧
    (thread (stDbg { Thread.reset.dbg with faulted := true }) t0).dbg.faulted = true ∧
    (thread (stDbg { Thread.reset.dbg with faulted := true }) t0).dbg.halted = false := by decide

theorem test_meets_breakpoint : (thread (stDbg Thread.reset.dbg) t0).dbg.passed ≠ some (thread (stDbg Thread.reset.dbg) t0).pc ∧
    brkHit (st fun d => { setBoth (run id d) .rlBrk 0 0 0x01010000 with ct := { d.ct with debugEn := true } }).dev (tkey t0) 0 = true := by decide

theorem test_meets_droop : rungCycles 0 = ((rungCycles 0).1, (rungCycles 0).2) ∧ (st fun d => { d with rl := { d.rl with skips := [3] } }).dev.rl.skips = 3 :: [] := by
  decide

theorem test_meets_reel_events :
    (reelOf (putReel State.reset.dev 3 { Reel.reset with st := .draining }) 3).st = .draining ∧
    reelBusy (putReel State.reset.dev 3 { Reel.reset with st := .draining }) 3 = false ∧
    (reelOf (putReel State.reset.dev 3 { Reel.reset with st := .loading, img := 7 }) 3).st = .loading ∧
    storeImage (putReel State.reset.dev 3 { Reel.reset with st := .loading, img := 7 }) 7 = none ∧
    (reelOf (putReel State.reset.dev 32 { Reel.reset with st := .spare, claimed := true }) 32).claimed = true := by decide

/-! ### Locks, channels, groups -/

theorem test_meets_lock : lockRank State.reset.dev 4095 = none ∧ (lockOf State.reset.dev 4095).holder = none ∧
    (lockOf (putLock State.reset.dev 5 ⟨some 64, true, []⟩) 5).holder = some 64 := by decide

theorem test_meets_expiries : reqOf (putReq { State.reset.dev with tick := 9 } 7 (some ⟨5, 9⟩)) (tkey t7) = some ⟨5, 9⟩ ∧
    cfgB (setBoth State.reset.dev .tkWgCfg 255 0 0x80000000) .tkWgCfg 255 0 31 = true ∧
    orIf0 (cfgF (setBoth State.reset.dev .tkWgCfg 255 0 0x80000000) .tkWgCfg 255 0 0 16) 1 ≤ mget [(255, 1)] 255 0 := by decide

/-! ### States that meet the hypotheses: what is served at the boundary, the debug unit, reel events -/

/-- The posted operation `op` of thread 0 with operands `a` and `b`. -/
def postA (op : POp) (a b : DWord) : Posted := ⟨0, 0, op, 0, 2, a, 0, b, 0, false, 0, 0, some sk⟩

theorem test_meets_debug_held : holdsSkein (thread (stDbg Thread.reset.dbg) t0) = true ∧ (thread (stDbg Thread.reset.dbg) t0).run ≠ .off ∧
    (thread (st fun d => putThr (run id d) 7 { thrR with run := .staged, dbg := { Thread.reset.dbg with halted := true } }) t7).run ≠ .ready := by
  decide

theorem test_meets_step : decodeWhorl (whorlWord (.alu .add 3 1 2 false true)) = .ok (.alu .add 3 1 2 false true) ∧
    (thread (stDbg { Thread.reset.dbg with halted := true }) t0).pc < 65536 := by decide

theorem test_meets_reel_pend : (reelOf (st (run id)).dev 0).pend = .none ∧ (reelOf (st (run id)).dev 0).st ≠ .off ∧
    (reelOf (st (run id)).dev 0).st ≠ .failed ∧ (reelOf (putReel State.reset.dev 32 { Reel.reset with st := .spare, claimed := true }) 32).claimed = true := by
  decide

theorem test_meets_result : let x := thrOf (run id State.reset.dev) 0
    x.dbg.faulted = false ∧ x.run ≠ .off ∧ x.skein = (postA .lockTry 0 0).skein ∧ holdsSkein x = true ∧ (postA .lockTry 0 0).stepped = false ∧
    (∀ e ∈ x.pby, e.2 ≤ (postA .lockTry 0 0).no + 1) := by decide

/-- A MAC entry of key 5 in bridge domain 0, and a flow entry of key 5, 6. -/
def entM : TEnt := ⟨[5], 0x01000003, [7], 0, none⟩
def entF_ : TEnt := ⟨[5, 6], 0x01000000, [1, 2, 3, 4], 0, none⟩
def stMac : State := st fun d => putEnt (putEnt d 0 9 (some entM)) 4 8 (some entF_)

theorem test_meets_lookups : lookupKey stMac.dev 0 [(postA .lkpMacDst 5 0).a &&& 0x0FFFFFFFFFFFFFFF] = .found 9 entM ∧
    findKey stMac.dev 0 [5] = some (9, entM) ∧ badFor stMac.dev 0 [5] = [] ∧ lookupKey stMac.dev 0 [6] = .miss ∧
    lookupKey stMac.dev 4 [5, 6] = .found 8 entF_ ∧ entF_.absent = false ∧ findKey stMac.dev 4 [5, 6] = some (8, entF_) ∧ badFor stMac.dev 4 [5, 6] = [] ∧
    lookupKey stMac.dev 4 [5, 7] = .miss ∧ findAny stMac.dev 4 [5, 7] = none ∧ hbmEn stMac.dev = false ∧ stMac.dev.lk.inserted < 128 ∧
    (search State.reset.dev 4 [5, 7]).map (·.1) = some [] := by decide +kernel

theorem test_meets_learning : let d := setBoth (setBoth State.reset.dev .lkBdCfg 0 0 0xA0000000) .lkDomQuota 0 0 10
    cfgB d .lkBdCfg 0 0 31 = true ∧ cfgB d .lkBdCfg 0 0 29 = true ∧ domUse d (cfgF d .lkBdCfg 0 0 0 8) < cfgF d .lkDomQuota (cfgF d .lkBdCfg 0 0 0 8) 0 0 19 ∧
    d.lk.learned < 64 ∧ sk.input < 25 ∧ (search d 0 [6]).map (·.1) = some [] ∧ findAny d 0 [6] = none := by decide +kernel

theorem test_meets_hbm_flow : let d := setBoth State.reset.dev .lkFlowCfg 0 0 0x80000000
    hbmEn d = true ∧ flowInit d = false ∧ promoting d [5, 6] = false ∧ d.lk.promos.length < 256 := by decide

theorem test_meets_locks : lockRank State.reset.dev 5 = none ∧ (lockOf State.reset.dev 5).holder = none ∧
    (lockOf (putLock State.reset.dev 5 ⟨some 64, false, []⟩) 5).holder = some 64 ∧ reqOf State.reset.dev 0 = none := by decide +kernel

/-- Channel 0 enabled with a depth of 2 and one published slot of three words. -/
def stChan : State := st fun d =>
  let d := setBoth (setBoth d .drChanCfg0 0 0 0x80000001) .drChanCfg1 0 0 1
  putChan d 0 { next := 1, oldest := 0, readable := 1, slots := [(0, some ⟨.published, 3, [(0, 1), (1, 2), (2, 3)], 0, 0⟩)] }

theorem test_meets_channels : chanEn stChan.dev 0 = true ∧ chanEn State.reset.dev 0 = false ∧ (chanOf stChan.dev 0).slots.length < chanDepth stChan.dev 0 ∧
    (chanOf stChan.dev 0).readable ≠ 0 ∧ (mget (chanOf stChan.dev 0).slots (chanOf stChan.dev 0).oldest none).isSome = true ∧
    (handleSlot stChan.dev 0 0) = none := by decide +kernel

/-! ### States that meet the hypotheses: registers and configuration (statements of the chapters on registers, tables and areas) -/

/-- The stored and the used word of a register of the device after reset. -/
def regSt (r : Reg) (i j : Nat) (v : Word) : State := st fun d => setBoth d r i j v

/-- A domain of the device after reset asleep. -/
def domSt_ (p v : Nat) (d : Dev) : Dev := { d with pw := { d.pw with st := mput d.pw.st p v 0 } }

/-- Sampler, rings and further addresses: Live states on which the statements about registers have content. -/
theorem test_meets_register_writes : Live State.reset ∧ inner .ctl = true ∧ inner .sp = true ∧ locate 0xFFFFFFFC = none ∧
    locate 3 = none := by decide

set_option maxRecDepth 20000 in
theorem test_meets_commit : Live State.reset ∧ awake State.reset.dev 41 = true ∧ commitRefused State.reset.dev .bs = false ∧
    commitRefused (setCur (setCur State.reset.dev .ctIsoCfg 0 0 0x80000000) .ciCacheShare 255 0 16385) .ci = true ∧
    commitRefused (setCur State.reset.dev .ctIsoCfg 0 0 0x80000000) .ci = false := by decide

theorem test_meets_command_busy : Live (regSt .lkCmd 3 0 0x80000000) ∧ awake (regSt .lkCmd 3 0 0x80000000).dev 41 = true ∧
    bit (cur (regSt .lkCmd 3 0 0x80000000).dev .lkCmd 3 0) 31 = true ∧ bit (cur State.reset.dev .lkCmd 3 0) 31 = false ∧
    bit (cur State.reset.dev .bbQcmd 0 0) 31 = false := by decide

theorem test_meets_command_row : ⟨.lkRead 3 7 true 0xFFFFF, .lkCmd, 3, [(0, 4, 1), (4, 3, 7), (9, 1, 1), (10, 20, 0xFFFFF)]⟩ ∈
    busyRows 3 7 true 0xFFFFF 0 0 0 0 := .head _

theorem test_meets_lock_configuration : Live State.reset ∧ (lockOf State.reset.dev 4095).holder = none ∧
    (lockOf (putLock State.reset.dev 4095 ⟨some 64, false, []⟩) 4095).holder ≠ none := by decide

theorem test_meets_channel_configuration : bit (cur (regSt .drChanCfg0 4095 0 0x80000001).dev .drChanCfg0 4095 0) 31 = true ∧
    bit (cur State.reset.dev .drChanCfg0 4095 0) 31 = false ∧
    (fld (0xFFFFF80A : Word) 6 20 * 64 + 64 * 2 ^ fld (0xFFFFF80A : Word) 0 4 ≤ 2 ^ 26) = false := by decide

theorem test_meets_group_configuration : fld (0x80070000 : Word) 22 6 ≤ 32 ∧ isService (st (run id)).dev (64 * 0 + 7) = true ∧
    (reelOf (st (run id)).dev 0).st ≠ .off ∧ Live (st (run id)) := by decide

set_option maxRecDepth 20000 in
theorem test_meets_event_binding : Live (st (run id)) ∧ awake (st (run id)).dev t7.reel.val = true ∧
    isRecovery (st fun d => setBoth (run id d) .tkWgCfg 0 0 0x80070000).dev (tkey t7) = true ∧ isRecovery (st (run id)).dev (tkey t7) = false := by
  decide

theorem test_meets_areas : bit (cur (regSt .tkFrmCfg 0 0 0x80000001).dev .tkFrmCfg 0 0) 31 = true ∧
    (0x40 : Word) &&& 0x3FFFFC0 ≠ cur (regSt .tkFrmCfg 0 0 0x80000001).dev .tkFrmBase 0 0 ∧
    [(0, none)] ≠ ([] : List (Nat × Option Nat)) ∧ bit (cur State.reset.dev .tkFrmCfg 0 0) 31 = false := by decide

theorem test_meets_flow_area : (0x80001600 : Word) &&& 0x80001F03 ≠ cur State.reset.dev .lkFlowCfg 0 0 &&& 0x80001F03 ∧
    entsOf State.reset.dev 4 = [] ∧ fld (0x80001600 : Word) 8 5 < 23 ∧ 23 ≤ fld (0x80001700 : Word) 8 5 ∧
    bit (cur State.reset.dev .lkFlowCfg 0 0) 31 = false := by decide

theorem test_meets_counter_area : fld (cur64 State.reset.dev .ftCntCfg 0 0) 32 25 = 0 ∧ 16777216 < fld (0x0100000100000000 : BitVec 64) 32 25 ∧
    fld (0x0100000000000000 : BitVec 64) 32 25 ≤ 16777216 ∧ 1 ≤ fld (0x0100000000000000 : BitVec 64) 32 25 ∧
    4096 * fld (0x0100000000000000 : BitVec 64) 0 24 + 16 * fld (0x0100000000000000 : BitVec 64) 32 25 ≤ 0xBC0000000 ∧
    pairsOf (0x0100000000000000 : BitVec 64) ≠ pairsOf (0x0000000100000000 : BitVec 64) ∧ fld (0x0000000100000000 : BitVec 64) 32 25 ≠ 0 := by decide

theorem test_meets_bb_configuration : bit (cur (regSt .ctLock 0 0 1).dev .ctLock 0 0) 0 = true ∧ fld (5 : Word) 0 11 ≠ fld (cur (regSt .ctLock 0 0 1).dev .bbCfg 0 0) 0 11 := by
  decide

theorem test_meets_receiver : isService (st (run id)).dev (64 * fld (0x80070000 : Word) 24 6 + fld (0x80070000 : Word) 16 6) = true ∧
    bit (cur (st (run id)).dev .mbRcvCfg 255 0) 31 = false := by decide

theorem test_meets_ring_and_sampler : bit (cur (regSt .lkRingCfg 3 0 0x80000000).dev .lkRingCfg 3 0) 31 = true ∧
    bit (cur State.reset.dev .lkRingCfg 3 0) 31 = false ∧ bit (cur (regSt .scSmpCfg 0 0 0x80000000).dev .scSmpCfg 0 0) 31 = true ∧
    bit (cur State.reset.dev .scSmpCfg 0 0) 31 = false ∧ bit (cur (regSt .swPeCommit 0 0 2).dev .swPeCommit 0 0) 1 = true := by decide

/-! ### Reads that take or latch -/

/-- A device whose log, rekey queue, locked stripes and timestamps hold one entry each. -/
def stQueues : State := st fun d => { d with
  ft := { d.ft with log := [(0x80000001, 2 ^ 63)] }, ci := { d.ci with rekey := [(1048575, true)] },
  bs := { d.bs with kept := [(65535, 2 ^ 48 - 1)] }, tm := { d.tm with fifo := [(16, [⟨1, 2, 3, 4, 5⟩])], lost := [16] } }

theorem test_meets_reads : Live stQueues ∧ inner .ctl = true ∧ awake stQueues.dev 41 = true ∧ stQueues.dev.ft.log ≠ [] ∧
    stQueues.dev.ci.rekey ≠ [] ∧ stQueues.dev.bs.kept ≠ [] ∧ mget stQueues.dev.tm.fifo (16 : Fin 17) [] ≠ [] ∧ 16 ∈ stQueues.dev.tm.lost ∧
    cfgF (setBoth64 (regSt .ftCntRdIdx 0 0 1).dev .ftCntCfg 0 0 0x200000000) .ftCntRdIdx 0 0 0 24 = 1 ∧
    1 < (pairsOf (cfg64 (setBoth64 (regSt .ftCntRdIdx 0 0 1).dev .ftCntCfg 0 0 0x200000000) .ftCntCfg 0 0)).1 := by decide

theorem test_meets_reel_commands : Live State.reset ∧ awake State.reset.dev 32 = true ∧
    awake (domSt_ 32 3 State.reset.dev) 32 = false ∧ awake State.reset.dev 0 = true := by decide

/-! ### Commands with a BUSY bit where they succeed, and reads of words -/

/-- An entry of the tunnel map with key 5, unconfirmed, and command words that write it. -/
def entT : TEnt := ⟨[5], 0x01020000, [7, 8], 0, none⟩
def wsT : List DWord := [5, 0x01020000, 7, 8]

/-- The entry in slot `k` of a table. -/
def stEnt (t k : Nat) (e : TEnt) : State := st fun d => putEnt d t k (some e)

theorem test_meets_lookup_commands :
    let d := (stEnt 3 65536 entT).dev
    (65536 : BitVec 20).toNat < slotCount 3 ∧ slotBad d 3 65536 = 0 ∧ entOf d 3 65536 = some entT ∧ keyOk 3 [5] = true ∧
    lookupKey d 3 [5] = .found 65536 entT ∧ findKey d 3 [5] = some (65536, entT) ∧ entT.absent = false ∧ badFor d 3 [5] = [] ∧
    lookupKey State.reset.dev 3 [5] = .miss := by decide +kernel

theorem test_meets_lookup_writes : (cmdWords (putCmdWords State.reset.dev 0 wsT) 0).take 4 = wsT ∧ cmdEnt 3 wsT = entT ∧ ctlOk 3 (wsT.getD 1 0) = true ∧
    findAny State.reset.dev 3 [5] = none ∧ shadowWrong 3 entT wsT = false ∧
    badFor State.reset.dev 3 [5] = [] ∧ (search State.reset.dev 3 [5]).map (·.1) = some [] ∧ entT.version = fld (wsT.getD 1 0) 32 16 := by decide +kernel

theorem test_meets_cam_slot : slotFor State.reset.dev 3 65536 [5] = true := by
  unfold slotFor
  rw [show (decide (wayCount 3 ≤ 65536) && decide (65536 < slotCount 3)) = true by decide, Bool.or_true]

set_option maxRecDepth 5000 in
theorem test_meets_group_commands : mcBad (fun w => cur State.reset.dev .swMcData w 0) = false ∧
    mcBad (fun w => cur (regSt .swMcData 6 0 1).dev .swMcData w 0) = true ∧ fld (0 : DWord) 0 32 ≤ fld (0 : DWord) 32 32 ∧
    (List.replicate 256 ((1 : Nat), (0 : DWord), (0 : DWord))).length = 256 ∧
    bit (cur State.reset.dev .swMcCmd 0 0) 31 = false ∧ bit (cur State.reset.dev .scMtrCmd 0 0) 31 = false := by decide

/-- Association 1 VALID with a hard limit of 9. -/
def stSa : State := st fun d => saWr (saWr d 1 0 (leBytes 4 0x200)) 1 0x30 (leBytes 8 9)

theorem test_meets_association_commands : saValid stSa.dev 1 = true ∧ saValid stSa.dev 0 = false ∧ saHard stSa.dev 1 = 9 ∧ saPinned stSa.dev 1 = false ∧
    (cur (setBoth stSa.dev .ciSaData 10 0 9) .ciSaData 10 0).toNat + 2 ^ 32 * (cur stSa.dev .ciSaData 11 0).toNat = 9 ∧
    bit (cur stSa.dev .ciSaCmd 0 0) 31 = false ∧ keyOf stSa.dev 1 = none := by decide +kernel

/-- Connection 3 in a state. -/
def stConn (k : Conn) : State := st fun d => putConn d 3 k

set_option maxRecDepth 20000 in
theorem test_meets_bs_commands : vdWriteStatus State.reset.dev 5 (bsData State.reset.dev 64) = 0 ∧
    entF (bsData State.reset.dev 16) 0 4 / 2 ^ 17 = 0 ∧
    connWriteOk (overwrite (overwrite (List.replicate 128 0) 6 (leBytes 2 536)) 0x3A (leBytes 2 1)) = true ∧
    (connOf (stConn { Conn.reset with st := .opened }).dev 3).st = .opened ∧ (connOf State.reset.dev 3).st = .closed ∧
    bit (cur State.reset.dev .bsCmd 0 0) 31 = false ∧ Conn.reset.finDue = false ∧ Conn.reset.finSent = false ∧ Conn.reset.cmds = [] := by decide

/-- Vport 0 ACTIVE and FULL class with one queue of each kind: send and receive queue 0, and completion queue 0 in use. -/
def stQ : State := st fun d =>
  let d := setBoth64 (setBoth d .vpCfg 0 0 0x20001) .vpQrange 0 0 0x10000010000
  putQueue (putVport d 0 { Vport.reset with st := .active }) 2 0 { Queue.reset with st := .active, w2 := 6 }

theorem test_meets_queue_commands : ownerOf stQ.dev 0 0 = some 0 ∧ ownerOf stQ.dev 2 0 = some 0 ∧ ownerOf stQ.dev 0 1 = none ∧
    (queueOf stQ.dev 0 0).st = .off ∧ (queueOf stQ.dev 2 0).st = .active ∧ qLive (queueOf stQ.dev 2 0) = true ∧
    bit (cur stQ.dev .bbQcmd 0 0) 31 = false ∧ qCq (queueOf stQ.dev 0 0) = 0 ∧
    (∀ y ∈ vportQueues stQ.dev 0, y.1 < 2 → (queueOf stQ.dev y.1 y.2).st ≠ .off → qCq (queueOf stQ.dev y.1 y.2) ≠ 0) ∧
    6 ≤ fld (queueOf (putQueue stQ.dev 0 0 { Queue.reset with w2 := 6 }) 0 0).w2 0 5 := by decide

set_option maxRecDepth 20000 in
theorem test_meets_word_reads : locate 0xFFFFFFFC = none ∧ locate (addr .vpMbIn 2047 0) = some ⟨.vpMbIn, 2047, 0, false⟩ ∧
    locate (addr .seMigArg 0 0) = some ⟨.seMigArg, 0, 0, false⟩ ∧ locate (addr .seMigArg 0 0 + 4) = some ⟨.seMigArg, 0, 0, true⟩ ∧
    locate (addr .tkVerdictCfg 0 0) = some ⟨.tkVerdictCfg, 0, 0, false⟩ ∧ hiOf .tkVerdictCfg 0 = none ∧
    regDown (domSt_ 41 3 State.reset.dev) ⟨.bsStage, 0, 0, false⟩ (addr .bsStage 0 0) = true := by decide +kernel

theorem test_meets_page_reads : (pageRead 255 0x20 State.reset.dev).isSome = true ∧ pageRead 255 0x28 State.reset.dev = none ∧
    (0x10FF020 - 0x1000000) / 0x1000 / 256 = (0 : Fin 8).val := by decide

theorem test_meets_bank_swap : ({ State.reset.dev with sw := { State.reset.dev.sw with peCommit := true } } : Dev).sw.peCommit = true ∧
    bankedAddr (addr .swPgNode 511 8) = true ∧ bankedAddr (addr .swPeCommit 0 0) = false := by decide +kernel

/-- R427: a read of MB_IN by its endpoint waits as an MBR of 8 bytes at offset 0x008 (the mailbox clause of EndpointReadsOfAWord). -/
theorem test_mailbox_read_waits :
    (match exec (.lowWordRead (.mbx 0) 0x1001008) State.reset with
      | .next u => (linkOf u.dev 0).hostq
      | _ => []) = [⟨0x12, 1, 0, 8, 0, 0, 8, []⟩] := by decide +kernel

/-- R275, R433: DBB written with 5 by its endpoint's path is an MBW of 4 bytes, the most significant byte first. -/
theorem test_dbb_written_by_path :
    (match exec (.registerWrite (.mbx 0) false 0x1001018 5) State.reset with
      | .next u => (linkOf u.dev 0).hostq
      | _ => []) = [⟨0x13, 1, 0, 4, 0, 0, 0x18, [0, 0, 0, 5]⟩] := by decide +kernel

/-! ### States that meet the hypotheses: vports, bobbins, power -/

theorem test_meets_vport_commands :
    (vportOf (putVport State.reset.dev 2047 { Vport.reset with st := .orphaned }) 2047).st = .orphaned ∧
    (vportOf (putVport State.reset.dev 2047 { Vport.reset with st := .active }) 2047).st = .active ∧
    (vportOf (putVport State.reset.dev 2047 { Vport.reset with st := .frozen, drained := true }) 2047).drained = true ∧
    (vportOf (putVport State.reset.dev 2047 { Vport.reset with st := .frozen, drained := true }) 2047).saveBusy = false := by decide

theorem test_meets_page_row : pageRow 2047 255 5 0 (.mbInWrite 2047 255 5) (pageRecord 0x13 2047 255 8 8 (beBytes 8 (5 : BitVec 64).toNat)) :=
  .inl ⟨rfl, rfl⟩

/-- Bobbin 5 is a software bobbin. -/
def stBob (b : Bobbin) : State := st fun d => putBob (setBoth d .bbCfg 0 0 6) 5 b

theorem test_meets_bobbins : bobSoft (stBob Bobbin.reset).dev 5 = true ∧ bobSoft (stBob Bobbin.reset).dev 6 = false ∧
    (bobOf (stBob { Bobbin.reset with st := .paused }).dev 5).st ∈ [BobSt.running, .pausing, .paused] ∧
    (bobOf (stBob { Bobbin.reset with st := .halted }).dev 5).st = .halted ∧ (bobOf (stBob Bobbin.reset).dev 5).live = [] := by decide

theorem test_meets_power : sleepState State.reset.dev 32 = true ∧ sleepState (st (run id)).dev 41 = true ∧
    cfgB (regSt .pwDomCtl 32 0 1).dev .pwDomCtl 32 0 0 = true ∧ domSt (regSt .pwDomCtl 32 0 1).dev 32 = 0 ∧
    sleepCond (regSt .pwDomCtl 32 0 1).dev 32 = true ∧ domSt (domSt_ 41 3 State.reset.dev) 41 = 3 ∧
    [(3, 7)].find? (fun e : Nat × Nat => decide (mget State.reset.dev.pw.rail (domRail e.1) 0 ≤ State.reset.dev.tick)) = some (3, 7) ∧
    mget [(41, some (0, 0))] 41 (none : Option (Nat × Nat)) = some (0, 0) ∧
    32 ≤ (vportOf (putVport State.reset.dev 2047 { Vport.reset with bothFull := 32 }) 2047).bothFull := by decide

/-! ### Frames, copies, tables -/

/-- A frame of 64 bytes that arrived whole at input 0, and its copy to destination 4. -/
def frameA : Frame :=
  { input := 0, bytes := List.replicate 64 1, got := 1, whole := true, resv := 0, bad := false, trunc := false, st := .parsing, flow := 0
    esp := none, macsec := false, cls := none, bkt := none, md := 0, ts := none, passes := 0, lenChange := false, est := none, src := none
    released := true }
def copyA : Copy :=
  { frame := 1, input := 0, dest := 4, cls := 0, n := 1, res := 1, crossed := 1, adm := 0, ct := false, ce := false, l3 := 0, kind := .uni, edits := []
    hv := [], catt := none, pin := none, first := some 0, out := none, full := 0, outAt := 0, ptp := none, prot := false, tx := none, started := false
    sent := 0, inverted := false, refr := none, heldAt := none, place := none, fan := none, into := [] }

/-- The frame and the copy, each changed by a function, and the rest of the device by a third. -/
def stCopy (f : Frame → Frame) (c : Copy → Copy) (g : Dev → Dev) : State :=
  st fun d => g (putCopy (putFrame { d with tick := 1 } 1 (some (f frameA))) 9 (some (c copyA)))

/-- Port 4 is up in the phase of normal operation. -/
def npUp (d : Dev) : Dev := { d with sw := { d.sw with npUp := [0, 1] } }

set_option maxRecDepth 20000 in
theorem test_meets_port_takes : PortTakes (npUp State.reset.dev) 0 (List.replicate 64 1) ∧ Live State.reset := by
  unfold PortTakes; decide

theorem test_meets_take : canTake (npUp (setBoth State.reset.dev .swInPart 0 0 0x7FFFF)) (memberInput State.reset.dev 24 0) = true ∧
    canTake (setBoth State.reset.dev .swInPart 0 0 0) 0 = false := by decide

theorem test_meets_present : frameOf (stCopy (fun f => { f with st := .receiving }) id id).dev 1 = some { frameA with st := .receiving } ∧
    frameOf (stCopy (fun f => { f with whole := false, got := 0, released := false }) id id).dev 1 =
      some { frameA with whole := false, got := 0, released := false } ∧
    cellsOf frameA.bytes.length ≤ 0 + 1 ∧ fcsGood [1, 2, 3, 4, 5] = false := by decide

theorem test_meets_cell : (stCopy id (fun c => { c with crossed := 1, n := 3 }) id).dev.sw.copies =
      [(9, some { copyA with crossed := 1, n := 3 })] ∧
    mayRequest (stCopy (fun f => { f with whole := false, got := 2 }) (fun c => { c with crossed := 1, n := 3 }) id).dev
      { frameA with whole := false, got := 2 } { copyA with crossed := 1, n := 3 } = true := by decide

/-- Copy 9 was there at the boundary. -/
def ready (d : Dev) : Dev := { d with sw := { d.sw with edReady := [9] } }

theorem test_meets_editor : copyOf (stCopy id id id).dev 9 = some copyA ∧ frameOf (stCopy id id id).dev 1 = some frameA ∧
    editorReady (stCopy id id ready).dev 9 copyA = true ∧ editorReady (stCopy id id id).dev 9 copyA = false ∧ outMissing (stCopy id id id).dev copyA = [] ∧
    gangPort (stCopy id id id).dev 4 = none ∧ wantsCipher (stCopy id id id).dev copyA = false ∧
    editorReady (stCopy (fun f => { f with bad := true }) id ready).dev 9 copyA = true := by decide

theorem test_meets_editor_output : (editCopy (edJob (stCopy id id id).dev frameA copyA)).isSome = true := by decide

/-- The copy as the editor left it. -/
def edited (c : Copy) : Copy := { c with out := some (List.replicate 60 1) }

theorem test_meets_transmit : egressOrder (stCopy id edited id).dev 4 (fun x => onWire x || !x.started || decide (x.crossed < copyCells (stCopy id edited id).dev x)) =
      [(9, edited copyA)] ∧ txMayStart (stCopy id edited id).dev (edited copyA) frameA = true ∧
    copyCells (stCopy id edited id).dev (edited copyA) ≤ 1 ∧
    (stCopy id (fun c => { edited c with started := true }) id).dev.sw.copies = [(9, some { edited copyA with started := true })] ∧
    portRate (stCopy id edited id).dev 4 / 4 = 400 ∧ (edited copyA).sent < (List.replicate 60 (1 : Byte)).length + 4 ∧
    100 / 4 < (List.replicate 60 (1 : Byte)).length + 4 := by decide

theorem test_meets_punt_and_waft :
    copyOf (stCopy id (fun c => { c with kind := .punt 3 1 0 64 }) id).dev 9 = some { copyA with kind := .punt 3 1 0 64 } ∧
    copyOf (stCopy id (fun c => { c with kind := .waft }) id).dev 9 = some { copyA with kind := .waft } ∧
    copyCells (stCopy id id id).dev copyA ≤ copyA.crossed ∧
    freeBuf (stCopy id id id).dev = none ∧
    (stCopy id id fun d => setBoth d .scWaftQ 0 0 1).dev.dr.waft.entries.length <
      min 1024 (cfgF (stCopy id id fun d => setBoth d .scWaftQ 0 0 1).dev .scWaftQ 0 0 0 11) ∧
    freeBuf (stCopy id id fun d => setBoth d .tkFrmCfg 0 0 0x80000001).dev ≠ none ∧
    ([⟨29, 1, 5, 14⟩].find? fun e : Waft => e.input = (29 : Fin 30).val) = some ⟨29, 1, 5, 14⟩ := by decide

set_option maxRecDepth 20000 in
theorem test_meets_links_of_ports : destState State.reset.dev 24 = .up ∧ flapHold State.reset.dev ≠ 0 ∧
    flapHold (setBoth64 State.reset.dev .swHoldCfg 0 0 0) = 0 ∧ towardPort (stCopy id id id).dev 4 copyA = true ∧
    destState (putDst State.reset.dev 24 (.hold 0 true)) 24 = .hold 0 true ∧ portUp State.reset.dev 24 = true ∧ portUp State.reset.dev 0 = false ∧
    anTypes State.reset.dev 16 = [] ∧ anTypes State.reset.dev 24 = [.kr 100 1] ∧ anTypes State.reset.dev 0 = [.kr 1600 8] ∧
    arriving State.reset.dev 0 { frameA with whole := false } = true := by
  decide

/-- An entry of the MAC table and one of the flow cache. -/
def entA : TEnt := ⟨[1, 2], 0, [3], 0, none⟩

set_option maxRecDepth 20000 in
theorem test_meets_tables : bit (combCfg (regSt .lkCombCfgA 0 0 0x80000001).dev 0) 31 = true ∧
    combDue (putCombDue (regSt .lkCombCfgA 0 0 0x80000001).dev 0 (some 0)) 0 = some 0 ∧
    entOf (putEnt State.reset.dev 0 5 (some entA)) 0 5 = some entA ∧ 5 < slotCount 0 ∧
    (∀ x ∈ entsOf (putEnt State.reset.dev 0 5 (some entA)) 0, x.1 < wayCount 0) ∧
    hbmEn (regSt .lkFlowCfg 0 0 0x80000000).dev = true ∧
    ([⟨0, 7⟩] : List (Nat × Nat)).find? (fun x => x.1 = slotKey 3 0) = none ∧
    cfgB (regSt .scSmpCfg 0 0 0x80000000).dev .scSmpCfg 0 0 31 = true ∧ { (regSt .scSmpCfg 0 0 0x80000000).dev with tick := 1000000 }.sw.smpNext ≤ 1000000 := by decide

theorem test_meets_promotion : let d := { State.reset.dev with lk := { State.reset.dev.lk with promos := [([1, 2], 0)] } }
    ([1, 2] : List DWord) ∉ d.lk.demos ∧ promoting d [1, 2] = true ∧ findAny d 4 [1, 2] = none ∧
      ∃ k, search d 4 [1, 2] = some ([], k) :=
  ⟨by decide, by decide, rfl, _, rfl⟩

theorem test_meets_sweep : let b := bucketOf State.reset.dev [1, 2]
    let d := { State.reset.dev with lk := { State.reset.dev.lk with homes := [(b, [⟨[1, 2], some entA⟩])], comb := [(5, b)] } }
    d.lk.homes = [(b, [⟨[1, 2], some entA⟩])] ∧ bucketOf d [1, 2] = b ∧ mget d.lk.comb 5 0 ≤ b ∧ b < mget d.lk.comb 5 0 + 64 :=
  ⟨rfl, rfl, Nat.le_refl _, Nat.lt_add_of_pos_right (by decide)⟩

theorem test_meets_vport_served : (vportOf State.reset.dev 2047).cmds = [] ∧
    (linkOf (putLink State.reset.dev 7 { Link.reset with st := .active }) 7).st = .active ∧
    cur64 State.reset.dev .vpMigSave 2047 0 = cfg64 State.reset.dev .vpMigSave 2047 0 ∧ cmdOf State.reset.dev 0 = none ∧
    readsIndex State.reset.dev 2047 = false ∧ migDenied State.reset.dev 0x800000000 64 = false := by decide +kernel

/-- Vport 0 ACTIVE with receiver 0 enabled, owned by thread 7 of reel 0. -/
def stPage (v : Vport) : State := st fun d => putVport (setBoth (run id d) .mbRcvCfg 0 0 0x80070000) 0 { v with st := .active }

theorem test_meets_page_served : rcvAwake (stPage Vport.reset).dev (vpRcv (stPage Vport.reset).dev 0) = true ∧
    rcvAwake State.reset.dev (vpRcv State.reset.dev 0) = false ∧ (vportOf (stPage { Vport.reset with inFull := true }).dev 0).inFull = true ∧
    (vportOf (stPage { Vport.reset with outFull := true }).dev 0).outFull = true ∧ (vportOf State.reset.dev 0).st ≠ .active := by decide

/-! ### States that meet the hypotheses: links, queues, migration -/

/-- Link 0 as changed by a function. -/
def stLink (f : Link → Link) : State := st fun d => putLink { d with tick := 4000000 } 0 (f Link.reset)
def hdrA : BlHdr := ⟨false, 0, 0, 7, 0, 0, 0, 0, 0⟩

theorem test_meets_link_states : (linkOf (stLink fun l => { l with st := .init, gotInit := some 0, sentInit := true }).dev 0).st = .init ∧
    (linkOf (stLink fun l => { l with st := .active, ackDue := some 0 }).dev 0).ackDue.isSome = true ∧
    epochsAgree (linkOf (stLink fun l => { l with st := .active, epPeer := some 7 }).dev 0) hdrA ∧
    ¬epochsAgree (linkOf (stLink fun l => { l with st := .active }).dev 0) hdrA ∧
    (⟨1, 1, 0, 0, 0⟩ : BlInit).role = (if (0 : Fin 24).val < 8 then 1 else 2) ∧ hdrA.epPeer.toNat = Link.reset.epOwn ∧
    replayTicks (stLink id).dev 0 ≤ 4000000 ∧ 0 < replayMax (stLink id).dev 0 ∧ replayMax (stLink id).dev 0 ≤ 15 ∧
    0 + lostTicks (stLink id).dev 0 ≤ (stLink id).dev.tick ∧ recOk false ⟨0x3A, 0, 0, 0, 0, 0, 0, []⟩ = true := by
  unfold epochsAgree; decide

theorem test_meets_endpoint_lost : (linkOf (stLink fun l => { l with leftAt := some 0 }).dev 0).leftAt = some 0 ∧
    (vportOf (putVport (stLink id).dev 255 { Vport.reset with st := .active }) 255).st = .active ∧ 255 / 256 = (0 : Fin 24).val := by decide

theorem test_meets_link_frames : beNat (sliceD 0 (List.replicate 12 0 ++ [0x88, 0xB5, 0x10] ++ List.replicate 49 (0 : Byte)) 12 2) =
      (linkOf (stLink id).dev 0).etype ∧
    (blBody (List.replicate 12 0 ++ [0x88, 0xB5, 0x10] ++ List.replicate 49 (0 : Byte))).getD 0 0 = 0x10 ∧
    (blBody (List.replicate 12 0 ++ [0x88, 0xB5, 0x11] ++ List.replicate 49 (0 : Byte))).getD 0 0 = 0x11 ∧
    (List.replicate 12 0 ++ [0x88, 0xB5, 0x10] ++ List.replicate 49 (0 : Byte)).length = 64 := by decide

theorem test_meets_data_frames :
    creditOk (stLink fun l => { l with st := .active, epPeer := some 7, own := [(0, 100), (1, 100), (2, 100), (3, 100)] }).dev 0
      (useCredits [] [⟨0x13, 0, 0, 8, 0, 0, 8, List.replicate 8 0⟩]) = true ∧
    recOk false ⟨0x13, 0, 0, 8, 0, 0, 8, List.replicate 8 0⟩ = true ∧
    (1 : Nat) ≤ (0 + 65536 - (32768 : BitVec 16).toNat) % 65536 ∧ (0 + 65536 - (32768 : BitVec 16).toNat) % 65536 ≤ 32768 ∧
    32768 < (0 + 65536 - (32767 : BitVec 16).toNat) % 65536 := by decide

theorem test_meets_data_send :
    (([.sig 1 2] : List ORec).find? fun r => r.vc = (2 : Fin 4).val) = some (.sig 1 2) ∧
    mayUse { Link.reset with cl := [(2, 10)] } 2 (recCost (ORec.sig 1 2).payload.length) = true ∧ recSize (ORec.sig 1 2).payload.length ≤ 4126 ∧
    (([⟨5, [.pong 1], 64, 0, 0⟩] : List Sent).find? fun f => f.seq = 5) = some ⟨5, [.pong 1], 64, 0, 0⟩ := by decide

/-- A read of 64 bytes under way with tag 3. -/
def reqA : Req := ⟨0, false, 0, 64, [], .discard, 0, some (3, 0, 10), none, []⟩

theorem test_meets_completions : reqOfTag { Link.reset with reqs := [reqA] } 3 false = some reqA ∧
    reqOfTag { Link.reset with reqs := [{ reqA with write := true }] } 3 true = some { reqA with write := true } ∧
    recOk false ⟨0x20, 0, 3, 64, 0, 1, 0, List.replicate 64 0⟩ = true ∧ recOk false ⟨0x21, 0, 3, 0, 0, 0, 0, []⟩ = true ∧
    recOk false ⟨0x12, 0, 255, 8, 0, 0, 4095, []⟩ = true ∧ recOk false ⟨0x30, 0, 0, 0, 0, 0, 9, []⟩ = true ∧
    recOk true ⟨0x38, 0, 0, 0, 0, 0, 9, []⟩ = true ∧ (0 : Nat) + (List.replicate 64 (0 : Byte)).length = reqA.len := by decide

theorem test_meets_gang : cfgB (regSt .ggCfg 0 0 0x80000005).dev .ggCfg 0 0 31 = true ∧
    beNat (sliceD 0 ([0, 0, 0, 5, 0, 0, 0x40, 1] : List Byte) 6 2) % 4096 ≠ 0 ∧
    beNat (sliceD 0 ([0, 0, 0, 5, 0, 0, 0x40, 0] : List Byte) 6 2) % 4096 = 0 ∧
    beNat (sliceD 0 ([0, 0, 0, 5, 0, 0, 0x40, 1] : List Byte) 2 2) % 4096 = cfgF (regSt .ggCfg 0 0 0x80000005).dev .ggCfg 0 0 0 12 := by decide

/-- Vport 2047 with one queue of each kind, active; a job and a copy toward it. -/
def jobA : Job :=
  { idx := 4, units := 1, st := .done, raw := [], tbl := [], waits := 0, tblLen := 0, hops := 0, cls := 0, len := 0, md := 0, tag := 9
    inline := [], frags := [], status := 0, data := [], frame := none, wrote := 0 }
def stVport (f : Vport → Vport) (q : Queue → Queue) : State := st fun d =>
  putQueue (putQueue (putQueue (setBoth (setBoth64 (putVport { d with tick := 10000000000 } 2047 (f { Vport.reset with st := .active })) .vpQrange 2047 0
    0x10000010000) .vpCfg 2047 0 0x20000) 0 0 (q Queue.reset)) 1 0 (q Queue.reset)) 2 0 (q { Queue.reset with st := .active })

theorem test_meets_host_queues : ownerOf (stVport id id).dev 0 0 = some 2047 ∧
    (queueOf (stVport id fun q => { q with jobs := [jobA] }).dev 0 0).jobs = [jobA] ∧
    (queueOf (stVport id fun q => { q with stall := some 0 }).dev 2 0).stall = some 0 ∧
    0 + qStall (queueOf (stVport id id).dev 2 0) ≤ (stVport id id).dev.tick ∧
    (vportOf (stVport (fun v => { v with st := .orphaned, orphanAt := some 0 }) id).dev 2047).orphanAt = some 0 ∧
    0 + 31250000 * orIf0 (cfgF (stVport id id).dev .vpCtl 2047 0 24 8) 1 ≤ (stVport id id).dev.tick ∧
    (vportOf (stVport (fun v => { v with st := .frozen }) id).dev 2047).st = .frozen ∧ vportReqs (stVport id id).dev 2047 = [] ∧
    (∀ kq ∈ vportQueues (stVport id id).dev 2047, (queueOf (stVport id id).dev kq.1 kq.2).jobs = []) ∧ allCopies (stVport id id).dev = [] := by
  decide

theorem test_meets_signal : bit (cur (regSt .vpSigCfg 2047 63 3).dev .vpSigCfg 2047 63) 1 = true := by decide

/-- SE_MIG_CMD runs an operation on session 1. -/
def stMig (op : Nat) (x : Option Session) : State := st fun d =>
  putSess (setBoth d .seMigCmd 0 0 (BitVec.ofNat 32 (0x80000010 + op))) 1 x
def sessA (source : Bool) : Session := ⟨source, 5, [1], 0, [], none, 0⟩

theorem test_meets_migration : (∀ op ∈ [1, 2, 3, 4], MigBusy (stMig op none) op) ∧ migSlot (stMig 3 none) = 1 ∧
    migDenied (stMig 1 none).dev 0x40000000 280 = false ∧ migDenied (stMig 1 none).dev 0xC00000000 280 = true ∧
    fld (0x11 : Word) 0 3 = 1 ∧ bit (cur State.reset.dev .seMigCmd 0 0) 31 = false ∧ State.reset.dev.ct.trngFail = false := by
  unfold MigBusy; decide

/-! ### States that meet the hypotheses: cipher clusters, block service -/

/-- A protected frame at input 12 whose bytes are with its cluster. -/
def stCipher (h : Option HoldF) (g : Dev → Dev) : State := st fun d =>
  g (putHold (putFrame { d with tick := 10000000 } 1 (some { frameA with input := 12, st := .cipher, released := false })) 1 h)

theorem test_meets_ingress : (frameOf (stCipher none id).dev 1).map (·.st) = some .cipher ∧ holdOf (stCipher none id).dev 1 = none ∧
    mget (stCipher none id).dev.ci.resetTill (12 / 4) none = none ∧
    holdUse (stCipher none id).dev (12 / 4) + rxmaxOf (stCipher none id).dev 12 ≤ 8192 ∧
    8192 < holdUse (stCipher (some ⟨8192, none, true⟩) id).dev (12 / 4) + rxmaxOf (stCipher none id).dev 12 ∧
    inPlan (stCipher none id).dev 12 (noFcs frameA.bytes) = .go none none false ∧
    fillLate (stCipher none id).dev (some 0) = true ∧ fillLate (stCipher none id).dev none = false := by decide

theorem test_meets_egress : eqOf (putEq (stCopy id edited id).dev (outCluster 4) [9]) (outCluster 4) = [9] ∧
    mget (stCopy id edited id).dev.ci.resetTill (outCluster 4) none = none ∧ (edited copyA).outAt ≤ (stCopy id edited id).dev.tick ∧
    (edited copyA).ptp = none := by decide

/-- An association that is in the key cache, with a lease being written. -/
def keyA : KeyEnt := ⟨0, [], 5, 0, 0, none, some 9, 0, 0⟩

theorem test_meets_keys : keyOf (putKey State.reset.dev 1048575 (some keyA)) (1048575 : BitVec 20).toNat = some keyA ∧ keyA.leasing = some 9 ∧
    ((1048575 : BitVec 20).toNat, true) ∈ [(1048575, true)] ∧
    saValid { State.reset.dev with hbm := [(0xBC0000001 + 256 * 1048575, 2)] } 1048575 = true := by decide

/-- A command in context 32767, by the first byte of its entry. -/
def cmdA (opc : Byte) (ph : CmdPh) : Cmd :=
  { page := 0, queue := 0, idx := 0, dom := 0, sqe := opc :: List.replicate 63 0, ph := ph, vd := 0, vent := [], shards := [], pages := [], start := 0
    len := 0, locks := [], parts := [], given := [], units := 0, hostOut := 0, list := [], status := none, fail := none, discard := false }

theorem test_meets_block_commands : cmdOf (putCmd State.reset.dev 32767 (some (cmdA 0 .fetched))) (32767 : Fin 32768) = some (cmdA 0 .fetched) ∧
    sqeOpc (cmdA 0 .fetched) = 0 ∧ sqeFieldsOk (cmdA 0 .fetched) = true ∧ sqeFieldsOk { cmdA 2 .fetched with sqe := 2 :: 1 :: List.replicate 62 0 } = false ∧
    sqeOpc (cmdA 3 .fetched) ∉ [0, 1, 2, 8, 9] ∧ findVd State.reset.dev 0 0 = none ∧
    prpPages (cmdA 2 .dispatched) = some ([], 0) ∧ prpPages { cmdA 1 .dispatched with len := 4096 } = some ([(0, 4096)], 0) ∧
    prpPages { cmdA 1 .dispatched with len := 262144 } = some ([(0, 4096)], 63) ∧
    prpPages (cmdA 9 .dispatched) = some ([(0, 16)], 0) ∧ dsmActs (cmdA 9 .dispatched) = false ∧
    (cmdA 0 .ended).parts.all partOver = true := by decide

theorem test_meets_a_vdisk : (findVd { State.reset.dev with bs := { State.reset.dev.bs with
    vd := [(255, [1, 0, 0, 0] ++ List.replicate 60 0)] } } 0 0) = some 255 := by decide

theorem test_meets_tcp : rtoDue (stCipher none id).dev { Conn.reset with timer := some 0 } = true ∧
    (([(65535, 1)] : List (Nat × Nat)).find? fun e => e.1 = (65535 : BitVec 16).toNat) = some (65535, 1) ∧
    0 + Machine.ioTimeout State.reset.dev ≤ 10 ^ 10 ∧ awake (domSt_ 41 2 State.reset.dev) 41 = false ∧
    ringEn (cfg (regSt .bsAdmTxCfg 0 0 0x80000000).dev .bsAdmTxCfg 0 0) = true ∧ ringEn (cfg State.reset.dev .bsAdmTxCfg 0 0) = false := by decide

/-! ### States that meet the hypotheses: control path, images, faults, resets -/

/-- A command frame with a checked command of key 0: opcode, boot identifier 0 and counter, and a body. -/
def cmdHead (op n : Nat) : List Byte := [1, 0] ++ beBytes 2 op ++ beBytes 4 0 ++ [0, 0] ++ beBytes 2 n ++ beBytes 4 0 ++ beBytes 8 1
def keyDev (d : Dev) : Dev := setCtlKey { d with ct := { d.ct with phase := .full } } 0 (some ⟨List.replicate 64 1, 0xFFFF⟩)
def cmdFrame (d : Dev) (op : Nat) (body : List Byte) : List Byte :=
  let b := cmdHead op body.length ++ body
  let f := List.replicate 12 0 ++ beBytes 2 (fld (cfg64 d .ctCmdCfg 0 0) 16 16) ++ b ++ checkOf d 0 b
  f ++ fcsOf f

theorem test_meets_a_command : isCommand (keyDev State.reset.dev) (24 : Fin 25) (cmdFrame (keyDev State.reset.dev) 0x106 (List.replicate 8 0)) = true ∧
    cmdFormed (cmdFrame (keyDev State.reset.dev) 0x106 (List.replicate 8 0)) (cmdPay (cmdFrame (keyDev State.reset.dev) 0x106 (List.replicate 8 0))) = true ∧
    mustCheck (keyDev State.reset.dev) (cmdOp (cmdFrame (keyDev State.reset.dev) 0x106 (List.replicate 8 0))) ∧
    ctlKey (keyDev State.reset.dev) (cmdKey (cmdFrame (keyDev State.reset.dev) 0x106 (List.replicate 8 0))) ≠ none := by decide +kernel

theorem test_meets_a_checked_command : checkOf (keyDev State.reset.dev) 0
      ((cmdPay (cmdFrame (keyDev State.reset.dev) 0x106 (List.replicate 8 0))).take (24 + 8)) =
      sliceD 0 (cmdPay (cmdFrame (keyDev State.reset.dev) 0x106 (List.replicate 8 0))) (24 + 8) 32 ∧
    cmdBodyLen (cmdFrame (keyDev State.reset.dev) 0x106 (List.replicate 8 0)) = 8 ∧
    cmdCounter (cmdFrame (keyDev State.reset.dev) 0x106 (List.replicate 8 0)) / 2 ^ 32 = State.reset.dev.ct.bootId ∧
    mget State.reset.dev.ct.last 0 0 < cmdCounter (cmdFrame (keyDev State.reset.dev) 0x106 (List.replicate 8 0)) % 2 ^ 32 := by decide +kernel

theorem test_meets_refused_commands : cmdFormed [] [] = false ∧ ctlKey State.reset.dev 3 = none ∧ ¬mustCheck State.reset.dev 1 ∧ 0xFFFF ∉ opcodes ∧
    mustCheck State.reset.dev 0x10A ∧ ¬mustCheck State.reset.dev 0x1F0 := by decide

/-- A command in progress. -/
def stRun (op : Nat) (body : List Byte) (g : Dev → Dev) : State := st fun d =>
  let e := g d
  { e with ct := { e.ct with busy := some ⟨24, [], cmdHead op body.length, true, body, 0⟩ } }
def runA (op : Nat) (body : List Byte) : CmdRun := ⟨24, [], cmdHead op body.length, true, body, 0⟩

theorem test_meets_commands_in_progress : (∀ e ∈ [(0x10, 64), (0x102, 152), (0x103, 88), (0x104, 24), (0x105, 8), (0x106, 8), (0x107, 8), (0x109, 8),
      (0x1F0, 0x1A0), (2, 8), (0x108, 8), (0x101, 8), (0x100, 16), (0x10A, 32)],
      Runs (stRun e.1 (List.replicate e.2 0) id) (runA e.1 (List.replicate e.2 0)) e.1) ∧ (runA 1 []).hdr.length = 24 := by
  decide +kernel

theorem test_meets_vport_create : countsFit false (32767, 1) (0, 1) (16383, 1) = true ∧ rangeFree State.reset.dev 2047 0 32767 1 = true ∧
    countsFit false (32767, 2) (0, 1) (16383, 1) = false := by decide

theorem test_meets_notice : bit (cfg (regSt .ftNoticeCfg 0 0 0x80000001).dev .ftNoticeCfg 0 0) 31 = true ∧
    (BitVec.ofNat 26 1 &&& ~~~(BitVec.ofNat 26 (cfg State.reset.dev .ftNoticeMask 0 0).toNat)) ≠ 0 := by decide

theorem test_meets_key_install : let b := beBytes 4 0xFFFFF ++ beBytes 4 0 ++ [1, 2] ++ List.replicate 142 (0 : Byte)
    Runs (stRun 0x102 b id) (runA 0x102 b) 0x102 ∧ b.length = 152 ∧ saPinned (stRun 0x102 b id).dev (beAt b 0 4) = false ∧
    bit (BitVec.ofNat 32 (leAt (sliceD 0 b 8 64) 0 4) : Word) 9 = true ∧ fld (BitVec.ofNat 32 (leAt (sliceD 0 b 8 64) 0 4) : Word) 0 3 = 1 ∧
    (stRun 0x102 b id).dev.ct.trngFail = false := by decide +kernel

theorem test_meets_images : (stRun 0x100 (List.replicate 16 0) id).dev.ct.activation = none ∧
    beAt (beBytes 8 (0x4000000 - 8)) 0 8 + 8 ≤ 0x4000000 ∧ verifyImage State.reset.otp false false [] ≠ 0 ∧ selectedBank State.reset = none ∧
    (some (1, 1) : Option (Nat × Nat)) = some (1, 1) ∧ (1 : Nat) ≤ 1 ∧ ((stRun 0x109 (List.replicate 8 0) id).dev.ct.running.map (·.svn)).getD 0 = 0 := by
  decide +kernel

theorem test_meets_memory_errors : cfgB (regSt .ftHbmSpare 0 0 0x80000000).dev .ftHbmSpare 0 0 31 = true ∧ State.reset.dev.ft.spare = none ∧
    fld (cur (regSt .ftHbmStatus 0 0 0x100).dev .ftHbmStatus 0 0) 8 2 = 1 ∧ slotBad State.reset.dev 4 0xFFFFF = 0 ∧
    cfgF (regSt .ftMemCfg 0 0 0).dev .ftMemCfg 0 0 0 16 < [State.reset.dev.tick].length ∧ holdsSkein (thread (st (run id)) t0) = true := by decide

theorem test_meets_margins : State.reset.dev.pw.sag = false ∧ cfgB (regSt .mgCfg 0 0 0x80000000).dev .mgCfg 0 0 31 = true ∧
    (railOf State.reset.dev true).lost = false ∧ avsFail State.reset.dev true = false ∧
    railSlack ⟨List.replicate 48 0xFF00, 0, [], []⟩ false < (cfgF State.reset.dev .mgCfg 0 0 16 8 : Int) ∧
    (cfgF State.reset.dev .mgCfg 0 0 16 8 : Int) ≤ railSlack ⟨List.replicate 48 0x7F00, 0, [], []⟩ false ∧
    (railOf (putRail State.reset.dev false { Rail.reset with mv := 800, settle := some 0, high := 5 }) false).mv = 800 ∧ { State.reset.dev with rung := 1 }.rung < 2 := by
  decide +kernel

theorem test_meets_time : ({ State.reset.dev with tm := { State.reset.dev.tm with step := some true } }).tm.step = some true ∧
    bit (cfg (regSt .tmPpsCfg 0 0 0x40000000).dev .tmPpsCfg 0 0) 30 = true ∧ bit (cfg (regSt .tmPpsCfg 0 0 0x40000000).dev .tmPpsCfg 0 0) 29 = false ∧
    copyOf (stCopy id (fun c => { edited c with started := true, ptp := some ⟨1, 0, none, false⟩ }) id).dev 9 =
      some { edited copyA with started := true, ptp := some ⟨1, 0, none, false⟩ } := by decide

theorem test_meets_resets : domSt State.reset.dev 40 ≠ 3 ∧ bankFail State.reset 0 = 2 ∧ (∀ k ∈ bankOrder State.reset 0, bankFail State.reset k ≠ 1) ∧
    bankOrder State.reset 2 = [1] ∧ ¬(State.reset.board.held = true) ∧
    ({ State.reset.dev with ct := { State.reset.dev.ct with domReset := [15] } }).ct.domReset = [8 + (7 : Fin 8).val] ∧
    ({ State.reset.dev with ct := { State.reset.dev.ct with advance := some (64, 15) } }).ct.advance = some (64, 15) ∧
    State.reset.otp.rollback ≤ 64 := by decide +kernel

end Sys2Proof.Tests
end

section
/-! The tick counter of R12: what a boundary does to it, and what a read of its two words shows and latches. -/

namespace Sys2Proof.Proofs.TickCounter
open Sys2Proof Sys2Proof.Machine Sys2Proof.Claims

/-! ### The commands of this part -/

theorem exec_tickBoundary (s : State) : exec .tickBoundary s = onDev tickBoundary s := rfl

theorem exec_tickCntLoRead (p : Path) (s : State) : exec (.tickCntLoRead p) s = onDev (readNamed p .tkTickLo 0 0) s := rfl

theorem exec_lowWordRead (p : Path) (a : Word) (s : State) : exec (.lowWordRead p a) s = onDev (readShown p a.toNat) s := rfl

/-! ### Latched words (R465) -/

section latches
variable (d : Dev) (p q : Path) (a b : Nat) (v : Word) (o : Out)

@[simp] theorem setLatch_cur : (setLatch d p a v).regs.cur = d.regs.cur := rfl
@[simp] theorem setLatch_act : (setLatch d p a v).regs.act = d.regs.act := rfl
@[simp] theorem emit_out : (emit d o).out = o :: d.out := rfl
@[simp] theorem getLatch_emit : getLatch (emit d o) p a = getLatch d p a := rfl

@[simp] theorem getLatch_setLatch_self : getLatch (setLatch d p a v) p a = v := by
  simp [getLatch, setLatch]

theorem getLatch_setLatch_of_path_ne (h : pathKey q ≠ pathKey p) : getLatch (setLatch d p a v) q b = getLatch d q b := by
  simp [getLatch, setLatch, h]

end latches

/-! ### Reads of a word at its place -/

section places
variable (d : Dev) (p : Path) {l : Loc}

/-- A read of any word but a mailbox's shows at once the word that it reads (R427). -/
theorem showLoc_of_not_mail (a : Nat) (hin : l.reg ≠ .vpMbIn) (hout : l.reg ≠ .vpMbOut) :
    showLoc p a l d = emit (readLoc p a l d).1 (.readData p (BitVec.ofNat 32 a) (readLoc p a l d).2) := by
  simp [showLoc, hin, hout]

theorem readLoc_of_latchedWord (a : Nat) (hup : regDown d l a = false) (hl : latchedWord l = true) :
    readLoc p a l d = (d, getLatch d p a) := by
  simp [readLoc, hup, hl]

/-- TK_TICK_CNT_LO lies in no power domain and is no latched word, so a read of it is R12's. -/
theorem readLoc_tkTickLo : readLoc p (addr .tkTickLo 0 0) ⟨.tkTickLo, 0, 0, false⟩ d = tickRead p d := rfl

theorem locate_tkTickHi : locate (addr .tkTickHi 0 0) = some ⟨.tkTickHi, 0, 0, false⟩ := by decide +kernel

theorem toNat_addr_tkTickHi : (BitVec.ofNat 32 (addr .tkTickHi 0 0)).toNat = addr .tkTickHi 0 0 := rfl

/-- TK_TICK_CNT_HI lies in no power domain and is a latched word. -/
theorem readLoc_tkTickHi : readLoc p (addr .tkTickHi 0 0) ⟨.tkTickHi, 0, 0, false⟩ d = (d, getLatch d p (addr .tkTickHi 0 0)) :=
  readLoc_of_latchedWord d p _ rfl rfl

end places

/-! ### Reads on the paths of the device -/

section reads
variable {p : Path} (d : Dev) (hp : inner p = true)
include hp

theorem readNamed_of_inner (r : Reg) (i j : Nat) : readNamed p r i j d = showLoc p (addr r i j) ⟨r, i, j, false⟩ d := by
  cases p with
  | mbx _ => cases hp
  | ctl | sp => rfl

theorem readShown_of_locate {a : Nat} {l : Loc} (hl : locate a = some l) : readShown p a d = showLoc p a l d := by
  cases p with
  | mbx _ => cases hp
  | ctl | sp => simp only [readShown, hl]

/-- A read of TK_TICK_CNT_LO shows the low word of the count and latches the high word for its path. -/
theorem readNamed_tkTickLo : readNamed p .tkTickLo 0 0 d =
    emit (setLatch d p (addr .tkTickHi 0 0) (BitVec.ofNat 32 (d.tick / 2 ^ 32)))
      (.readData p (BitVec.ofNat 32 (addr .tkTickLo 0 0)) (BitVec.ofNat 32 d.tick)) := by
  rw [readNamed_of_inner d hp, showLoc_of_not_mail d p _ (by decide) (by decide), readLoc_tkTickLo, tickRead]

/-- A read of TK_TICK_CNT_HI shows the word latched for its path and changes nothing else. -/
theorem readShown_tkTickHi : readShown p (BitVec.ofNat 32 (addr .tkTickHi 0 0)).toNat d =
    emit d (.readData p (BitVec.ofNat 32 (addr .tkTickHi 0 0)) (getLatch d p (addr .tkTickHi 0 0))) := by
  rw [toNat_addr_tkTickHi, readShown_of_locate d hp locate_tkTickHi, showLoc_of_not_mail d p _ (by decide) (by decide),
    readLoc_tkTickHi]

end reads

/-! ### The commands on a live device -/

/-- Whatever else is due at a boundary, its end sets the count to one more than it began with (R12). -/
theorem tickBoundary_tick (d : Dev) : (tickBoundary d).tick = d.tick + 1 := rfl

theorem exec_tickBoundary_live {s : State} (hs : Live s) : exec .tickBoundary s = .next { s with dev := tickBoundary s.dev } := by
  rw [exec_tickBoundary, onDev_live _ s hs]

theorem exec_tickCntLoRead_live {s : State} {p : Path} (hs : Live s) (hp : inner p = true) : exec (.tickCntLoRead p) s = .next { s with
    dev := emit (setLatch s.dev p (addr .tkTickHi 0 0) (BitVec.ofNat 32 (s.dev.tick / 2 ^ 32)))
      (.readData p (BitVec.ofNat 32 (addr .tkTickLo 0 0)) (BitVec.ofNat 32 s.dev.tick)) } := by
  rw [exec_tickCntLoRead, onDev_live _ s hs, readNamed_tkTickLo s.dev hp]

theorem exec_tickHiRead_live {s : State} {p : Path} (hs : Live s) (hp : inner p = true) :
    exec (.lowWordRead p (BitVec.ofNat 32 (addr .tkTickHi 0 0))) s = .next { s with
      dev := emit s.dev (.readData p (BitVec.ofNat 32 (addr .tkTickHi 0 0)) (getLatch s.dev p (addr .tkTickHi 0 0))) } := by
  rw [exec_lowWordRead, onDev_live _ s hs, readShown_tkTickHi s.dev hp]

/-- Settles O3: a boundary changes the device alone and adds 1 to its count, a read of LO latches the high word for its path, and the two
reads of HI show that latch. -/
theorem tickCounterFollowsR12 : Obligations.TickCounterFollowsR12 := by
  refine ⟨rfl, fun s hs => ?_, fun s p hs hp => ?_⟩
  · exact ⟨_, exec_tickBoundary_live hs, tickBoundary_tick s.dev, rfl, rfl, rfl, rfl, rfl⟩
  · refine ⟨_, _, _, exec_tickCntLoRead_live hs hp, exec_tickHiRead_live hs hp, exec_tickHiRead_live hs hp, ?shown⟩
    case shown =>
      refine ⟨rfl, ?firstHi, ?secondHi, rfl, rfl, rfl, rfl, fun q a hq => ?otherPath⟩
      case firstHi => simp
      case secondHi => simp
      case otherPath => simp [getLatch_setLatch_of_path_ne _ _ _ _ _ _ hq]

end Sys2Proof.Proofs.TickCounter
end

section
/-! How a thread that may issue an instruction does so (R31, R32, R59), and the state after one that changes its thread alone. -/

namespace Sys2Proof.Proofs.Issue
open Sys2Proof Sys2Proof.Machine Sys2Proof.Claims

/-! ### The device and the thread at the issue -/

/-- A thread whose next instruction issues: the breakpoint that it may pass is forgotten (R59). -/
def unpassed (t : Thread) : Thread := { t with dbg := { t.dbg with passed := none } }

section unpassedFields
variable (t : Thread)

@[simp] theorem unpassed_h : (unpassed t).h = t.h := rfl
@[simp] theorem unpassed_p : (unpassed t).p = t.p := rfl
@[simp] theorem unpassed_flags : (unpassed t).flags = t.flags := rfl
@[simp] theorem unpassed_pc : (unpassed t).pc = t.pc := rfl
@[simp] theorem unpassed_loop : (unpassed t).loop = t.loop := rfl
@[simp] theorem gRd_unpassed (r : Nat) : gRd (unpassed t) r = gRd t r := rfl
@[simp] theorem specRd_unpassed (x : BitVec 6) : specRd (unpassed t) x = specRd t x := rfl

end unpassedFields

/-- The device on which an instruction of thread `k` has its effect. -/
def issuing (d : Dev) (k : Nat) : Dev := noteIssue k (clearPassed d k)

@[simp] theorem thrOf_noteIssue (d : Dev) (k j : Nat) : thrOf (noteIssue k d) j = thrOf d j := rfl

theorem thrOf_issuing (d : Dev) (k j : Nat) : thrOf (issuing d k) j = if j = k then unpassed (thrOf d k) else thrOf d j := by
  simp [issuing, clearPassed, unpassed]

@[simp] theorem thrOf_issuing_self (d : Dev) (k : Nat) : thrOf (issuing d k) k = unpassed (thrOf d k) := by simp [thrOf_issuing]

@[simp] theorem isService_issuing (d : Dev) (k j : Nat) : isService (issuing d k) j = isService d j := rfl

/-- The state after an instruction of thread `t` that does nothing but leave the thread as `b`. -/
def issuedTo (s : State) (t : Tid) (b : Thread) : State := { s with dev := putThr (issuing s.dev (tkey t)) (tkey t) b }

@[simp] theorem thread_issuedTo (s : State) (t : Tid) (b : Thread) : thread (issuedTo s t b) t = b :=
  (thrOf_putThr _ _ _ _).trans (if_pos rfl)

theorem onlyIssue_issuedTo (s : State) (t : Tid) (b : Thread) : OnlyIssue s (issuedTo s t b) (tkey t) := by
  refine ⟨rfl, fun j hj => ?_⟩
  simp [issuedTo, thrOf_issuing, hj]

/-! ### Issue -/

variable {s : State} {t : Tid} {i : Whorl}

/-- No fault stops an instruction that may issue, so it has its effect (R78, R91, R94, R100). -/
theorem whorlStep_issuing (h : MayIssue s t i) :
    whorlStep (issuing s.dev (tkey t)) (tkey t) i false = whorlEffect (issuing s.dev (tkey t)) (tkey t) i false := by
  obtain ⟨-, -, -, hpc, hcause, hkind, hloop⟩ := h
  have hbanned : ((thread s t).loop.isSome && loopBanned i) = false := by rcases hloop with h | h <;> simp [h]
  simp [whorlStep, hcause, hkind, hbanned, Nat.not_le.mpr hpc]

/-- A thread that may issue is ready, and no breakpoint holds it. -/
theorem issue_of_mayIssue (h : MayIssue s t i) : issue t i s.dev = whorlEffect (issuing s.dev (tkey t)) (tkey t) i false := by
  have hstep := whorlStep_issuing h
  obtain ⟨-, hready, hbrk, -⟩ := h
  have hpass : (brkHit s.dev (tkey t) (thread s t).pc && (thread s t).dbg.passed != some (thread s t).pc) = false := by
    rcases hbrk with h | h <;> simp [h]
  simp only [issue, issueWith, hready, hpass, Bool.not_true, Bool.false_eq_true, if_false]
  exact hstep

/-- A command that issues an instruction whose effect is to store its thread: it runs, and nothing but the thread and the issue cycle
changes. -/
theorem runs_of_effect {c : Instr} {b : Thread} (h : MayIssue s t i) (hc : exec c s = onDev (issue t i) s)
    (he : whorlEffect (issuing s.dev (tkey t)) (tkey t) i false = putThr (issuing s.dev (tkey t)) (tkey t) b) :
    exec c s = .next (issuedTo s t b) := by
  rw [hc, onDev_live _ s h.1, issue_of_mayIssue h, he, issuedTo]

end Sys2Proof.Proofs.Issue
end

section
/-! Writes of a G register, and where a thread continues (R90 to R93). -/

namespace Sys2Proof.Proofs.Continue
open Sys2Proof Sys2Proof.Machine Sys2Proof.Claims Sys2Proof.Proofs.Issue

variable (a t : Thread)

/-! ### A G register written -/

theorem gRd_gWr (i r : Nat) (v : DWord) : gRd (gWr t i v) r = if r = 0 then 0 else if r = i then v else gRd t r := by
  unfold gRd gWr
  by_cases hi : i = 0
  · grind
  · simp only [if_neg hi, mget_mput]
    grind

theorem gWr_eq (i : Nat) (v : DWord) : gWr t i v = { t with g := (gWr t i v).g } := by
  unfold gWr
  split <;> rfl

section gWrFields
variable (i : Nat) (v : DWord)

@[simp] theorem gWr_h : (gWr t i v).h = t.h := by rw [gWr_eq]
@[simp] theorem gWr_p : (gWr t i v).p = t.p := by rw [gWr_eq]
@[simp] theorem gWr_flags : (gWr t i v).flags = t.flags := by rw [gWr_eq]
@[simp] theorem gWr_pc : (gWr t i v).pc = t.pc := by rw [gWr_eq]
@[simp] theorem gWr_loop : (gWr t i v).loop = t.loop := by rw [gWr_eq]

end gWrFields

/-! ### The next instruction and a jump -/

theorem nextPc_eq : nextPc t = { t with pc := (nextPc t).pc, loop := (nextPc t).loop } := by
  unfold nextPc
  cases hl : t.loop <;> grind

theorem jumpTo_eq (x : Nat) : jumpTo t x = { t with pc := (jumpTo t x).pc, loop := (jumpTo t x).loop } := by
  unfold jumpTo
  cases hl : t.loop <;> grind

section frames
variable (x r : Nat)

@[simp] theorem nextPc_h : (nextPc t).h = t.h := by rw [nextPc_eq]
@[simp] theorem nextPc_p : (nextPc t).p = t.p := by rw [nextPc_eq]
@[simp] theorem nextPc_flags : (nextPc t).flags = t.flags := by rw [nextPc_eq]
@[simp] theorem gRd_nextPc : gRd (nextPc t) r = gRd t r := by rw [nextPc_eq]; rfl
@[simp] theorem jumpTo_h : (jumpTo t x).h = t.h := by rw [jumpTo_eq]
@[simp] theorem jumpTo_p : (jumpTo t x).p = t.p := by rw [jumpTo_eq]
@[simp] theorem jumpTo_flags : (jumpTo t x).flags = t.flags := by rw [jumpTo_eq]
@[simp] theorem gRd_jumpTo : gRd (jumpTo t x) r = gRd t r := by rw [jumpTo_eq]; rfl

end frames

theorem onlyWhere_nextPc : OnlyWhere a (nextPc (unpassed a)) := nextPc_eq (unpassed a)

theorem onlyWhere_jumpTo (x : Nat) : OnlyWhere a (jumpTo (unpassed a) x) := jumpTo_eq (unpassed a) x

variable {a t}

/-- The next address follows, or the next pass of the active LOOP (R91, R92). -/
theorem fallsThrough_nextPc (hpc : t.pc = a.pc) (hloop : t.loop = a.loop) : FallsThrough a (nextPc t) := by
  unfold FallsThrough nextPc
  rw [← hpc, ← hloop]
  cases hl : t.loop with
  | none => simp
  | some l => grind

/-- A jump inside the active body stays in its pass, one out of it ends the LOOP (R93). -/
theorem goesTo_jumpTo (hloop : t.loop = a.loop) (x : Nat) : GoesTo a (jumpTo t x) x := by
  unfold GoesTo jumpTo
  rw [← hloop]
  cases hl : t.loop with
  | none => simp
  | some l => grind

/-- A register written and FLAGS, and the next instruction after it (R80, R90). -/
theorem gWritten_nextPc (a : Thread) (d : Nat) (v : DWord) (f : BitVec 4) :
    GWritten a (nextPc { gWr (unpassed a) d v with flags := f }) d v f := by
  refine ⟨?rest, fun r => ?registers, fun hl => ?next⟩
  case rest =>
    rw [nextPc_eq, gWr_eq]
    rfl
  case registers =>
    rw [gRd_nextPc]
    exact gRd_gWr (unpassed a) d r v
  case next =>
    simp [nextPc, hl]

end Sys2Proof.Proofs.Continue
end

section
/-! FLAGS as the model packs them, against Tables 3-2 and 3-6 (R80). -/

namespace Sys2Proof.Proofs.Flags
open Sys2Proof Sys2Proof.Machine Sys2Proof.Claims

theorem packFlags_eq_nzcv : ∀ n z c v : Bool, packFlags n z c v = nzcv n z c v := by decide

/-- A result below the sign bit is not negative. -/
theorem flagsOf_of_lt {n r : Nat} (h : r < 2 ^ (n - 1)) (c v : Bool) : flagsOf n r c v = nzcv false (decide (r = 0)) c v := by
  simp [flagsOf, packFlags_eq_nzcv, Nat.not_le.mpr h]

/-! ### FLAGS of a comparison (R80, Table 3-6) -/

section comparison
variable {n : Nat} (x y : BitVec n)

theorem flagsOf_toNat (c v : Bool) : flagsOf n x.toNat c v = nzcv x.msb (decide (x = 0)) c v := by
  have hz : x.toNat = 0 ↔ x = 0 := (BitVec.toNat_eq (y := 0#n)).symm
  simp only [flagsOf, packFlags_eq_nzcv, BitVec.msb_eq_decide, hz]

theorem subNat_toNat : subNat n x.toNat y.toNat = (x - y).toNat := by
  rw [subNat, BitVec.toNat_sub, ← Nat.sub_add_comm y.isLt.le, Nat.add_comm]

theorem sextInt_toNat (hn : 0 < n) : sextInt n x.toNat = x.toInt := by
  have hpow : 2 ^ n = 2 * 2 ^ (n - 1) := (mul_pow_sub_one hn.ne' 2).symm
  have hhalf : x.toNat < 2 ^ (n - 1) ↔ 2 * x.toNat < 2 ^ n := by omega
  simp only [sextInt, BitVec.toInt_eq_toNat_cond, Nat.mod_eq_of_lt x.isLt, hhalf]

theorem signedOut_iff (i : Int) : signedOut n i = true ↔ noSigned n i := by
  simp [signedOut, noSigned]

/-- The FLAGS that CMP writes and BRC tests are those of Table 3-6. -/
theorem table36_aluFlags_cmp (hn : 0 < n) : table36 .cmp x y (x - y) (aluFlags .cmp n x.toNat y.toNat) := by
  refine ⟨subC x.toNat y.toNat, subV n x.toNat y.toNat, ?flags, ?carry, ?overflow⟩
  case flags => rw [aluFlags, aluVal, subNat_toNat, flagsOf_toNat]
  case carry => exact decide_eq_true_iff
  case overflow => rw [subV, signedOut_iff, sextInt_toNat x hn, sextInt_toNat y hn]

end comparison

end Sys2Proof.Proofs.Flags
end

section
/-! CSUM (R83): the sum of the 16-bit parts and its fold by end-around carries. -/

namespace Sys2Proof.Proofs.Csum
open Sys2Proof Sys2Proof.Machine Sys2Proof.Claims Sys2Proof.Proofs.Issue Sys2Proof.Proofs.Continue Sys2Proof.Proofs.Flags

/-! ### The fold -/

/-- One end-around carry. -/
def endAround (x : Nat) : Nat := x % 65536 + x / 65536

theorem fold16_eq (x : Nat) : fold16 x = endAround (endAround (endAround x)) := rfl

/-- 65,536 is 1 modulo 65,535, so a carry taken to the other end leaves the class. -/
theorem endAround_mod (x : Nat) : endAround x % 65535 = x % 65535 := by
  unfold endAround
  omega

theorem endAround_eq_zero (x : Nat) : endAround x = 0 ↔ x = 0 := by
  unfold endAround
  omega

theorem fold16_mod (x : Nat) : fold16 x % 65535 = x % 65535 := by simp only [fold16_eq, endAround_mod]

theorem fold16_eq_zero (x : Nat) : fold16 x = 0 ↔ x = 0 := by simp only [fold16_eq, endAround_eq_zero]

/-- The first carry of eight parts' sum leaves at most 65,542 and the second fits in 16 bits, where the third changes nothing. -/
theorem fold16_lt {x : Nat} (h : x ≤ 8 * 65535) : fold16 x < 65536 := by
  have h1 : endAround x ≤ 65542 := by unfold endAround; omega
  have h2 : endAround (endAround x) ≤ 65535 := by unfold endAround at h1 ⊢; omega
  rw [fold16_eq]
  unfold endAround at h2 ⊢
  omega

/-! ### The sum -/

/-- The 16-bit part `i` of a register. -/
def part16 (x : DWord) (i : Nat) : Nat := (x.extractLsb' (16 * i) 16).toNat

theorem part16_eq (x : DWord) (i : Nat) : part16 x i = x.toNat / 2 ^ (16 * i) % 65536 := by
  rw [part16, BitVec.extractLsb'_toNat, Nat.shiftRight_eq_div_pow]

theorem part16_lt (x : DWord) (i : Nat) : part16 x i < 65536 := (x.extractLsb' (16 * i) 16).isLt

theorem sum16_full (x : DWord) :
    sum16 (opWidth false / 16) (x.toNat % 2 ^ opWidth false) = part16 x 0 + part16 x 1 + part16 x 2 + part16 x 3 := by
  change sum16 4 (x.toNat % 2 ^ 64) = _
  simp only [part16_eq, sum16]
  omega

theorem sum16_half (x : DWord) : sum16 (opWidth true / 16) (x.toNat % 2 ^ opWidth true) = part16 x 0 + part16 x 1 := by
  change sum16 2 (x.toNat % 2 ^ 32) = _
  simp only [part16_eq, sum16]
  omega

/-- The sum that CSUM folds: four parts of each operand, or the two low ones at W = 1. -/
def csumSum (w : Bool) (x y : DWord) : Nat :=
  if w then part16 x 0 + part16 x 1 + part16 y 0 + part16 y 1
  else part16 x 0 + part16 x 1 + part16 x 2 + part16 x 3 + part16 y 0 + part16 y 1 + part16 y 2 + part16 y 3

theorem csumSum_le (w : Bool) (x y : DWord) : csumSum w x y ≤ 8 * 65535 := by
  have hx := part16_lt x
  have hy := part16_lt y
  have := hx 0; have := hx 1; have := hx 2; have := hx 3
  have := hy 0; have := hy 1; have := hy 2; have := hy 3
  unfold csumSum
  split <;> omega

theorem aluVal_csum (w : Bool) (x y : DWord) :
    aluVal .csum (opWidth w) (x.toNat % 2 ^ opWidth w) (y.toNat % 2 ^ opWidth w) = fold16 (csumSum w x y) := by
  rw [aluVal]
  cases w with
  | false => rw [sum16_full, sum16_full, csumSum, if_neg Bool.false_ne_true]; congr 1; omega
  | true => rw [sum16_half, sum16_half, csumSum, if_pos rfl]; congr 1; omega

theorem aluFlags_csum (w : Bool) (x y : DWord) :
    aluFlags .csum (opWidth w) (x.toNat % 2 ^ opWidth w) (y.toNat % 2 ^ opWidth w) =
      nzcv false (decide (csumSum w x y = 0)) false false := by
  have hlt : fold16 (csumSum w x y) < 2 ^ (opWidth w - 1) :=
    (fold16_lt (csumSum_le w x y)).trans (by cases w <;> decide)
  simp only [aluFlags, aluVal_csum, flagsOf_of_lt hlt, fold16_eq_zero]

/-! ### The instruction -/

/-- The thread after a CSUM of a given sum. -/
def csumThread (t : Thread) (d : BitVec 5) (f : Bool) (sum : Nat) : Thread :=
  nextPc { gWr t d.toNat (BitVec.ofNat 64 (fold16 sum)) with
    flags := if f then nzcv false (decide (sum = 0)) false false else t.flags }

theorem whorlEffect_csum (dv : Dev) (k : Nat) (d : BitVec 5) (a b : BitVec 6) (w f stepping : Bool) :
    whorlEffect dv k (.alu .csum d a b w f) stepping =
      putThr dv k (csumThread (thrOf dv k) d f (csumSum w (specRd (thrOf dv k) a) (specRd (thrOf dv k) b))) := by
  simp only [whorlEffect, aluNoDest, Bool.false_or, Bool.false_eq_true, if_false, aluVal_csum, aluFlags_csum, csumThread]
  cases f with
  | false => simp only [Bool.false_eq_true, if_false]; rw [← gWr_flags]
  | true => rfl

theorem exec_csum {s : State} {t : Tid} {d : BitVec 5} {a b : BitVec 6} {w f : Bool} (h : MayIssue s t (.alu .csum d a b w f)) :
    exec (.csum t d a b w f) s = .next (issuedTo s t
      (csumThread (unpassed (thread s t)) d f (csumSum w (specRd (thread s t) a) (specRd (thread s t) b)))) :=
  runs_of_effect h rfl (by rw [whorlEffect_csum, thrOf_issuing_self]; rfl)

theorem toNat_ofNat_fold16 {x : Nat} (h : x ≤ 8 * 65535) : (BitVec.ofNat 64 (fold16 x)).toNat = fold16 x :=
  (BitVec.toNat_ofNat _ _).trans (Nat.mod_eq_of_lt ((fold16_lt h).trans (by decide)))

/-- Settles O10: the result is the fold of the sum, which keeps its class modulo 65,535 and is 0 only with it. -/
theorem csumFoldsTheSum : Obligations.CsumFoldsTheSum := by
  intro s t d a b w f h
  have hle := csumSum_le w (specRd (thread s t) a) (specRd (thread s t) b)
  refine ⟨_, BitVec.ofNat 64 (fold16 (csumSum w (specRd (thread s t) a) (specRd (thread s t) b))), _, exec_csum h,
    onlyIssue_issuedTo _ _ _, ?written, ?below, ?residue, ?zero, rfl⟩
  case written =>
    rw [thread_issuedTo]
    exact gWritten_nextPc _ _ _ _
  case below =>
    rw [toNat_ofNat_fold16 hle]
    exact fold16_lt hle
  case residue =>
    rw [toNat_ofNat_fold16 hle]
    exact fold16_mod _
  case zero =>
    rw [← BitVec.toNat_inj, toNat_ofNat_fold16 hle]
    exact fold16_eq_zero _

end Sys2Proof.Proofs.Csum
end

section
/-! NOP, LOOP, the branches and the jumps (R91 to R93, Table 3-10). -/

namespace Sys2Proof.Proofs.Branch
open Sys2Proof Sys2Proof.Machine Sys2Proof.Claims Sys2Proof.Proofs.Issue Sys2Proof.Proofs.Continue Sys2Proof.Proofs.Flags

/-! ### Targets (R91) -/

/-- A target inside instruction memory is where the branch goes. -/
theorem branchTarget_eq_some {pc off : Nat} {back : Bool} {x : Int} (hx : (pc : Int) + 1 + (if back then -(off : Int) else off) = x)
    (hlo : 0 ≤ x) (hhi : x ≤ 65535) : branchTarget pc back off = some x.toNat := by
  subst hx
  cases back <;> grind [branchTarget]

/-! ### The threads after a branch and a LOOP -/

/-- A thread after a branch to `x`, taken or not. -/
def branchThread (t : Thread) (taken : Bool) (x : Nat) : Thread := if taken then jumpTo t x else nextPc t

/-- A thread after LOOP (R92). -/
def loopThread (t : Thread) (cnt len : Nat) : Thread := { t with pc := t.pc + 1, loop := some ⟨t.pc + 1, len, cnt, 0⟩ }

theorem onlyWhere_branchThread (a : Thread) (taken : Bool) (x : Nat) : OnlyWhere a (branchThread (unpassed a) taken x) := by
  cases taken with
  | false => exact onlyWhere_nextPc a
  | true => exact onlyWhere_jumpTo a x

/-- A taken branch goes to its target, another falls through (R93). -/
theorem continues_branchThread {a t : Thread} (hpc : t.pc = a.pc) (hloop : t.loop = a.loop) {p : Prop} [Decidable p] (x : Nat) :
    if p then GoesTo a (branchThread t (decide p) x) x else FallsThrough a (branchThread t (decide p) x) := by
  by_cases hp : p
  · simp only [hp, branchThread, decide_true, if_true]
    exact goesTo_jumpTo hloop x
  · simp only [hp, branchThread, decide_false, if_false, Bool.false_eq_true]
    exact fallsThrough_nextPc hpc hloop

section branchFrames
variable (t : Thread) (taken : Bool) (x r : Nat)

@[simp] theorem branchThread_h : (branchThread t taken x).h = t.h := by cases taken <;> simp [branchThread]
@[simp] theorem branchThread_p : (branchThread t taken x).p = t.p := by cases taken <;> simp [branchThread]
@[simp] theorem branchThread_flags : (branchThread t taken x).flags = t.flags := by cases taken <;> simp [branchThread]
@[simp] theorem gRd_branchThread : gRd (branchThread t taken x) r = gRd t r := by cases taken <;> simp [branchThread]

end branchFrames

theorem putThr_branchThread (dv : Dev) (k : Nat) (t : Thread) (taken : Bool) (x : Nat) :
    putThr dv k (branchThread t taken x) = if taken then putThr dv k (jumpTo t x) else putThr dv k (nextPc t) :=
  apply_ite (putThr dv k) _ _ _

/-! ### Effects of the instructions -/

section effects
variable (dv : Dev) (k : Nat) (stepping : Bool)

theorem whorlEffect_nop : whorlEffect dv k .nop stepping = putThr dv k (nextPc (thrOf dv k)) := rfl

theorem whorlEffect_jr (a : BitVec 6) :
    whorlEffect dv k (.jr a) stepping = putThr dv k (jumpTo (thrOf dv k) ((specRd (thrOf dv k) a).toNat % 65536)) := rfl

theorem whorlEffect_loop (cnt : BitVec 4) (lenM1 : BitVec 6) (h : (thrOf dv k).pc + (lenM1.toNat + 1) ≤ 65535) :
    whorlEffect dv k (.loop cnt lenM1) stepping = putThr dv k (loopThread (thrOf dv k) cnt.toNat (lenM1.toNat + 1)) :=
  if_neg (Nat.not_lt.mpr h)

variable {x : Nat}

theorem whorlEffect_bc (c : BitVec 4) (back : Bool) (off : BitVec 16)
    (h : branchTarget (thrOf dv k).pc back off.toNat = some x) :
    whorlEffect dv k (.bc c back off) stepping =
      putThr dv k (branchThread (thrOf dv k) (decide (off ≠ 0 ∧ condHolds c (thrOf dv k).flags = true)) x) := by
  by_cases hoff : off = 0#16
  · simp [whorlEffect, putThr_branchThread, hoff]
  · simp [whorlEffect, putThr_branchThread, hoff, h]

theorem whorlEffect_brc (c : BitVec 4) (a b : BitVec 6) (off : BitVec 9)
    (h : branchTarget (thrOf dv k).pc false off.toNat = some x) :
    whorlEffect dv k (.brc c a b off) stepping = putThr dv k (branchThread (thrOf dv k)
      (decide (off ≠ 0 ∧
        condHolds c (aluFlags .cmp 64 (specRd (thrOf dv k) a).toNat (specRd (thrOf dv k) b).toNat) = true)) x) := by
  by_cases hoff : off = 0#9
  · simp [whorlEffect, putThr_branchThread, hoff]
  · simp [whorlEffect, putThr_branchThread, hoff, h]

theorem whorlEffect_jal (back : Bool) (off : BitVec 16) (h : branchTarget (thrOf dv k).pc back off.toNat = some x) :
    whorlEffect dv k (.jal back off) stepping = putThr dv k
      (branchThread (gWr (thrOf dv k) 31 (BitVec.ofNat 64 ((thrOf dv k).pc + 1))) (decide (off ≠ 0)) x) := by
  by_cases hoff : off = 0#16
  · simp [whorlEffect, putThr_branchThread, hoff]
  · simp [whorlEffect, putThr_branchThread, hoff, h]

end effects

/-! ### The commands -/

section commands
variable {s : State} {t : Tid}

theorem exec_nop (h : MayIssue s t .nop) : exec (.nop t) s = .next (issuedTo s t (nextPc (unpassed (thread s t)))) :=
  runs_of_effect h rfl (by rw [whorlEffect_nop, thrOf_issuing_self])

theorem exec_jr {a : BitVec 6} (h : MayIssue s t (.jr a)) :
    exec (.jr t a) s = .next (issuedTo s t (jumpTo (unpassed (thread s t)) ((specRd (thread s t) a).toNat % 65536))) :=
  runs_of_effect h rfl (by rw [whorlEffect_jr, thrOf_issuing_self, specRd_unpassed])

theorem exec_loop {cnt : BitVec 4} {lenM1 : BitVec 6} (h : MayIssue s t (.loop cnt lenM1))
    (hend : (thread s t).pc + (lenM1.toNat + 1) ≤ 65535) :
    exec (.loop t cnt lenM1) s = .next (issuedTo s t (loopThread (unpassed (thread s t)) cnt.toNat (lenM1.toNat + 1))) :=
  runs_of_effect h rfl (by rw [whorlEffect_loop _ _ _ _ _ (by simpa using hend), thrOf_issuing_self])

variable {c : BitVec 4} {back : Bool} {off : BitVec 16} {x : Nat}

theorem exec_bc (h : MayIssue s t (.bc c back off)) (hx : branchTarget (thread s t).pc back off.toNat = some x) :
    exec (.bc t c back off) s = .next (issuedTo s t
      (branchThread (unpassed (thread s t)) (decide (off ≠ 0 ∧ condHolds c (thread s t).flags = true)) x)) :=
  runs_of_effect h rfl (by rw [whorlEffect_bc _ _ _ _ _ _ (by simpa using hx), thrOf_issuing_self, unpassed_flags])

theorem exec_brc {a b : BitVec 6} {off : BitVec 9} (h : MayIssue s t (.brc c a b off))
    (hx : branchTarget (thread s t).pc false off.toNat = some x) :
    exec (.brc t c a b off) s = .next (issuedTo s t (branchThread (unpassed (thread s t)) (decide (off ≠ 0 ∧
      condHolds c (aluFlags .cmp 64 (specRd (thread s t) a).toNat (specRd (thread s t) b).toNat) = true)) x)) :=
  runs_of_effect h rfl
    (by rw [whorlEffect_brc _ _ _ _ _ _ _ (by simpa using hx), thrOf_issuing_self, specRd_unpassed, specRd_unpassed])

theorem exec_jal (h : MayIssue s t (.jal back off)) (hx : branchTarget (thread s t).pc back off.toNat = some x) :
    exec (.jal t back off) s = .next (issuedTo s t
      (branchThread (gWr (unpassed (thread s t)) 31 (BitVec.ofNat 64 ((thread s t).pc + 1))) (decide (off ≠ 0)) x)) :=
  runs_of_effect h rfl (by rw [whorlEffect_jal _ _ _ _ _ (by simpa using hx), thrOf_issuing_self, unpassed_pc])

end commands

theorem toNat_extractLsb'_low16 (x : DWord) : (x.extractLsb' 0 16).toNat = x.toNat % 65536 := by
  rw [BitVec.extractLsb'_toNat, Nat.shiftRight_zero]

/-- Settles O16: each instruction stores its thread, which a jump sends to its target and every other instruction to the next address or
the next pass; the loop follows R92 and R93. -/
theorem branchesAndLoopFollowTable310 : Obligations.BranchesAndLoopFollowTable310 := by
  intro s t c cnt back a b off off9 lenM1
  refine ⟨fun h => ?nop, fun h hlo hhi => ?bc, fun h hhi => ?brc, fun h hend => ?loop, fun h hlo hhi => ?jal, fun h => ?jr⟩
  case nop =>
    refine ⟨_, exec_nop h, onlyIssue_issuedTo _ _ _, ?_⟩
    rw [thread_issuedTo]
    exact ⟨onlyWhere_nextPc _, fallsThrough_nextPc rfl rfl⟩
  case bc =>
    refine ⟨_, exec_bc h (branchTarget_eq_some rfl hlo hhi), onlyIssue_issuedTo _ _ _, ?_⟩
    rw [thread_issuedTo]
    exact ⟨onlyWhere_branchThread _ _ _, continues_branchThread rfl rfl _⟩
  case brc =>
    have hlo : 0 ≤ ((thread s t).pc : Int) + 1 + off9.toNat := by omega
    refine ⟨_, aluFlags .cmp 64 (specRd (thread s t) a).toNat (specRd (thread s t) b).toNat,
      exec_brc h (branchTarget_eq_some rfl hlo hhi), onlyIssue_issuedTo _ _ _, ?_⟩
    rw [thread_issuedTo]
    exact ⟨onlyWhere_branchThread _ _ _, table36_aluFlags_cmp _ _ (by decide), continues_branchThread rfl rfl _⟩
  case loop =>
    refine ⟨_, exec_loop h hend, onlyIssue_issuedTo _ _ _, ?_⟩
    rw [thread_issuedTo]
    exact ⟨rfl, rfl, rfl⟩
  case jal =>
    refine ⟨_, exec_jal h (branchTarget_eq_some rfl hlo hhi), onlyIssue_issuedTo _ _ _, ?_⟩
    rw [thread_issuedTo]
    refine ⟨fun r hr => ?others, fun _ => ?link, ?flags, ?window, ?results,
      continues_branchThread (gWr_pc _ _ _) (gWr_loop _ _ _) _⟩
    case others =>
      simp only [gRd_branchThread, gRd_gWr, if_neg hr, gRd_unpassed]
      grind [gRd]
    case link => simp [gRd_gWr]
    case flags => simp
    case window => simp
    case results => simp
  case jr =>
    refine ⟨_, exec_jr h, onlyIssue_issuedTo _ _ _, ?_⟩
    rw [thread_issuedTo, toNat_extractLsb'_low16]
    exact ⟨onlyWhere_jumpTo _ _, goesTo_jumpTo rfl _⟩

end Sys2Proof.Proofs.Branch
end
